-- ==== Sys2Proof/Word.lean ====
section
/-! DEFINITION. The word types of the Dedar D480 and the sparse table used for units held by number (R5, R6, R57). -/

namespace Sys2Proof

/-- A 64-bit general register value (R57). -/
abbrev Word := BitVec 64

/-- The smallest addressable piece of memory (R6). -/
abbrev Byte := BitVec 8

/-- A program counter: 48 bits (R57). -/
abbrev Pc := BitVec 48

/-- A number of a general register, g0 to g15 (R42). -/
abbrev GReg := BitVec 4

/-- A sparse table: entries by number, numbers strictly rising; a number that is not listed holds the unit's reset state. -/
abbrev Tab (α : Type) := List (Nat × α)

end Sys2Proof
end

