-- ==== Sys2Proof/Syntax.lean ====
section
/-! DEFINITION. The syntax: operand forms, the parcels that travel between units, and Instr with one constructor for each row of spec/opcode_table.json. -/

namespace Sys2Proof

/-- A register source field with its empty-handling bit: true is trap-on-empty (R35). -/
structure Src where
  reg : GReg
  trap : Bool
  deriving DecidableEq, Repr

/-- A vector row operand: accumulator tile and row (R38, R42). -/
structure VRow where
  tile : BitVec 3
  row : BitVec 6
  deriving DecidableEq, Repr

/-- A source modifier (R39): `seg` is log2 of the segment size. -/
inductive SrcMod where
  | none
  | rot (seg : BitVec 4) (d : BitVec 6)
  | bfly (seg : BitVec 4) (d : BitVec 6)
  | bcast (seg : BitVec 4) (d : BitVec 6)
  deriving DecidableEq, Repr

/-- Integer conditions (R48). -/
inductive IntCond where
  | eq | ne | lt | ge | ltu | geu | le | gt | leu | gtu
  deriving DecidableEq, Repr

/-- Floating-point conditions (R48). -/
inductive FpCond where
  | eq | ne | lt | le | gt | ge | un | ord
  deriving DecidableEq, Repr

/-- Rounding modes 0 to 4 (R49, R143). -/
inductive Rm where
  | rne | rtz | rdn | rup | rna
  deriving DecidableEq, Repr

/-- Rounding of VQNT: a mode of R143 or one of the two stochastic modes. -/
inductive QRm where
  | mode (rm : Rm)
  | dith
  | hash
  deriving DecidableEq, Repr

/-- Conversion kinds of FCVT (R49). -/
inductive CvtKind where
  | f2i | i2f | f2bf | bf2f | f2e4 | e42f | f2e5 | e52f
  deriving DecidableEq, Repr

/-- Sizes of the loads (R314). -/
inductive LdSize where
  | b | bu | h | hu | w | wu | d
  deriving DecidableEq, Repr

/-- Sizes of the stores (R326). -/
inductive StSize where
  | b | h | w | d
  deriving DecidableEq, Repr

/-- Memory scopes (R3). -/
inductive Scope where
  | die | dev | dom | sys
  deriving DecidableEq, Repr

/-- The order of an atomic: plain, or an order at a scope (R50). -/
inductive AtOrder where
  | plain
  | acq (s : Scope)
  | rel (s : Scope)
  | acqrel (s : Scope)
  deriving DecidableEq, Repr

/-- Sizes of atomics and remote accesses (R50, R213). -/
inductive AtSize where
  | w | d
  deriving DecidableEq, Repr, Inhabited

/-- Operations of AMO and RAMO (R50). -/
inductive AmoOp where
  | add | and | or | xor | min | max | minu | maxu | swap | fadd
  deriving DecidableEq, Repr, Inhabited

/-- Routing class of a remote access: the page's default or a class (R55, R130). -/
inductive RClass where
  | dflt | o | a | v
  deriving DecidableEq, Repr

/-- Types of accumulator tiles (R167). -/
inductive TileTy where
  | fp32 | bf16 | int32
  deriving DecidableEq, Repr

/-- Weight formats of WLD (R170). -/
inductive WFmt where
  | int3 | int4 | e4m3 | bf16
  deriving DecidableEq, Repr

/-- Activation formats of MMA (R55). -/
inductive AFmt where
  | e4m3 | e5m2 | fp4 | mx4 | bf16
  deriving DecidableEq, Repr

/-- Formats of VQNT (R54). -/
inductive QFmt where
  | e4m3 | e5m2 | mx4
  deriving DecidableEq, Repr

/-- Operations of VRED and CPYRED (R54, R55). -/
inductive RedOp where
  | add | min | max
  deriving DecidableEq, Repr

/-- Element types of CPYRED (R55). -/
inductive RedTy where
  | fp32 | bf16 | int32
  deriving DecidableEq, Repr

/-- The packet header of R212. -/
structure Hdr where
  dev : BitVec 11
  tile : BitVec 11
  sdev : BitVec 11
  stile : BitVec 11
  ctx : BitVec 6
  cls : BitVec 2
  ent : BitVec 4
  vc : BitVec 4
  win : BitVec 10
  gen : BitVec 14
  op : BitVec 6
  seq : BitVec 16
  mid : BitVec 11
  ph : BitVec 1
  cm : BitVec 1
  rsv : BitVec 6
  link : BitVec 3
  deriving DecidableEq, Repr, Inhabited

/-- The four payload registers g0-g3, each with its poison. -/
structure Payload where
  g0 : Word
  g1 : Word
  g2 : Word
  g3 : Word
  p0 : Bool
  p1 : Bool
  p2 : Bool
  p3 : Bool
  deriving DecidableEq, Repr, Inhabited

/-- What a packet or an on-device message carries (R83, R212, R213, R226). -/
inductive Body where
  | load (wo : Nat) (size : AtSize)
  | store (wo : Nat) (size : AtSize) (data : Word) (poison : Bool)
  | amo (wo : Nat) (size : AtSize) (op : AmoOp) (data : Word) (poison : Bool)
  | cas (wo : Nat) (size : AtSize) (expect : Word) (data : Word) (poison expectPoison : Bool)
  | wim (wo : Nat) (size : AtSize) (data : Word) (poison : Bool) (sem : BitVec 8)
  | message (tag : BitVec 16) (sender : Word) (p : Payload)
  | spawn (pc : Word) (p : Payload) (pri : BitVec 3) (sid : BitVec 48)
  | invoke (pc : Word) (p : Payload) (pri : BitVec 3) (sid : BitVec 48) (handle : Word) (target : Word)
  | waiter (upstream : Word) (pc : Word) (p : Payload) (pri : BitVec 3) (sid : BitVec 48) (handle : Word)
  | successor (pc : Word) (g0 : Word) (p0 : Bool) (p : Payload) (pri : BitVec 3) (sid : BitVec 48) (handle : Word) (odev : BitVec 11) (octx : BitVec 6)
  | fulfil (handle : Word) (result : Word) (poison : Bool) (dev tile : BitVec 11)
  | hget (handle : Word)
  | htest (handle : Word)
  | hdrop (handle : Word)
  | hcancel (handle : Word)
  | location (handle : Word) (dev tile : BitVec 11)
  | broken (handle : Word) (cause : BitVec 8) (derived : Bool)
  | data (value : Word) (poison : Bool) (events : List Nat)
  | status (value : Word)
  | ack
  | error (code : BitVec 8)
  deriving DecidableEq, Repr, Inhabited

/-- A parcel: a packet of R212 with its payload, or the same thing between two tiles of the device.
`slot` is the source slot, `rid` the source tile's access entry, `sid` and `tag` the contender of R237, `peer` the issuing context's peer id (R224), `port` the port it came in by (12 for none), `acked` whether its sender has been
answered. -/
structure Packet where
  hdr : Hdr
  slot : BitVec 8
  rid : Nat
  sid : BitVec 48
  tag : BitVec 16
  peer : BitVec 17
  port : Nat
  acked : Bool
  body : Body
  deriving DecidableEq, Repr, Inhabited

/-- A flit on a link (R280): the header with its slot and kind, ciphertext and tag, and the counter it was sealed under, which does not
travel. -/
structure Flit where
  hdr : BitVec 128
  slot : Bool
  kind : BitVec 2
  counter : Word
  ct : BitVec 1792
  mac : BitVec 128
  deriving DecidableEq, Repr

/-- What DEVICE_RESET finds outside the package: boot flash, the PUF's seed if it can be reconstructed, and the DEVID balls (R206, R268, R273). -/
structure BootPins where
  manifest : List Byte
  image : List Byte
  puf : Option (BitVec 256)
  devid : BitVec 11
  deriving DecidableEq, Repr

/-- The rows of spec/opcode_table.json. The first group are instructions, the second events of the device's units. -/
inductive Instr where
  -- integer group (R287, R288, R310, R311, R322)
  | add (d : GReg) (a b : Src)
  | sub (d : GReg) (a b : Src)
  | mul (d : GReg) (a b : Src)
  | mulh (d : GReg) (a b : Src)
  | mulhu (d : GReg) (a b : Src)
  | div (d : GReg) (a b : Src)
  | divu (d : GReg) (a b : Src)
  | rem (d : GReg) (a b : Src)
  | remu (d : GReg) (a b : Src)
  | and (d : GReg) (a b : Src)
  | or (d : GReg) (a b : Src)
  | xor (d : GReg) (a b : Src)
  | andn (d : GReg) (a b : Src)
  | shl (d : GReg) (a b : Src)
  | shr (d : GReg) (a b : Src)
  | sra (d : GReg) (a b : Src)
  | rol (d : GReg) (a b : Src)
  | min (d : GReg) (a b : Src)
  | max (d : GReg) (a b : Src)
  | minu (d : GReg) (a b : Src)
  | maxu (d : GReg) (a b : Src)
  | clz (d : GReg) (a : Src)
  | ctz (d : GReg) (a : Src)
  | popc (d : GReg) (a : Src)
  | bswap (d : GReg) (a : Src)
  | mov (d : GReg) (a : Src)
  | set (c : IntCond) (d : GReg) (a b : Src)
  | sel (d : GReg) (c a b : Src)
  | addi (d : GReg) (a : Src) (imm : BitVec 15)
  | andi (d : GReg) (a : Src) (imm : BitVec 15)
  | ori (d : GReg) (a : Src) (imm : BitVec 15)
  | xori (d : GReg) (a : Src) (imm : BitVec 15)
  | shli (d : GReg) (a : Src) (n : BitVec 6)
  | shri (d : GReg) (a : Src) (n : BitVec 6)
  | srai (d : GReg) (a : Src) (n : BitVec 6)
  | seti (c : IntCond) (d : GReg) (a : Src) (imm : BitVec 11)
  | ext (d : GReg) (a : Src) (pos lm1 : BitVec 6)
  | ins (d : GReg) (a : Src) (pos lm1 : BitVec 6)
  -- scalar floating point (R305)
  | fadd (rm : Rm) (d : GReg) (a b : Src)
  | fsub (rm : Rm) (d : GReg) (a b : Src)
  | fmul (rm : Rm) (d : GReg) (a b : Src)
  | ffma (rm : Rm) (d : GReg) (a b : Src)
  | fmin (d : GReg) (a b : Src)
  | fmax (d : GReg) (a b : Src)
  | fcvt (k : CvtKind) (rm : Rm) (d : GReg) (a : Src)
  | fset (c : FpCond) (d : GReg) (a b : Src)
  -- SRAM loads and stores, S forms (R314, R326)
  | ldb (d : GReg) (a : Src) (off : BitVec 15)
  | ldbu (d : GReg) (a : Src) (off : BitVec 15)
  | ldh (d : GReg) (a : Src) (off : BitVec 15)
  | ldhu (d : GReg) (a : Src) (off : BitVec 15)
  | ldw (d : GReg) (a : Src) (off : BitVec 15)
  | ldwu (d : GReg) (a : Src) (off : BitVec 15)
  | ldd (d : GReg) (a : Src) (off : BitVec 15)
  | ldAcq (sz : LdSize) (sc : Scope) (d : GReg) (a : Src) (off : BitVec 5)
  | stb (a s : Src) (off : BitVec 14)
  | sth (a s : Src) (off : BitVec 14)
  | stw (a s : Src) (off : BitVec 14)
  | std (a s : Src) (off : BitVec 14)
  | stRel (sz : StSize) (sc : Scope) (a s : Src) (off : BitVec 5)
  | amo (op : AmoOp) (sz : AtSize) (ord : AtOrder) (d : GReg) (a b : Src)
  | cas (sz : AtSize) (ord : AtOrder) (d : GReg) (a b : Src)
  -- branches, calls, loops (R291, R312, R313, R67, R66)
  | bCond (c : IntCond) (a b : Src) (off : BitVec 10)
  | jmp (off : BitVec 24)
  | jal (off : BitVec 24)
  | jalr (a : Src)
  | loop (e : BitVec 4) (m : BitVec 6) (len : BitVec 9) (c : Src)
  | loopn (e : BitVec 4) (m : BitVec 6) (len : BitVec 9) (c : Src)
  | align (n : BitVec 15)
  | trap (n : BitVec 15)
  -- class Y (R51)
  | spawn (d : GReg) (a b : Src) (pri : BitVec 3)
  | join (a : Src)
  | setpri (n : BitVec 3)
  | tid (d : GReg)
  | migrate (a : Src)
  | launch (d : GReg) (a : Src)
  | evset (n : BitVec 8)
  | evclr (n : BitVec 8)
  | invoke (d : GReg) (a b : Src)
  | invokeh (d : GReg) (a b : Src)
  | done (a : Src)
  | hget (d : GReg) (a : Src)
  | htest (d : GReg) (a : Src)
  | hcancel (a : Src)
  | hdrop (a : Src)
  | swait (d : GReg) (sem : BitVec 8) (n : BitVec 6)
  | swaitReg (d : GReg) (sem : BitVec 8) (a : Src)
  | ssig (sem : BitVec 8) (n : BitVec 6)
  | ssigReg (sem : BitVec 8) (a : Src)
  | sset (sem : BitVec 8) (n : BitVec 6)
  | ssetReg (sem : BitVec 8) (a : Src)
  | sread (d : GReg) (sem : BitVec 8)
  | fetst (d a : GReg)
  | fecan (d : GReg)
  | send (a b : Src)
  | rqcnt (d : GReg)
  | binit (a b : Src) (c : GReg)
  | barr (d : GReg) (a : Src) (n : BitVec 10)
  | bexp (a b : Src)
  | bwait (d : GReg) (a b : Src) (t : BitVec 10)
  | fence (sc : Scope) (d : GReg) (mask : BitVec 3)
  | wopen (d : GReg) (a b : Src)
  | wrevoke (d : GReg) (a : Src)
  | rdctl (d : GReg) (ctl : BitVec 14)
  | wrctl (ctl : BitVec 14) (a : Src)
  | capr (d : GReg) (a : Src)
  | tlbinv (a : Src)
  | tlbinvAll (a : Src)
  | ctxsave (d : GReg) (a : Src)
  | ctxload (d : GReg) (a : Src)
  | hint (k : BitVec 2) (h : BitVec 24)
  -- vector (R332)
  | vadd (vd va vb : VRow) (ma mb : SrcMod)
  | vsub (vd va vb : VRow) (ma mb : SrcMod)
  | vmul (vd va vb : VRow) (ma mb : SrcMod)
  | vfma (vd va vb : VRow) (ma mb : SrcMod)
  | vmin (vd va vb : VRow) (ma mb : SrcMod)
  | vmax (vd va vb : VRow) (ma mb : SrcMod)
  | vminm (vd va vb : VRow) (ma mb : SrcMod)
  | vmaxm (vd va vb : VRow) (ma mb : SrcMod)
  | vabs (vd va : VRow) (ma : SrcMod)
  | vneg (vd va : VRow) (ma : SrcMod)
  | vcmp (c : FpCond) (vd va vb : VRow) (ma mb : SrcMod)
  | vsel (vd va vb : VRow) (ma mb : SrcMod)
  | vexp2 (vd va : VRow) (ma : SrcMod)
  | vlog2 (vd va : VRow) (ma : SrcMod)
  | vrcp (vd va : VRow) (ma : SrcMod)
  | vrsq (vd va : VRow) (ma : SrcMod)
  | vtanh (vd va : VRow) (ma : SrcMod)
  | vcvt (rm : Rm) (vd va : VRow) (ma : SrcMod)
  | vqnt (f : QFmt) (rm : QRm) (vd va : VRow) (ma : SrcMod) (soff : BitVec 12)
  | vdot (vd va vb : VRow) (ma mb : SrcMod)
  | vred (op : RedOp) (d : GReg) (va : VRow) (ma : SrcMod)
  | vbc (te : Bool) (vd : VRow) (b : GReg)
  | vld (te : Bool) (vd : VRow) (a : GReg) (off : BitVec 12)
  | vst (te : Bool) (a : GReg) (off : BitVec 12) (vb : VRow) (mb : SrcMod)
  | vmov (vd va : VRow) (ma : SrcMod)
  | vscl (te : Bool) (vd va : VRow) (ma : SrcMod) (b : GReg)
  | viadd (vd va vb : VRow) (ma mb : SrcMod)
  | vand (vd va vb : VRow) (ma mb : SrcMod)
  | vor (vd va vb : VRow) (ma mb : SrcMod)
  | vxor (vd va vb : VRow) (ma mb : SrcMod)
  | vshl (vd va vb : VRow) (ma mb : SrcMod)
  | vshr (arith : Bool) (vd va vb : VRow) (ma mb : SrcMod)
  -- Millstone (R161-R174)
  | lease (d : GReg) (nm1 : BitVec 8)
  | aown (t : BitVec 3) (ty : TileTy)
  | afree (t : BitVec 3)
  | scld (te : Bool) (a b : GReg) (soff : BitVec 10) (s : BitVec 8)
  | wld (te : Bool) (f : WFmt) (plane : Bool) (a : GReg) (soff zoff : BitVec 12)
  | chb (te : Bool) (nm1 : BitVec 8) (a b : GReg)
  | mma (te : Bool) (f : AFmt) (plane : Bool) (mm1 : BitVec 6) (a : GReg) (idx : Option (GReg × GReg)) (soff : BitVec 12) (k b s : BitVec 8)
  | cheW (te acc : Bool) (t : BitVec 3) (mask : Option GReg) (s : BitVec 8)
  | cheL (te acc : Bool) (t : BitVec 3) (mask : Option GReg) (s ev : BitVec 8)
  | asave (te : Bool) (t : BitVec 3) (a : GReg) (s : BitVec 8)
  | aload (te : Bool) (t : BitVec 3) (a : GReg) (s : BitVec 8)
  -- Flume (R196)
  | cpyW (te : Bool) (d a b : GReg) (s : BitVec 8) (ds : Option (BitVec 8))
  | cpyL (te : Bool) (d a b : GReg) (s : BitVec 8) (ds : Option (BitVec 8)) (ev : BitVec 8)
  | cpysW (te : Bool) (d a b : GReg) (s : BitVec 8) (ds : Option (BitVec 8))
  | cpysL (te : Bool) (d a b : GReg) (s : BitVec 8) (ds : Option (BitVec 8)) (ev : BitVec 8)
  | cpyselW (te : Bool) (d a b : GReg) (s : BitVec 8) (ds : Option (BitVec 8))
  | cpyselL (te : Bool) (d a b : GReg) (s : BitVec 8) (ds : Option (BitVec 8)) (ev : BitVec 8)
  | cpyredW (te : Bool) (op : RedOp) (ty : RedTy) (seq : Bool) (d a b : GReg) (s : BitVec 8) (ds : Option (BitVec 8))
  | cpyredL (te : Bool) (op : RedOp) (ty : RedTy) (seq : Bool) (d a b : GReg) (s : BitVec 8) (ds : Option (BitVec 8)) (ev : BitVec 8)
  | cpyfillW (te : Bool) (d a b : GReg) (s : BitVec 8) (ds : Option (BitVec 8))
  | cpyfillL (te : Bool) (d a b : GReg) (s : BitVec 8) (ds : Option (BitVec 8)) (ev : BitVec 8)
  -- literals, long memory forms (R317, R314, R326)
  | li (h te : Bool) (d : GReg) (imm : BitVec 32)
  | ldbW (te : Bool) (d a : GReg) (off : BitVec 24)
  | ldbL (te : Bool) (d a : GReg) (off : BitVec 32)
  | ldbuW (te : Bool) (d a : GReg) (off : BitVec 24)
  | ldbuL (te : Bool) (d a : GReg) (off : BitVec 32)
  | ldhW (te : Bool) (d a : GReg) (off : BitVec 24)
  | ldhL (te : Bool) (d a : GReg) (off : BitVec 32)
  | ldhuW (te : Bool) (d a : GReg) (off : BitVec 24)
  | ldhuL (te : Bool) (d a : GReg) (off : BitVec 32)
  | ldwW (te : Bool) (d a : GReg) (off : BitVec 24)
  | ldwL (te : Bool) (d a : GReg) (off : BitVec 32)
  | ldwuW (te : Bool) (d a : GReg) (off : BitVec 24)
  | ldwuL (te : Bool) (d a : GReg) (off : BitVec 32)
  | lddW (te : Bool) (d a : GReg) (off : BitVec 24)
  | lddL (te : Bool) (d a : GReg) (off : BitVec 32)
  | stbW (te : Bool) (a b : GReg) (off : BitVec 24)
  | stbL (te : Bool) (a b : GReg) (off : BitVec 32)
  | sthW (te : Bool) (a b : GReg) (off : BitVec 24)
  | sthL (te : Bool) (a b : GReg) (off : BitVec 32)
  | stwW (te : Bool) (a b : GReg) (off : BitVec 24)
  | stwL (te : Bool) (a b : GReg) (off : BitVec 32)
  | stdW (te : Bool) (a b : GReg) (off : BitVec 24)
  | stdL (te : Bool) (a b : GReg) (off : BitVec 32)
  -- remote (R213)
  | rldW (te : Bool) (c : RClass) (sz : AtSize) (d a : GReg) (off : BitVec 12)
  | rldL (te : Bool) (c : RClass) (sz : AtSize) (d a : GReg) (off : BitVec 32)
  | rstW (te : Bool) (c : RClass) (sz : AtSize) (a b : GReg) (off : BitVec 12)
  | rstL (te : Bool) (c : RClass) (sz : AtSize) (a b : GReg) (off : BitVec 32)
  | ramoW (te : Bool) (op : AmoOp) (c : RClass) (sz : AtSize) (d a b : GReg) (off : BitVec 12)
  | ramoL (te : Bool) (op : AmoOp) (c : RClass) (sz : AtSize) (d a b : GReg) (off : BitVec 32)
  | rcasW (te : Bool) (c : RClass) (sz : AtSize) (d a b : GReg) (off : BitVec 12)
  | rcasL (te : Bool) (c : RClass) (sz : AtSize) (d a b : GReg) (off : BitVec 32)
  | rwimW (te : Bool) (c : RClass) (sz : AtSize) (a b : GReg) (off : BitVec 12) (sem : BitVec 8)
  | rwimL (te : Bool) (c : RClass) (sz : AtSize) (a b : GReg) (off : BitVec 32) (sem : BitVec 8)
  -- events that others cause: arrivals at tiles and at the fabric
  | migrateArrival (tile slot target : Nat)
  | semaphoreServe (tile sem : Nat)
  | hbmScrubWriteback (unit : Nat)
  | bankSlotService (tile bank : Nat)
  | storeDrain (tile : Nat)
  | bridgeBufferPerform (die bank : Nat)
  | messageEntry (p : Packet)
  | packetHop (p : Packet)
  | classOPass (sdev stile : BitVec 11) (slot : BitVec 8)
  | rldRequest (p : Packet)
  | rstRequest (p : Packet)
  | ramoRequest (p : Packet)
  | rcasRequest (p : Packet)
  | rwimRequest (p : Packet)
  | response (p : Packet)
  | errorResponse (p : Packet)
  | spawnRequest (p : Packet)
  | invokeRequest (p : Packet)
  | waiterRecordArrival (p : Packet)
  | fulfilmentArrival (p : Packet)
  | successorCreate (p : Packet)
  | hgetRequest (p : Packet)
  | htestRequest (p : Packet)
  | hdropRequest (p : Packet)
  | hcancelRequest (p : Packet)
  | locationUpdate (p : Packet)
  | handleBreakArrival (p : Packet)
  -- events of threads and sequencers
  | alignTimeout (cluster : Nat) (ctx : BitVec 6) (pc : Pc)
  | bwaitWake (tile slot : Nat)
  | bwaitTimeout (tile slot : Nat)
  | fenceTimeout (tile slot : Nat)
  | wrevokeComplete (w : Nat)
  -- events of the Tailrace and the Millstone; k is a place in the command queue
  | tailraceStart (cluster : Nat)
  | vredFill (cluster : Nat)
  | leaseGrant (cluster : Nat)
  | inningsExpiry (cluster : Nat)
  | scldComplete (cluster k : Nat)
  | wldComplete (cluster k : Nat)
  | mmaComplete (cluster k : Nat)
  | cheFoldComplete (cluster k : Nat)
  | asaveComplete (cluster k : Nat)
  | aloadComplete (cluster k : Nat)
  -- events of Flumes and HBM controllers; k is a place among the packets read
  | flumeCommandStart (flume : Nat)
  | flumeRead (flume : Nat)
  | flumePacketLand (flume k : Nat)
  | cpyredApply (tile bank : Nat)
  -- events of memory
  -- events of the dispatcher, exception windows, the Sluice
  | ringAdmission (ctx : BitVec 6)
  | excWindowBoundary (tile : Nat) (ctx : BitVec 6)
  | sluiceReplay (ctx : BitVec 6) (tile : Nat)
  -- events of the order log, the I/O die and boot
  | replayDeliver (ctx : BitVec 6)
  | replayDiverge (ctx : BitVec 6) (point : BitVec 6) (site : BitVec 34)
  | replayEnd (ctx : BitVec 6)
  -- events of the links
  | flitSend (port : Nat)
  | linkDue (port : Nat)
  | linkCounterExhausted (port : Nat)
  -- events that the outside world or software chooses (R113, R114, R268-R274, R280-R285, R338)
  | deviceReset (pins : BootPins)
  | dhcpLease (ip : BitVec 32)
  | tftpWriteManifest (bytes : List Byte)
  | tftpWriteImage (bytes : List Byte)
  | attestationRequest (nonce : BitVec 256)
  | flitReceive (port : Nat) (f : Flit)
  | nakReceive (port : Nat) (slot : Bool) (counter : Word)
  | ackReceive (port : Nat) (slot : Bool) (counter : Word)
  | downNoticeReceive (port : Nat)
  | linkAuthDown (port : Nat)
  | lnkSwitch (port : Nat)
  | keyInstall (port : Nat) (rx : Bool) (slot : Bool)
  | keyErase (port : Nat) (rx : Bool) (slot : Bool)
  | fabRtdataWrite (v : Word)
  | elogPop (die : Nat) (v : Word)
  | elogStatClear (die : Nat) (v : Word)
  | hbmErrClear (die : Nat) (v : Word)
  | irqStatClear (v : Word)
  | hbmNrrWrite (die : Nat) (v : Word)
  | trapGvalWrite (tile : Nat) (ctx : BitVec 6) (v : Word)
  | trapConsWrite (ctx : BitVec 6) (v : Word)
  | ordConsWrite (ctx : BitVec 6) (v : Word)
  | ctxEvecWrite (ctx : BitVec 6) (k : BitVec 2) (v : Word)
  | pageWalk (tile : Nat) (ctx : BitVec 6) (va : Word)
  | hbmRowActivate (ctl : Nat)
  | nrrReload (ctl : Nat)
  -- rows without an argument
  | ret
  | nop
  | quit
  | yield
  | recv
  | lfree
  | eret
  | wfe
  | launchStart
  | irqRecordWrite
  | dhcpTimeout
  | tftpOtherRequest
  deriving DecidableEq, Repr

end Sys2Proof
end

