-- ==== Sys2Proof/WellFormed.lean ====
section
/-! DEFINITION. Which instruction terms have an encoding: the field limits that decode enforces with ILLEGAL (R34, R36-R40, R46-R55, R170, R172, R317). -/

namespace Sys2Proof

/-- The numbers that name a control register (R320). -/
def ctlNumbers : List Nat :=
  [0x0010, 0x0011, 0x0020, 0x0021, 0x0022, 0x0023, 0x0024, 0x0025, 0x0026, 0x0027, 0x0028, 0x0030, 0x0032, 0x0033, 0x0038,
   0x0040, 0x0041, 0x0042, 0x0043, 0x0048] ++
  [0x0050, 0x0051, 0x0052, 0x0053, 0x0054, 0x0055, 0x0056, 0x0057, 0x0058, 0x0059, 0x005A, 0x005B, 0x005C, 0x005D, 0x005E, 0x005F,
   0x0060, 0x0061, 0x0070, 0x0071, 0x0080, 0x0081, 0x0082, 0x0083, 0x0090, 0x0091, 0x0092] ++
  [0x00A0, 0x00A1, 0x00A2, 0x00A3, 0x00A4, 0x00B0, 0x00B1, 0x00B2, 0x00B4, 0x00B5, 0x00B8, 0x00BC, 0x00BD,
   0x00C0, 0x00C1, 0x00C2, 0x00C3, 0x00C4, 0x00C5, 0x00D1, 0x00D2, 0x00D3, 0x00D4, 0x00D5, 0x00D6, 0x00D7, 0x00D8, 0x00D9, 0x00DA, 0x00DB] ++
  [0x00E0, 0x00E1, 0x00E2, 0x00E3, 0x00E4, 0x00E5, 0x00E6, 0x00E7, 0x00F0, 0x00F1, 0x00F2]

def ctlValid (c : BitVec 14) : Bool := ctlNumbers.contains c.toNat

/-- The limits of a source modifier at decode (R39). -/
def SrcMod.wf : SrcMod → Bool
  | .none => true
  | .rot seg d => 1 ≤ seg.toNat && seg.toNat ≤ 9 && d.toNat < 2 ^ seg.toNat
  | .bfly seg d => 1 ≤ seg.toNat && seg.toNat ≤ 9 && d.toNat < seg.toNat
  | .bcast seg d => 1 ≤ seg.toNat && seg.toNat ≤ 9 && d.toNat < 2 ^ seg.toNat

/-- The widening kinds of FCVT, which take no rounding mode (R305). -/
def CvtKind.widening : CvtKind → Bool
  | .bf2f | .e42f | .e52f => true
  | .f2i | .i2f | .f2bf | .f2e4 | .f2e5 => false

/-- The limits of MMA's fields (R159, R172). -/
def mmaFieldsWf (f : AFmt) (mm1 : BitVec 6) (soff : BitVec 12) (k b : BitVec 8) : Bool :=
  (match f with
   | .fp4 | .mx4 => k.toNat = 0
   | .e4m3 | .e5m2 => k.toNat < 2
   | .bf16 => k.toNat < 4) &&
  (f == .mx4 || b == 0) && (f != .bf16 || soff == 0) && 16 * soff.toNat + 4 * (mm1.toNat + 1) ≤ 65536

/-- The limits of WLD's fields (R170). -/
def wldFieldsWf (f : WFmt) (soff zoff : BitVec 12) : Bool :=
  (match f with
   | .int3 | .int4 => true
   | .e4m3 => zoff == 0
   | .bf16 => zoff == 0 && soff == 0) && soff.toNat ≤ 4032 && zoff.toNat ≤ 4064

/-- The rows that are events and no instruction of any thread. -/
def Instr.isEvent : Instr → Bool
  | .alignTimeout .. | .migrateArrival .. | .semaphoreServe .. | .bwaitWake .. | .bwaitTimeout .. | .fenceTimeout ..
  | .wrevokeComplete .. | .tailraceStart .. | .vredFill .. | .leaseGrant .. | .inningsExpiry .. | .scldComplete ..
  | .wldComplete .. | .mmaComplete .. | .cheFoldComplete .. | .asaveComplete .. | .aloadComplete .. | .flumeCommandStart ..
  | .flumeRead .. | .flumePacketLand .. | .cpyredApply .. | .hbmScrubWriteback .. | .hbmRowActivate .. | .nrrReload ..
  | .bankSlotService .. | .storeDrain .. | .bridgeBufferPerform .. | .pageWalk .. | .ringAdmission .. | .launchStart
  | .excWindowBoundary .. | .messageEntry .. | .sluiceReplay .. | .packetHop .. | .classOPass .. | .rldRequest ..
  | .rstRequest .. | .ramoRequest .. | .rcasRequest .. | .rwimRequest .. | .response .. | .errorResponse ..
  | .spawnRequest .. | .invokeRequest .. | .waiterRecordArrival .. | .fulfilmentArrival .. | .successorCreate ..
  | .hgetRequest .. | .htestRequest .. | .hdropRequest .. | .hcancelRequest .. | .locationUpdate .. | .handleBreakArrival ..
  | .replayDeliver .. | .replayDiverge .. | .replayEnd .. | .irqRecordWrite | .deviceReset .. | .dhcpLease .. | .dhcpTimeout
  | .tftpWriteManifest .. | .tftpWriteImage .. | .tftpOtherRequest | .attestationRequest .. | .flitSend .. | .linkDue ..
  | .linkCounterExhausted .. | .flitReceive .. | .linkAuthDown .. | .nakReceive .. | .ackReceive .. | .downNoticeReceive ..
  | .lnkSwitch .. | .keyInstall .. | .keyErase .. | .fabRtdataWrite .. | .elogPop .. | .elogStatClear .. | .hbmErrClear ..
  | .irqStatClear .. | .hbmNrrWrite .. | .trapGvalWrite .. | .trapConsWrite .. | .ordConsWrite .. | .ctxEvecWrite .. => true
  | _ => false

/-- An instruction term that some instruction word stands for. -/
def Instr.wf (i : Instr) : Bool :=
  !i.isEvent &&
  match i with
  | .ext _ _ pos lm1 | .ins _ _ pos lm1 => pos.toNat + lm1.toNat + 1 ≤ 64
  | .fcvt k rm _ _ => !k.widening || rm == .rne
  | .amo op sz _ _ _ _ => op != .fadd || sz == .w
  | .loop _ _ len _ | .loopn _ _ len _ => len != 0
  | .align n => n != 0
  | .barr _ _ n => n != 0
  | .fence sc _ mask => sc == .dom || sc == .sys || mask == 0
  | .rdctl _ c | .wrctl c _ => ctlValid c
  | .vadd _ _ _ ma mb | .vsub _ _ _ ma mb | .vmul _ _ _ ma mb | .vfma _ _ _ ma mb | .vmin _ _ _ ma mb | .vmax _ _ _ ma mb
  | .vminm _ _ _ ma mb | .vmaxm _ _ _ ma mb | .vcmp _ _ _ _ ma mb | .vsel _ _ _ ma mb | .vdot _ _ _ ma mb
  | .viadd _ _ _ ma mb | .vand _ _ _ ma mb | .vor _ _ _ ma mb | .vxor _ _ _ ma mb | .vshl _ _ _ ma mb
  | .vshr _ _ _ _ ma mb => ma.wf && mb.wf
  | .vabs _ _ ma | .vneg _ _ ma | .vexp2 _ _ ma | .vlog2 _ _ ma | .vrcp _ _ ma | .vrsq _ _ ma | .vtanh _ _ ma
  | .vcvt _ _ _ ma | .vqnt _ _ _ _ ma _ | .vred _ _ _ ma | .vmov _ _ ma | .vscl _ _ _ ma _ => ma.wf
  | .vst _ _ _ _ mb => mb.wf
  | .wld _ f _ _ soff zoff => wldFieldsWf f soff zoff
  | .mma _ f _ mm1 _ _ soff k b _ => mmaFieldsWf f mm1 soff k b
  | .cheW te _ _ mask _ => mask.isSome || !te
  | .cheL te _ _ mask _ _ => mask.isSome || !te
  | .li h te _ _ => h || !te
  | .ramoW _ op _ sz _ _ _ _ => op != .fadd || sz == .w
  | .ramoL _ op _ sz _ _ _ _ => op != .fadd || sz == .w
  | _ => true

end Sys2Proof
end

