-- ==== Sys2Proof/Decode.lean ====
section
/-! DEFINITION. The decoder, total on any bytes (R32-R40, R46-R55), and after it the encoder.
An instruction is one little-endian number: bit 0 is the lowest bit of its first word (R6, R32). -/

namespace Sys2Proof

/-! ## Fields and codes -/

/-- Bits [lo + w - 1 : lo] of a number. -/
def fld (n lo w : Nat) : Nat := n / 2 ^ lo % 2 ^ w
def bitAt (n lo : Nat) : Bool := fld n lo 1 == 1
def gAt (n lo : Nat) : GReg := BitVec.ofNat 4 (fld n lo 4)
/-- The source register at `lo` with its empty-handling bit at `e` (R35). -/
def srcAt (n lo e : Nat) : Src := ⟨gAt n lo, bitAt n e⟩
def b2n (b : Bool) : Nat := if b then 1 else 0

def IntCond.code : IntCond → Nat
  | .eq => 0 | .ne => 1 | .lt => 2 | .ge => 3 | .ltu => 4 | .geu => 5 | .le => 6 | .gt => 7 | .leu => 8 | .gtu => 9
def IntCond.ofCode : Nat → Option IntCond
  | 0 => some .eq | 1 => some .ne | 2 => some .lt | 3 => some .ge | 4 => some .ltu | 5 => some .geu
  | 6 => some .le | 7 => some .gt | 8 => some .leu | 9 => some .gtu | _ => none

def FpCond.code : FpCond → Nat
  | .eq => 0 | .ne => 1 | .lt => 2 | .le => 3 | .gt => 4 | .ge => 5 | .un => 6 | .ord => 7
def FpCond.ofCode : Nat → Option FpCond
  | 0 => some .eq | 1 => some .ne | 2 => some .lt | 3 => some .le | 4 => some .gt | 5 => some .ge | 6 => some .un
  | 7 => some .ord | _ => none

def Rm.code : Rm → Nat
  | .rne => 0 | .rtz => 1 | .rdn => 2 | .rup => 3 | .rna => 4
def Rm.ofCode : Nat → Option Rm
  | 0 => some .rne | 1 => some .rtz | 2 => some .rdn | 3 => some .rup | 4 => some .rna | _ => none

def QRm.code : QRm → Nat
  | .mode rm => rm.code | .dith => 5 | .hash => 6
def QRm.ofCode : Nat → Option QRm
  | 5 => some .dith | 6 => some .hash | n => (Rm.ofCode n).map .mode

def CvtKind.code : CvtKind → Nat
  | .f2i => 0 | .i2f => 1 | .f2bf => 2 | .bf2f => 3 | .f2e4 => 4 | .e42f => 5 | .f2e5 => 6 | .e52f => 7
def CvtKind.ofCode : Nat → Option CvtKind
  | 0 => some .f2i | 1 => some .i2f | 2 => some .f2bf | 3 => some .bf2f | 4 => some .f2e4 | 5 => some .e42f
  | 6 => some .f2e5 | 7 => some .e52f | _ => none

def LdSize.code : LdSize → Nat
  | .b => 0 | .bu => 1 | .h => 2 | .hu => 3 | .w => 4 | .wu => 5 | .d => 6
def LdSize.ofCode : Nat → Option LdSize
  | 0 => some .b | 1 => some .bu | 2 => some .h | 3 => some .hu | 4 => some .w | 5 => some .wu | 6 => some .d | _ => none

def StSize.code : StSize → Nat
  | .b => 0 | .h => 2 | .w => 4 | .d => 6
def StSize.ofCode : Nat → Option StSize
  | 0 => some .b | 2 => some .h | 4 => some .w | 6 => some .d | _ => none

def Scope.code : Scope → Nat
  | .die => 0 | .dev => 1 | .dom => 2 | .sys => 3
def Scope.ofCode : Nat → Option Scope
  | 0 => some .die | 1 => some .dev | 2 => some .dom | 3 => some .sys | _ => none

/-- Order in [5:4] and scope in [3:2] of an atomic's fn10 (R50). -/
def AtOrder.code : AtOrder → Nat
  | .plain => 0
  | .acq s => 4 + s.code
  | .rel s => 8 + s.code
  | .acqrel s => 12 + s.code
def AtOrder.ofCode (n : Nat) : Option AtOrder :=
  match n / 4, Scope.ofCode (n % 4) with
  | 0, some .die => some .plain
  | 1, some s => some (.acq s)
  | 2, some s => some (.rel s)
  | 3, some s => some (.acqrel s)
  | _, _ => none

def AtSize.code : AtSize → Nat
  | .w => 2 | .d => 3
def AtSize.ofCode : Nat → Option AtSize
  | 2 => some .w | 3 => some .d | _ => none

def AmoOp.code : AmoOp → Nat
  | .add => 0 | .and => 1 | .or => 2 | .xor => 3 | .min => 4 | .max => 5 | .minu => 6 | .maxu => 7 | .swap => 8 | .fadd => 9
def AmoOp.ofCode : Nat → Option AmoOp
  | 0 => some .add | 1 => some .and | 2 => some .or | 3 => some .xor | 4 => some .min | 5 => some .max | 6 => some .minu
  | 7 => some .maxu | 8 => some .swap | 9 => some .fadd | _ => none

def RClass.code : RClass → Nat
  | .dflt => 0 | .o => 1 | .a => 2 | .v => 3
def RClass.ofCode : Nat → Option RClass
  | 0 => some .dflt | 1 => some .o | 2 => some .a | 3 => some .v | _ => none

def TileTy.code : TileTy → Nat
  | .fp32 => 0 | .bf16 => 1 | .int32 => 2
def TileTy.ofCode : Nat → Option TileTy
  | 0 => some .fp32 | 1 => some .bf16 | 2 => some .int32 | _ => none

def WFmt.code : WFmt → Nat
  | .int3 => 0 | .int4 => 1 | .e4m3 => 2 | .bf16 => 3
def WFmt.ofCode : Nat → Option WFmt
  | 0 => some .int3 | 1 => some .int4 | 2 => some .e4m3 | 3 => some .bf16 | _ => none

def AFmt.code : AFmt → Nat
  | .e4m3 => 0 | .e5m2 => 1 | .fp4 => 2 | .mx4 => 3 | .bf16 => 4
def AFmt.ofCode : Nat → Option AFmt
  | 0 => some .e4m3 | 1 => some .e5m2 | 2 => some .fp4 | 3 => some .mx4 | 4 => some .bf16 | _ => none

def QFmt.code : QFmt → Nat
  | .e4m3 => 0 | .e5m2 => 1 | .mx4 => 2
def QFmt.ofCode : Nat → Option QFmt
  | 0 => some .e4m3 | 1 => some .e5m2 | 2 => some .mx4 | _ => none

def RedOp.code : RedOp → Nat
  | .add => 0 | .min => 1 | .max => 2
def RedOp.ofCode : Nat → Option RedOp
  | 0 => some .add | 1 => some .min | 2 => some .max | _ => none

def RedTy.code : RedTy → Nat
  | .fp32 => 0 | .bf16 => 1 | .int32 => 2
def RedTy.ofCode : Nat → Option RedTy
  | 0 => some .fp32 | 1 => some .bf16 | 2 => some .int32 | _ => none

def VRow.code (v : VRow) : Nat := 64 * v.tile.toNat + v.row.toNat
def vrowAt (n lo : Nat) : VRow := ⟨BitVec.ofNat 3 (fld n (lo + 6) 3), BitVec.ofNat 6 (fld n lo 6)⟩

/-- The 12-bit source modifier (R39). -/
def SrcMod.code : SrcMod → Nat
  | .none => 0
  | .rot seg d => 1024 + 64 * seg.toNat + d.toNat
  | .bfly seg d => 2048 + 64 * seg.toNat + d.toNat
  | .bcast seg d => 3072 + 64 * seg.toNat + d.toNat
def modAt (n lo : Nat) : SrcMod :=
  match fld n (lo + 10) 2 with
  | 1 => .rot (BitVec.ofNat 4 (fld n (lo + 6) 4)) (BitVec.ofNat 6 (fld n lo 6))
  | 2 => .bfly (BitVec.ofNat 4 (fld n (lo + 6) 4)) (BitVec.ofNat 6 (fld n lo 6))
  | 3 => .bcast (BitVec.ofNat 4 (fld n (lo + 6) 4)) (BitVec.ofNat 6 (fld n lo 6))
  | _ => .none

/-! ## Reading the fields of each class -/

/-- The integer group, S opcode 0x01 (R47). -/
def rawInt (n : Nat) : Option Instr :=
  let d := gAt n 8
  let a := srcAt n 12 20
  let b := srcAt n 16 21
  match fld n 22 10 with
  | 0x001 => some (.add d a b) | 0x002 => some (.sub d a b) | 0x003 => some (.mul d a b) | 0x004 => some (.mulh d a b)
  | 0x005 => some (.mulhu d a b) | 0x006 => some (.div d a b) | 0x007 => some (.divu d a b) | 0x008 => some (.rem d a b)
  | 0x009 => some (.remu d a b) | 0x00A => some (.and d a b) | 0x00B => some (.or d a b) | 0x00C => some (.xor d a b)
  | 0x00D => some (.andn d a b) | 0x00E => some (.shl d a b) | 0x00F => some (.shr d a b) | 0x010 => some (.sra d a b)
  | 0x011 => some (.rol d a b) | 0x012 => some (.min d a b) | 0x013 => some (.max d a b) | 0x014 => some (.minu d a b)
  | 0x015 => some (.maxu d a b) | 0x016 => some (.clz d a) | 0x017 => some (.ctz d a) | 0x018 => some (.popc d a)
  | 0x019 => some (.bswap d a) | 0x01A => some (.mov d a)
  | _ => none

/-- The scalar FP group, S opcode 0x0E (R49, R305). -/
def rawFp (n : Nat) : Option Instr :=
  let d := gAt n 8
  let a := srcAt n 12 20
  let b := srcAt n 16 21
  match fld n 28 4 with
  | 1 => (Rm.ofCode (fld n 25 3)).map fun rm => .fadd rm d a b
  | 2 => (Rm.ofCode (fld n 25 3)).map fun rm => .fsub rm d a b
  | 3 => (Rm.ofCode (fld n 25 3)).map fun rm => .fmul rm d a b
  | 4 => (Rm.ofCode (fld n 25 3)).map fun rm => .ffma rm d a b
  | 5 => some (.fmin d a b)
  | 6 => some (.fmax d a b)
  | 7 => match CvtKind.ofCode (fld n 22 3), Rm.ofCode (fld n 25 3) with
    | some k, some rm => some (.fcvt k rm d a)
    | _, _ => none
  | 8 => (FpCond.ofCode (fld n 22 3)).map fun c => .fset c d a b
  | _ => none

/-- Class S (R46). -/
def rawS (n : Nat) : Option Instr :=
  let d := gAt n 8
  let ai := srcAt n 12 16
  let imm := BitVec.ofNat 15 (fld n 17 15)
  let a := srcAt n 12 20
  let b := srcAt n 16 21
  match fld n 2 6 with
  | 0x01 => rawInt n
  | 0x02 => (IntCond.ofCode (fld n 22 4)).map fun c => .set c d a b
  | 0x03 => some (.sel d (srcAt n 22 26) a b)
  | 0x04 => some (.addi d ai imm)
  | 0x05 => some (.andi d ai imm)
  | 0x06 => some (.ori d ai imm)
  | 0x07 => some (.xori d ai imm)
  | 0x08 => some (.shli d ai (BitVec.ofNat 6 (fld n 17 6)))
  | 0x09 => some (.shri d ai (BitVec.ofNat 6 (fld n 17 6)))
  | 0x0A => some (.srai d ai (BitVec.ofNat 6 (fld n 17 6)))
  | 0x0B => (IntCond.ofCode (fld n 17 4)).map fun c => .seti c d ai (BitVec.ofNat 11 (fld n 21 11))
  | 0x0C => some (.ext d ai (BitVec.ofNat 6 (fld n 17 6)) (BitVec.ofNat 6 (fld n 23 6)))
  | 0x0D => some (.ins d ai (BitVec.ofNat 6 (fld n 17 6)) (BitVec.ofNat 6 (fld n 23 6)))
  | 0x0E => rawFp n
  | 0x10 => some (.ldb d ai imm)
  | 0x11 => some (.ldbu d ai imm)
  | 0x12 => some (.ldh d ai imm)
  | 0x13 => some (.ldhu d ai imm)
  | 0x14 => some (.ldw d ai imm)
  | 0x15 => some (.ldwu d ai imm)
  | 0x16 => some (.ldd d ai imm)
  | 0x17 => match LdSize.ofCode (fld n 29 3), Scope.ofCode (fld n 27 2) with
    | some sz, some sc => some (.ldAcq sz sc d a (BitVec.ofNat 5 (fld n 22 5)))
    | _, _ => none
  | 0x18 => some (.stb ai (srcAt n 8 17) (BitVec.ofNat 14 (fld n 18 14)))
  | 0x19 => some (.sth ai (srcAt n 8 17) (BitVec.ofNat 14 (fld n 18 14)))
  | 0x1A => some (.stw ai (srcAt n 8 17) (BitVec.ofNat 14 (fld n 18 14)))
  | 0x1B => some (.std ai (srcAt n 8 17) (BitVec.ofNat 14 (fld n 18 14)))
  | 0x1C => match StSize.ofCode (fld n 29 3), Scope.ofCode (fld n 27 2) with
    | some sz, some sc => some (.stRel sz sc a b (BitVec.ofNat 5 (fld n 22 5)))
    | _, _ => none
  | 0x1D => match AmoOp.ofCode (fld n 28 4), AtOrder.ofCode (fld n 24 4), AtSize.ofCode (fld n 22 2) with
    | some op, some o, some sz => some (.amo op sz o d a b)
    | _, _, _ => none
  | 0x1E => match AtOrder.ofCode (fld n 24 4), AtSize.ofCode (fld n 22 2) with
    | some o, some sz => some (.cas sz o d a b)
    | _, _ => none
  | 0x20 => (IntCond.ofCode (fld n 8 4)).map fun c => .bCond c a b (BitVec.ofNat 10 (fld n 22 10))
  | 0x21 => some (.jmp (BitVec.ofNat 24 (fld n 8 24)))
  | 0x22 => some (.jal (BitVec.ofNat 24 (fld n 8 24)))
  | 0x23 => some (.jalr a)
  | 0x24 => some .ret
  | 0x25 => some (.loop (BitVec.ofNat 4 (fld n 28 4)) (BitVec.ofNat 6 (fld n 22 6)) (BitVec.ofNat 9 (fld n 13 9)) (srcAt n 8 12))
  | 0x26 => some (.loopn (BitVec.ofNat 4 (fld n 28 4)) (BitVec.ofNat 6 (fld n 22 6)) (BitVec.ofNat 9 (fld n 13 9)) (srcAt n 8 12))
  | 0x27 => some (.align imm)
  | 0x28 => some .nop
  | 0x29 => some (.trap imm)
  | _ => none

/-- Class Y (R51). -/
def rawY (n : Nat) : Option Instr :=
  let d := gAt n 8
  let a := srcAt n 12 20
  let b := srcAt n 16 21
  let sem := BitVec.ofNat 8 (fld n 18 8)
  let imm6 := BitVec.ofNat 6 (fld n 26 6)
  let as := srcAt n 12 16
  match fld n 2 6 with
  | 0x01 => some (.spawn d a b (BitVec.ofNat 3 (fld n 22 3)))
  | 0x02 => some (.join a)
  | 0x03 => some .quit
  | 0x04 => some .yield
  | 0x05 => some (.setpri (BitVec.ofNat 3 (fld n 22 3)))
  | 0x06 => some (.tid d)
  | 0x07 => some (.migrate a)
  | 0x08 => some (.launch d a)
  | 0x09 => some (.evset (BitVec.ofNat 8 (fld n 22 8)))
  | 0x0A => some (.evclr (BitVec.ofNat 8 (fld n 22 8)))
  | 0x0B => some (.invoke d a b)
  | 0x0C => some (.invokeh d a b)
  | 0x0D => some (.done a)
  | 0x0E => some (.hget d a)
  | 0x0F => some (.htest d a)
  | 0x10 => some (.hcancel a)
  | 0x11 => some (.hdrop a)
  | 0x12 => if bitAt n 17 then some (.swait d sem imm6) else some (.swaitReg d sem as)
  | 0x13 => if bitAt n 17 then some (.ssig sem imm6) else some (.ssigReg sem as)
  | 0x14 => if bitAt n 17 then some (.sset sem imm6) else some (.ssetReg sem as)
  | 0x15 => some (.sread d sem)
  | 0x16 => some (.fetst d (gAt n 12))
  | 0x17 => some (.fecan d)
  | 0x18 => some (.send a b)
  | 0x19 => some .recv
  | 0x1A => some (.rqcnt d)
  | 0x1B => some (.binit a b d)
  | 0x1C => some (.barr d a (BitVec.ofNat 10 (fld n 22 10)))
  | 0x1D => some (.bexp a b)
  | 0x1E => some (.bwait d a b (BitVec.ofNat 10 (fld n 22 10)))
  | 0x1F => (Scope.ofCode (fld n 25 2)).map fun sc => .fence sc d (BitVec.ofNat 3 (fld n 22 3))
  | 0x20 => some (.wopen d a b)
  | 0x21 => some (.wrevoke d a)
  | 0x22 => some (.rdctl d (BitVec.ofNat 14 (fld n 18 14)))
  | 0x23 => some (.wrctl (BitVec.ofNat 14 (fld n 18 14)) as)
  | 0x24 => some .eret
  | 0x25 => some (.capr d a)
  | 0x26 => if bitAt n 22 then some (.tlbinvAll a) else some (.tlbinv a)
  | 0x27 => some (.ctxsave d a)
  | 0x28 => some (.ctxload d a)
  | 0x29 => some .wfe
  | 0x3C => some (.hint 0 (BitVec.ofNat 24 (fld n 8 24)))
  | 0x3D => some (.hint 1 (BitVec.ofNat 24 (fld n 8 24)))
  | 0x3E => some (.hint 2 (BitVec.ofNat 24 (fld n 8 24)))
  | 0x3F => some (.hint 3 (BitVec.ofNat 24 (fld n 8 24)))
  | _ => none

/-- The vector opcodes of class W (R54, R332). -/
def rawVec (n : Nat) : Option Instr :=
  let vd := vrowAt n 10
  let va := vrowAt n 19
  let vb := vrowAt n 28
  let ma := modAt n 37
  let mb := modAt n 49
  let te := bitAt n 61
  match fld n 2 8 with
  | 0x01 => some (.vadd vd va vb ma mb) | 0x02 => some (.vsub vd va vb ma mb) | 0x03 => some (.vmul vd va vb ma mb)
  | 0x04 => some (.vfma vd va vb ma mb) | 0x05 => some (.vmin vd va vb ma mb) | 0x06 => some (.vmax vd va vb ma mb)
  | 0x07 => some (.vminm vd va vb ma mb) | 0x08 => some (.vmaxm vd va vb ma mb)
  | 0x09 => some (.vabs vd va ma) | 0x0A => some (.vneg vd va ma)
  | 0x0B => (FpCond.ofCode (fld n 61 3)).map fun c => .vcmp c vd va vb ma mb
  | 0x0C => some (.vsel vd va vb ma mb)
  | 0x0D => some (.vexp2 vd va ma) | 0x0E => some (.vlog2 vd va ma) | 0x0F => some (.vrcp vd va ma)
  | 0x10 => some (.vrsq vd va ma) | 0x11 => some (.vtanh vd va ma)
  | 0x12 => (Rm.ofCode (fld n 61 3)).map fun rm => .vcvt rm vd va ma
  | 0x13 => match QFmt.ofCode (fld n 28 2), QRm.ofCode (fld n 61 3) with
    | some f, some rm => some (.vqnt f rm vd va ma (BitVec.ofNat 12 (fld n 49 12)))
    | _, _ => none
  | 0x14 => some (.vdot vd va vb ma mb)
  | 0x15 => (RedOp.ofCode (fld n 61 3)).map fun op => .vred op (gAt n 10) va ma
  | 0x16 => some (.vbc te vd (gAt n 28))
  | 0x17 => some (.vld te vd (gAt n 19) (BitVec.ofNat 12 (fld n 37 12)))
  | 0x18 => some (.vst te (gAt n 19) (BitVec.ofNat 12 (fld n 37 12)) vb mb)
  | 0x19 => some (.vmov vd va ma)
  | 0x1A => some (.vscl te vd va ma (gAt n 28))
  | 0x1B => some (.viadd vd va vb ma mb) | 0x1C => some (.vand vd va vb ma mb) | 0x1D => some (.vor vd va vb ma mb)
  | 0x1E => some (.vxor vd va vb ma mb) | 0x1F => some (.vshl vd va vb ma mb)
  | 0x20 => some (.vshr (bitAt n 61) vd va vb ma mb)
  | _ => none

/-- An optional destination semaphore: MB[7:0] when sub2[62] is set (R196). -/
def dsAt (n : Nat) : Option (BitVec 8) := if bitAt n 62 then some (BitVec.ofNat 8 (fld n 49 8)) else none

/-- The engine, remote and memory opcodes of class W (R55). -/
def rawW (n : Nat) : Option Instr :=
  let te := bitAt n 61
  let d := gAt n 10
  let a := gAt n 19
  let b := gAt n 28
  let t := BitVec.ofNat 3 (fld n 16 3)
  let s := BitVec.ofNat 8 (fld n 37 8)
  let off12 := BitVec.ofNat 12 (fld n 37 12)
  let off24 := BitVec.ofNat 24 (fld n 37 24)
  match fld n 2 8 with
  | 0x40 => some (.lease d s)
  | 0x41 => some .lfree
  | 0x42 => (TileTy.ofCode (fld n 61 3)).map fun ty => .aown t ty
  | 0x43 => some (.afree t)
  | 0x44 => some (.scld te a b (BitVec.ofNat 10 (fld n 37 10)) (BitVec.ofNat 8 (fld n 49 8)))
  | 0x45 => (WFmt.ofCode (fld n 10 2)).map fun f => .wld te f (bitAt n 62) a off12 (BitVec.ofNat 12 (fld n 49 12))
  | 0x46 => some (.chb te (BitVec.ofNat 8 (fld n 10 8)) a b)
  | 0x48 => some (.cheW te (bitAt n 62) t (if bitAt n 63 then some a else none) s)
  | 0x49 => some (.asave te t a s)
  | 0x4A => some (.aload te t a s)
  | 0x60 => some (.cpyW te d a b s (dsAt n))
  | 0x61 => some (.cpysW te d a b s (dsAt n))
  | 0x62 => some (.cpyselW te d a b s (dsAt n))
  | 0x63 => match RedOp.ofCode (fld n 57 2), RedTy.ofCode (fld n 59 2) with
    | some op, some ty => some (.cpyredW te op ty (bitAt n 63) d a b s (dsAt n))
    | _, _ => none
  | 0x64 => some (.cpyfillW te d a b s (dsAt n))
  | 0x80 => match RClass.ofCode (fld n 49 2), AtSize.ofCode (fld n 51 2) with
    | some c, some sz => some (.rldW te c sz d a off12)
    | _, _ => none
  | 0x81 => match RClass.ofCode (fld n 49 2), AtSize.ofCode (fld n 51 2) with
    | some c, some sz => some (.rstW te c sz a b off12)
    | _, _ => none
  | 0x82 => match RClass.ofCode (fld n 49 2), AtSize.ofCode (fld n 51 2), AmoOp.ofCode (fld n 53 4) with
    | some c, some sz, some op => some (.ramoW te op c sz d a b off12)
    | _, _, _ => none
  | 0x83 => match RClass.ofCode (fld n 49 2), AtSize.ofCode (fld n 51 2) with
    | some c, some sz => some (.rcasW te c sz d a b off12)
    | _, _ => none
  | 0x84 => match RClass.ofCode (fld n 49 2), AtSize.ofCode (fld n 51 2) with
    | some c, some sz => some (.rwimW te c sz a b off12 (BitVec.ofNat 8 (fld n 53 8)))
    | _, _ => none
  | 0xA0 => some (.ldbW te d a off24) | 0xA1 => some (.ldbuW te d a off24) | 0xA2 => some (.ldhW te d a off24)
  | 0xA3 => some (.ldhuW te d a off24) | 0xA4 => some (.ldwW te d a off24) | 0xA5 => some (.ldwuW te d a off24)
  | 0xA6 => some (.lddW te d a off24)
  | 0xA8 => some (.stbW te a b off24) | 0xA9 => some (.sthW te a b off24) | 0xAA => some (.stwW te a b off24)
  | 0xAB => some (.stdW te a b off24)
  | _ => rawVec n

/-- Class L (R40, R55): the opcodes that have a form with a literal. -/
def rawL (n : Nat) : Option Instr :=
  let te := bitAt n 61
  let d := gAt n 10
  let a := gAt n 19
  let b := gAt n 28
  let t := BitVec.ofNat 3 (fld n 16 3)
  let s := BitVec.ofNat 8 (fld n 37 8)
  let ev := BitVec.ofNat 8 (fld n 64 8)
  let lit := BitVec.ofNat 32 (fld n 64 32)
  match fld n 2 8 with
  | 0x47 => (AFmt.ofCode (fld n 45 3)).map fun f => .mma te f (bitAt n 43) (BitVec.ofNat 6 (fld n 37 6)) a
      (if bitAt n 44 then some (d, b) else none) (BitVec.ofNat 12 (fld n 49 12)) (BitVec.ofNat 8 (fld n 64 8))
      (BitVec.ofNat 8 (fld n 72 8)) (BitVec.ofNat 8 (fld n 80 8))
  | 0x48 => some (.cheL te (bitAt n 62) t (if bitAt n 63 then some a else none) s ev)
  | 0x60 => some (.cpyL te d a b s (dsAt n) ev)
  | 0x61 => some (.cpysL te d a b s (dsAt n) ev)
  | 0x62 => some (.cpyselL te d a b s (dsAt n) ev)
  | 0x63 => match RedOp.ofCode (fld n 57 2), RedTy.ofCode (fld n 59 2) with
    | some op, some ty => some (.cpyredL te op ty (bitAt n 63) d a b s (dsAt n) ev)
    | _, _ => none
  | 0x64 => some (.cpyfillL te d a b s (dsAt n) ev)
  | 0x80 => match RClass.ofCode (fld n 49 2), AtSize.ofCode (fld n 51 2) with
    | some c, some sz => some (.rldL te c sz d a lit)
    | _, _ => none
  | 0x81 => match RClass.ofCode (fld n 49 2), AtSize.ofCode (fld n 51 2) with
    | some c, some sz => some (.rstL te c sz a b lit)
    | _, _ => none
  | 0x82 => match RClass.ofCode (fld n 49 2), AtSize.ofCode (fld n 51 2), AmoOp.ofCode (fld n 53 4) with
    | some c, some sz, some op => some (.ramoL te op c sz d a b lit)
    | _, _, _ => none
  | 0x83 => match RClass.ofCode (fld n 49 2), AtSize.ofCode (fld n 51 2) with
    | some c, some sz => some (.rcasL te c sz d a b lit)
    | _, _ => none
  | 0x84 => match RClass.ofCode (fld n 49 2), AtSize.ofCode (fld n 51 2) with
    | some c, some sz => some (.rwimL te c sz a b lit (BitVec.ofNat 8 (fld n 53 8)))
    | _, _ => none
  | 0xA0 => some (.ldbL te d a lit) | 0xA1 => some (.ldbuL te d a lit) | 0xA2 => some (.ldhL te d a lit)
  | 0xA3 => some (.ldhuL te d a lit) | 0xA4 => some (.ldwL te d a lit) | 0xA5 => some (.ldwuL te d a lit)
  | 0xA6 => some (.lddL te d a lit)
  | 0xA8 => some (.stbL te a b lit) | 0xA9 => some (.sthL te a b lit) | 0xAA => some (.stwL te a b lit)
  | 0xAB => some (.stdL te a b lit)
  | 0xF0 => some (.li (bitAt n 62) te d lit)
  | _ => none

/-- The length in bytes that the two lowest bits give (R32). -/
def lengthOf (n : Nat) : Nat :=
  match n % 4 with
  | 2 => 8
  | 3 => 12
  | _ => 4

/-! ## The encoder -/

/-- The base layout (R36). `low` is the length field. -/
def baseWord (low op fn : Nat) (d : GReg) (a b : Src) : Nat :=
  low + 4 * op + 2 ^ 8 * d.toNat + 2 ^ 12 * a.reg.toNat + 2 ^ 16 * b.reg.toNat + 2 ^ 20 * b2n a.trap + 2 ^ 21 * b2n b.trap + 2 ^ 22 * fn
/-- No source: fields zero. -/
def noSrc : Src := ⟨0, false⟩
def immWord (op : Nat) (d : GReg) (a : Src) (imm : Nat) : Nat :=
  4 * op + 2 ^ 8 * d.toNat + 2 ^ 12 * a.reg.toNat + 2 ^ 16 * b2n a.trap + 2 ^ 17 * imm
def storeWord (op : Nat) (a s : Src) (imm : Nat) : Nat :=
  4 * op + 2 ^ 8 * s.reg.toNat + 2 ^ 12 * a.reg.toNat + 2 ^ 16 * b2n a.trap + 2 ^ 17 * b2n s.trap + 2 ^ 18 * imm
def loopWord (op : Nat) (e : BitVec 4) (m : BitVec 6) (len : BitVec 9) (c : Src) : Nat :=
  4 * op + 2 ^ 8 * c.reg.toNat + 2 ^ 12 * b2n c.trap + 2 ^ 13 * len.toNat + 2 ^ 22 * m.toNat + 2 ^ 28 * e.toNat
/-- The semaphore layout; `i` with imm6, or the count register. -/
def semWord (op : Nat) (d : GReg) (sem : BitVec 8) (a : Src) (i : Bool) (n : Nat) : Nat :=
  1 + 4 * op + 2 ^ 8 * d.toNat + 2 ^ 12 * a.reg.toNat + 2 ^ 16 * b2n a.trap + 2 ^ 17 * b2n i + 2 ^ 18 * sem.toNat + 2 ^ 26 * n
def ctlWord (op : Nat) (d : GReg) (a : Src) (ctl : BitVec 14) : Nat :=
  1 + 4 * op + 2 ^ 8 * d.toNat + 2 ^ 12 * a.reg.toNat + 2 ^ 16 * b2n a.trap + 2 ^ 18 * ctl.toNat
/-- The W body (R37). -/
def wBody (low op od oa ob ma mb flags : Nat) : Nat :=
  low + 4 * op + 2 ^ 10 * od + 2 ^ 19 * oa + 2 ^ 28 * ob + 2 ^ 37 * ma + 2 ^ 49 * mb + 2 ^ 61 * flags
def vec3 (op c3 : Nat) (vd va vb : VRow) (ma mb : SrcMod) : Nat := wBody 2 op vd.code va.code vb.code ma.code mb.code c3
def vec2 (op c3 : Nat) (vd va : VRow) (ma : SrcMod) : Nat := wBody 2 op vd.code va.code 0 ma.code 0 c3
def dsCode (ds : Option (BitVec 8)) : Nat := (ds.getD 0).toNat
/-- A Flume command body: `mbHigh` is MB[11:8] and `seq` sub2[63] (R196). -/
def flumeBody (low op : Nat) (te : Bool) (d a b : GReg) (s : BitVec 8) (ds : Option (BitVec 8)) (mbHigh : Nat) (seq : Bool) : Nat :=
  wBody low op d.toNat a.toNat b.toNat s.toNat (dsCode ds + 2 ^ 8 * mbHigh) (b2n te + 2 * b2n ds.isSome + 4 * b2n seq)
def remoteMb (c : RClass) (sz : AtSize) (hi : Nat) : Nat := c.code + 4 * sz.code + 16 * hi
def loadW (op : Nat) (te : Bool) (d a : GReg) (off : BitVec 24) : Nat :=
  2 + 4 * op + 2 ^ 10 * d.toNat + 2 ^ 19 * a.toNat + 2 ^ 37 * off.toNat + 2 ^ 61 * b2n te
def loadL (op : Nat) (te : Bool) (d a : GReg) (off : BitVec 32) : Nat :=
  wBody 3 op d.toNat a.toNat 0 0 0 (b2n te) + 2 ^ 64 * off.toNat
def stoW (op : Nat) (te : Bool) (a b : GReg) (off : BitVec 24) : Nat :=
  2 + 4 * op + 2 ^ 19 * a.toNat + 2 ^ 28 * b.toNat + 2 ^ 37 * off.toNat + 2 ^ 61 * b2n te
def stoL (op : Nat) (te : Bool) (a b : GReg) (off : BitVec 32) : Nat :=
  wBody 3 op 0 a.toNat b.toNat 0 0 (b2n te) + 2 ^ 64 * off.toNat
def maskReg (m : Option GReg) : Nat := (m.getD 0).toNat

/-- The number of an instruction's words, from the encoding tables of R36, R37, R46-R55. Events have no words. -/
def encodeNat : Instr → Nat
  | .add d a b => baseWord 0 1 0x001 d a b
  | .sub d a b => baseWord 0 1 0x002 d a b
  | .mul d a b => baseWord 0 1 0x003 d a b
  | .mulh d a b => baseWord 0 1 0x004 d a b
  | .mulhu d a b => baseWord 0 1 0x005 d a b
  | .div d a b => baseWord 0 1 0x006 d a b
  | .divu d a b => baseWord 0 1 0x007 d a b
  | .rem d a b => baseWord 0 1 0x008 d a b
  | .remu d a b => baseWord 0 1 0x009 d a b
  | .and d a b => baseWord 0 1 0x00A d a b
  | .or d a b => baseWord 0 1 0x00B d a b
  | .xor d a b => baseWord 0 1 0x00C d a b
  | .andn d a b => baseWord 0 1 0x00D d a b
  | .shl d a b => baseWord 0 1 0x00E d a b
  | .shr d a b => baseWord 0 1 0x00F d a b
  | .sra d a b => baseWord 0 1 0x010 d a b
  | .rol d a b => baseWord 0 1 0x011 d a b
  | .min d a b => baseWord 0 1 0x012 d a b
  | .max d a b => baseWord 0 1 0x013 d a b
  | .minu d a b => baseWord 0 1 0x014 d a b
  | .maxu d a b => baseWord 0 1 0x015 d a b
  | .clz d a => baseWord 0 1 0x016 d a noSrc
  | .ctz d a => baseWord 0 1 0x017 d a noSrc
  | .popc d a => baseWord 0 1 0x018 d a noSrc
  | .bswap d a => baseWord 0 1 0x019 d a noSrc
  | .mov d a => baseWord 0 1 0x01A d a noSrc
  | .set c d a b => baseWord 0 2 c.code d a b
  | .sel d c a b => baseWord 0 3 (c.reg.toNat + 16 * b2n c.trap) d a b
  | .addi d a imm => immWord 0x04 d a imm.toNat
  | .andi d a imm => immWord 0x05 d a imm.toNat
  | .ori d a imm => immWord 0x06 d a imm.toNat
  | .xori d a imm => immWord 0x07 d a imm.toNat
  | .shli d a n => immWord 0x08 d a n.toNat
  | .shri d a n => immWord 0x09 d a n.toNat
  | .srai d a n => immWord 0x0A d a n.toNat
  | .seti c d a imm => immWord 0x0B d a (c.code + 16 * imm.toNat)
  | .ext d a pos lm1 => immWord 0x0C d a (pos.toNat + 64 * lm1.toNat)
  | .ins d a pos lm1 => immWord 0x0D d a (pos.toNat + 64 * lm1.toNat)
  | .fadd rm d a b => baseWord 0 0x0E (1 * 64 + 8 * rm.code) d a b
  | .fsub rm d a b => baseWord 0 0x0E (2 * 64 + 8 * rm.code) d a b
  | .fmul rm d a b => baseWord 0 0x0E (3 * 64 + 8 * rm.code) d a b
  | .ffma rm d a b => baseWord 0 0x0E (4 * 64 + 8 * rm.code) d a b
  | .fmin d a b => baseWord 0 0x0E (5 * 64) d a b
  | .fmax d a b => baseWord 0 0x0E (6 * 64) d a b
  | .fcvt k rm d a => baseWord 0 0x0E (7 * 64 + 8 * rm.code + k.code) d a noSrc
  | .fset c d a b => baseWord 0 0x0E (8 * 64 + c.code) d a b
  | .ldb d a off => immWord 0x10 d a off.toNat
  | .ldbu d a off => immWord 0x11 d a off.toNat
  | .ldh d a off => immWord 0x12 d a off.toNat
  | .ldhu d a off => immWord 0x13 d a off.toNat
  | .ldw d a off => immWord 0x14 d a off.toNat
  | .ldwu d a off => immWord 0x15 d a off.toNat
  | .ldd d a off => immWord 0x16 d a off.toNat
  | .ldAcq sz sc d a off => baseWord 0 0x17 (128 * sz.code + 32 * sc.code + off.toNat) d a noSrc
  | .stb a s off => storeWord 0x18 a s off.toNat
  | .sth a s off => storeWord 0x19 a s off.toNat
  | .stw a s off => storeWord 0x1A a s off.toNat
  | .std a s off => storeWord 0x1B a s off.toNat
  | .stRel sz sc a s off => baseWord 0 0x1C (128 * sz.code + 32 * sc.code + off.toNat) 0 a s
  | .amo op sz o d a b => baseWord 0 0x1D (64 * op.code + 4 * o.code + sz.code) d a b
  | .cas sz o d a b => baseWord 0 0x1E (4 * o.code + sz.code) d a b
  | .bCond c a b off => baseWord 0 0x20 off.toNat (BitVec.ofNat 4 c.code) a b
  | .jmp off => 4 * 0x21 + 2 ^ 8 * off.toNat
  | .jal off => 4 * 0x22 + 2 ^ 8 * off.toNat
  | .jalr a => baseWord 0 0x23 0 0 a noSrc
  | .ret => 4 * 0x24
  | .loop e m len c => loopWord 0x25 e m len c
  | .loopn e m len c => loopWord 0x26 e m len c
  | .align n => immWord 0x27 0 noSrc n.toNat
  | .nop => 4 * 0x28
  | .trap n => immWord 0x29 0 noSrc n.toNat
  | .spawn d a b pri => baseWord 1 0x01 pri.toNat d a b
  | .join a => baseWord 1 0x02 0 0 a noSrc
  | .quit => 1 + 4 * 0x03
  | .yield => 1 + 4 * 0x04
  | .setpri n => baseWord 1 0x05 n.toNat 0 noSrc noSrc
  | .tid d => baseWord 1 0x06 0 d noSrc noSrc
  | .migrate a => baseWord 1 0x07 0 0 a noSrc
  | .launch d a => baseWord 1 0x08 0 d a noSrc
  | .evset n => baseWord 1 0x09 n.toNat 0 noSrc noSrc
  | .evclr n => baseWord 1 0x0A n.toNat 0 noSrc noSrc
  | .invoke d a b => baseWord 1 0x0B 0 d a b
  | .invokeh d a b => baseWord 1 0x0C 0 d a b
  | .done a => baseWord 1 0x0D 0 0 a noSrc
  | .hget d a => baseWord 1 0x0E 0 d a noSrc
  | .htest d a => baseWord 1 0x0F 0 d a noSrc
  | .hcancel a => baseWord 1 0x10 0 0 a noSrc
  | .hdrop a => baseWord 1 0x11 0 0 a noSrc
  | .swait d sem n => semWord 0x12 d sem noSrc true n.toNat
  | .swaitReg d sem a => semWord 0x12 d sem a false 0
  | .ssig sem n => semWord 0x13 0 sem noSrc true n.toNat
  | .ssigReg sem a => semWord 0x13 0 sem a false 0
  | .sset sem n => semWord 0x14 0 sem noSrc true n.toNat
  | .ssetReg sem a => semWord 0x14 0 sem a false 0
  | .sread d sem => semWord 0x15 d sem noSrc false 0
  | .fetst d a => baseWord 1 0x16 0 d ⟨a, false⟩ noSrc
  | .fecan d => baseWord 1 0x17 0 d noSrc noSrc
  | .send a b => baseWord 1 0x18 0 0 a b
  | .recv => 1 + 4 * 0x19
  | .rqcnt d => baseWord 1 0x1A 0 d noSrc noSrc
  | .binit a b c => baseWord 1 0x1B 0 c a b
  | .barr d a n => baseWord 1 0x1C n.toNat d a noSrc
  | .bexp a b => baseWord 1 0x1D 0 0 a b
  | .bwait d a b t => baseWord 1 0x1E t.toNat d a b
  | .fence sc d mask => baseWord 1 0x1F (mask.toNat + 8 * sc.code) d noSrc noSrc
  | .wopen d a b => baseWord 1 0x20 0 d a b
  | .wrevoke d a => baseWord 1 0x21 0 d a noSrc
  | .rdctl d ctl => ctlWord 0x22 d noSrc ctl
  | .wrctl ctl a => ctlWord 0x23 0 a ctl
  | .eret => 1 + 4 * 0x24
  | .capr d a => baseWord 1 0x25 0 d a noSrc
  | .tlbinv a => baseWord 1 0x26 0 0 a noSrc
  | .tlbinvAll a => baseWord 1 0x26 1 0 a noSrc
  | .ctxsave d a => baseWord 1 0x27 0 d a noSrc
  | .ctxload d a => baseWord 1 0x28 0 d a noSrc
  | .wfe => 1 + 4 * 0x29
  | .hint k h => 1 + 4 * (0x3C + k.toNat) + 2 ^ 8 * h.toNat
  | .vadd vd va vb ma mb => vec3 0x01 0 vd va vb ma mb
  | .vsub vd va vb ma mb => vec3 0x02 0 vd va vb ma mb
  | .vmul vd va vb ma mb => vec3 0x03 0 vd va vb ma mb
  | .vfma vd va vb ma mb => vec3 0x04 0 vd va vb ma mb
  | .vmin vd va vb ma mb => vec3 0x05 0 vd va vb ma mb
  | .vmax vd va vb ma mb => vec3 0x06 0 vd va vb ma mb
  | .vminm vd va vb ma mb => vec3 0x07 0 vd va vb ma mb
  | .vmaxm vd va vb ma mb => vec3 0x08 0 vd va vb ma mb
  | .vabs vd va ma => vec2 0x09 0 vd va ma
  | .vneg vd va ma => vec2 0x0A 0 vd va ma
  | .vcmp c vd va vb ma mb => vec3 0x0B c.code vd va vb ma mb
  | .vsel vd va vb ma mb => vec3 0x0C 0 vd va vb ma mb
  | .vexp2 vd va ma => vec2 0x0D 0 vd va ma
  | .vlog2 vd va ma => vec2 0x0E 0 vd va ma
  | .vrcp vd va ma => vec2 0x0F 0 vd va ma
  | .vrsq vd va ma => vec2 0x10 0 vd va ma
  | .vtanh vd va ma => vec2 0x11 0 vd va ma
  | .vcvt rm vd va ma => vec2 0x12 rm.code vd va ma
  | .vqnt f rm vd va ma soff => wBody 2 0x13 vd.code va.code f.code ma.code soff.toNat rm.code
  | .vdot vd va vb ma mb => vec3 0x14 0 vd va vb ma mb
  | .vred op d va ma => wBody 2 0x15 d.toNat va.code 0 ma.code 0 op.code
  | .vbc te vd b => wBody 2 0x16 vd.code 0 b.toNat 0 0 (b2n te)
  | .vld te vd a off => wBody 2 0x17 vd.code a.toNat 0 off.toNat 0 (b2n te)
  | .vst te a off vb mb => wBody 2 0x18 0 a.toNat vb.code off.toNat mb.code (b2n te)
  | .vmov vd va ma => vec2 0x19 0 vd va ma
  | .vscl te vd va ma b => wBody 2 0x1A vd.code va.code b.toNat ma.code 0 (b2n te)
  | .viadd vd va vb ma mb => vec3 0x1B 0 vd va vb ma mb
  | .vand vd va vb ma mb => vec3 0x1C 0 vd va vb ma mb
  | .vor vd va vb ma mb => vec3 0x1D 0 vd va vb ma mb
  | .vxor vd va vb ma mb => vec3 0x1E 0 vd va vb ma mb
  | .vshl vd va vb ma mb => vec3 0x1F 0 vd va vb ma mb
  | .vshr ar vd va vb ma mb => vec3 0x20 (b2n ar) vd va vb ma mb
  | .lease d nm1 => wBody 2 0x40 d.toNat 0 0 nm1.toNat 0 0
  | .lfree => wBody 2 0x41 0 0 0 0 0 0
  | .aown t ty => wBody 2 0x42 (64 * t.toNat) 0 0 0 0 ty.code
  | .afree t => wBody 2 0x43 (64 * t.toNat) 0 0 0 0 0
  | .scld te a b soff s => wBody 2 0x44 0 a.toNat b.toNat soff.toNat s.toNat (b2n te)
  | .wld te f plane a soff zoff => wBody 2 0x45 f.code a.toNat 0 soff.toNat zoff.toNat (b2n te + 2 * b2n plane)
  | .chb te nm1 a b => wBody 2 0x46 nm1.toNat a.toNat b.toNat 0 0 (b2n te)
  | .mma te f plane mm1 a idx soff k b s =>
    wBody 3 0x47 (match idx with | some (x, _) => x.toNat | none => 0) a.toNat (match idx with | some (_, y) => y.toNat | none => 0)
      (mm1.toNat + 64 * b2n plane + 128 * b2n idx.isSome + 256 * f.code) soff.toNat (b2n te)
      + 2 ^ 64 * (k.toNat + 2 ^ 8 * b.toNat + 2 ^ 16 * s.toNat)
  | .cheW te acc t mask s => wBody 2 0x48 (64 * t.toNat) (maskReg mask) 0 s.toNat 0 (b2n te + 2 * b2n acc + 4 * b2n mask.isSome)
  | .cheL te acc t mask s ev =>
    wBody 3 0x48 (64 * t.toNat) (maskReg mask) 0 s.toNat 0 (b2n te + 2 * b2n acc + 4 * b2n mask.isSome) + 2 ^ 64 * ev.toNat
  | .asave te t a s => wBody 2 0x49 (64 * t.toNat) a.toNat 0 s.toNat 0 (b2n te)
  | .aload te t a s => wBody 2 0x4A (64 * t.toNat) a.toNat 0 s.toNat 0 (b2n te)
  | .cpyW te d a b s ds => flumeBody 2 0x60 te d a b s ds 0 false
  | .cpyL te d a b s ds ev => flumeBody 3 0x60 te d a b s ds 0 false + 2 ^ 64 * ev.toNat
  | .cpysW te d a b s ds => flumeBody 2 0x61 te d a b s ds 0 false
  | .cpysL te d a b s ds ev => flumeBody 3 0x61 te d a b s ds 0 false + 2 ^ 64 * ev.toNat
  | .cpyselW te d a b s ds => flumeBody 2 0x62 te d a b s ds 0 false
  | .cpyselL te d a b s ds ev => flumeBody 3 0x62 te d a b s ds 0 false + 2 ^ 64 * ev.toNat
  | .cpyredW te op ty seq d a b s ds => flumeBody 2 0x63 te d a b s ds (op.code + 4 * ty.code) seq
  | .cpyredL te op ty seq d a b s ds ev => flumeBody 3 0x63 te d a b s ds (op.code + 4 * ty.code) seq + 2 ^ 64 * ev.toNat
  | .cpyfillW te d a b s ds => flumeBody 2 0x64 te d a b s ds 0 false
  | .cpyfillL te d a b s ds ev => flumeBody 3 0x64 te d a b s ds 0 false + 2 ^ 64 * ev.toNat
  | .li h te d imm => wBody 3 0xF0 d.toNat 0 0 0 0 (b2n te + 2 * b2n h) + 2 ^ 64 * imm.toNat
  | .ldbW te d a off => loadW 0xA0 te d a off
  | .ldbL te d a off => loadL 0xA0 te d a off
  | .ldbuW te d a off => loadW 0xA1 te d a off
  | .ldbuL te d a off => loadL 0xA1 te d a off
  | .ldhW te d a off => loadW 0xA2 te d a off
  | .ldhL te d a off => loadL 0xA2 te d a off
  | .ldhuW te d a off => loadW 0xA3 te d a off
  | .ldhuL te d a off => loadL 0xA3 te d a off
  | .ldwW te d a off => loadW 0xA4 te d a off
  | .ldwL te d a off => loadL 0xA4 te d a off
  | .ldwuW te d a off => loadW 0xA5 te d a off
  | .ldwuL te d a off => loadL 0xA5 te d a off
  | .lddW te d a off => loadW 0xA6 te d a off
  | .lddL te d a off => loadL 0xA6 te d a off
  | .stbW te a b off => stoW 0xA8 te a b off
  | .stbL te a b off => stoL 0xA8 te a b off
  | .sthW te a b off => stoW 0xA9 te a b off
  | .sthL te a b off => stoL 0xA9 te a b off
  | .stwW te a b off => stoW 0xAA te a b off
  | .stwL te a b off => stoL 0xAA te a b off
  | .stdW te a b off => stoW 0xAB te a b off
  | .stdL te a b off => stoL 0xAB te a b off
  | .rldW te c sz d a off => wBody 2 0x80 d.toNat a.toNat 0 off.toNat (remoteMb c sz 0) (b2n te)
  | .rldL te c sz d a off => wBody 3 0x80 d.toNat a.toNat 0 0 (remoteMb c sz 0) (b2n te) + 2 ^ 64 * off.toNat
  | .rstW te c sz a b off => wBody 2 0x81 0 a.toNat b.toNat off.toNat (remoteMb c sz 0) (b2n te)
  | .rstL te c sz a b off => wBody 3 0x81 0 a.toNat b.toNat 0 (remoteMb c sz 0) (b2n te) + 2 ^ 64 * off.toNat
  | .ramoW te op c sz d a b off => wBody 2 0x82 d.toNat a.toNat b.toNat off.toNat (remoteMb c sz op.code) (b2n te)
  | .ramoL te op c sz d a b off => wBody 3 0x82 d.toNat a.toNat b.toNat 0 (remoteMb c sz op.code) (b2n te) + 2 ^ 64 * off.toNat
  | .rcasW te c sz d a b off => wBody 2 0x83 d.toNat a.toNat b.toNat off.toNat (remoteMb c sz 0) (b2n te)
  | .rcasL te c sz d a b off => wBody 3 0x83 d.toNat a.toNat b.toNat 0 (remoteMb c sz 0) (b2n te) + 2 ^ 64 * off.toNat
  | .rwimW te c sz a b off sem => wBody 2 0x84 0 a.toNat b.toNat off.toNat (remoteMb c sz sem.toNat) (b2n te)
  | .rwimL te c sz a b off sem => wBody 3 0x84 0 a.toNat b.toNat 0 (remoteMb c sz sem.toNat) (b2n te) + 2 ^ 64 * off.toNat
  | _ => 0

/-! ## The decoder -/

/-- Why a pattern is no instruction. Each is ILLEGAL (R34 step 1). -/
inductive Reject where
  /-- fewer bytes than the length field asks for -/
  | short
  /-- an opcode, sub-code or form that the map does not assign (R40, R46, R51, R54, R55) -/
  | unassigned
  /-- a field that the encoding shows as zero is not zero (R8, R34) -/
  | reserved
  /-- a field value that its entry gives as ILLEGAL (R36, R39, R46, R159, R170, R172) -/
  | value
  deriving DecidableEq, Repr

/-- Decode a number that holds exactly one instruction of length `lengthOf n`.
The reserved-field check of R34 is that the fields read encode to the very same words. -/
def decodeNat (n : Nat) : Except Reject Instr :=
  match (match n % 4 with | 0 => rawS n | 1 => rawY n | 2 => rawW n | _ => rawL n) with
  | none => .error .unassigned
  | some i => if !i.wf then .error .value else if encodeNat i == n then .ok i else .error .reserved

/-- Little-endian bytes as a number (R6). -/
def bytesToNat : List Byte → Nat
  | [] => 0
  | b :: bs => b.toNat + 256 * bytesToNat bs

/-- The low `k` bytes of a number, little-endian. -/
def natToBytes : Nat → Nat → List Byte
  | 0, _ => []
  | k + 1, n => BitVec.ofNat 8 n :: natToBytes k (n / 256)

/-- The decoder: the instruction at the head of the bytes, and the rest. -/
def decode (bs : List Byte) : Except Reject (Instr × List Byte) :=
  let len := lengthOf (bytesToNat (bs.take 1))
  if bs.length < len then .error .short
  else match decodeNat (bytesToNat (bs.take len)) with
    | .ok i => .ok (i, bs.drop len)
    | .error e => .error e

/-- The length of an instruction in bytes (R32): W forms 8, L forms 12, S and Y forms 4. -/
def Instr.size : Instr → Nat
  | .vadd .. | .vsub .. | .vmul .. | .vfma .. | .vmin .. | .vmax .. | .vminm .. | .vmaxm .. | .vabs .. | .vneg .. | .vcmp .. | .vsel ..
  | .vexp2 .. | .vlog2 .. | .vrcp .. | .vrsq .. | .vtanh .. | .vcvt .. | .vqnt .. | .vdot .. | .vred .. | .vbc .. | .vld .. | .vst ..
  | .vmov .. | .vscl .. | .viadd .. | .vand .. | .vor .. | .vxor .. | .vshl .. | .vshr .. | .lease .. | .lfree .. | .aown .. | .afree ..
  | .scld .. | .wld .. | .chb .. | .cheW .. | .asave .. | .aload .. | .cpyW .. | .cpysW .. | .cpyselW .. | .cpyredW .. | .cpyfillW ..
  | .ldbW .. | .ldbuW .. | .ldhW .. | .ldhuW .. | .ldwW .. | .ldwuW .. | .lddW .. | .stbW .. | .sthW .. | .stwW .. | .stdW .. | .rldW ..
  | .rstW .. | .ramoW .. | .rcasW .. | .rwimW .. => 8
  | .mma .. | .cheL .. | .cpyL .. | .cpysL .. | .cpyselL .. | .cpyredL .. | .cpyfillL .. | .li .. | .ldbL .. | .ldbuL .. | .ldhL .. | .ldhuL .. | .ldwL ..
  | .ldwuL .. | .lddL .. | .stbL .. | .sthL .. | .stwL .. | .stdL .. | .rldL .. | .rstL .. | .ramoL .. | .rcasL .. | .rwimL .. => 12
  | _ => 4

/-- The words of an instruction as bytes in memory order. -/
def encode (i : Instr) : List Byte := natToBytes i.size (encodeNat i)

/-- The first 64 bits of an instruction, a 32-bit one zero-extended: the value of ILLEGAL and PRIV (R34). -/
def firstBits (n : Nat) : Word := BitVec.ofNat 64 (if lengthOf n = 4 then n % 2 ^ 32 else n)

/-- The instruction the decoder reads from an instruction whose bits are `w`; the bits above `nbits` are zero. -/
def decodeTableWord (nbits w : Nat) : Option Instr :=
  match decode (natToBytes 12 (w % 2 ^ nbits)) with
  | .ok (i, _) => some i
  | .error _ => none

end Sys2Proof
end

