-- ==== Sys2Proof/Config.lean ====
section
/-! DEFINITION. What the implementation fixes, and the free values: constants without a body that nothing in Lean can evaluate. -/

namespace Sys2Proof.Config

/-- Compute dies of a package (R13). -/
def dies : Nat := 4
/-- Physical clusters of the device (R17). -/
def clusters : Nat := 384
/-- Base of SRAM and of HBM4E, and the end of HBM4E (R97). -/
def sramBase : Nat := 0x004000000000
def hbmBase : Nat := 0x010000000000
def hbmEnd : Nat := 0x016000000000
/-- The device clock in cycles per microsecond (R14). -/
def cyclesPerMicrosecond : Nat := 1500
/-- The Millstone version the capability list reports (R276). -/
def millstoneVersion : Nat := 1

/-- What an unlisted byte of memory reads as. DESIGN CHOICE (entry 6, unsafe): the spec gives no reset contents. -/
def unwrittenByte : Byte := 0

/-- A value the device draws from a random source (R114, R209). UNVERIFIED, safe: free (entry 3). -/
opaque randomDraw : Nat → BitVec 32

/-- The state of an HBM controller's refresh generator after reset, from the hardware random source (R114, entry 8). UNVERIFIED, safe: free. -/
opaque nrrReset : Nat → BitVec 32

/-- A register's value that the spec leaves open: the status of a barrier instruction on a poisoned object (R296). UNVERIFIED, safe:
free (entry 3). -/
opaque freeWord : Nat → Word

/-- Which of the results within the error bound a special function gives for an input (R189). UNVERIFIED, safe: free (entry 13).
The first argument numbers the function. -/
opaque specialPick : Nat → BitVec 32 → Nat

/-- Whether a port's output queue of a length has room for a class A request, and whether it is more than half full (R209, R210): the
capacity is the implementation's. UNVERIFIED, safe: free (entry 20). -/
opaque outRoom : Nat → Bool
opaque outHalf : Nat → Bool

/-- SHA-512 (R269). The spec names the standard only: an uninterpreted function (entry 14), safe. -/
opaque sha512 : List Byte → BitVec 512
/-- Ed25519 verification of a digest under the root key (R269, entry 14), safe. -/
opaque rootKeyVerifies : BitVec 512 → BitVec 512 → Bool
/-- Ed25519 signature of a digest under an identity key (R273, R274, entry 14), safe. -/
opaque identitySign : BitVec 256 → BitVec 512 → BitVec 512

/-- AES-256-GCM seal: ciphertext and tag from key, IV, header and plaintext (R280, entry 14), safe. -/
opaque gcmSeal : BitVec 256 → BitVec 96 → BitVec 128 → BitVec 1792 → BitVec 1792 × BitVec 128
/-- AES-256-GCM open: the plaintext, or none when the tag fails (R280, R283, entry 14), safe. -/
opaque gcmOpen : BitVec 256 → BitVec 96 → BitVec 128 → BitVec 1792 → BitVec 128 → Option (BitVec 1792)

/-- The home tile that a request to another device names: the device's own page tables decide it, and the spec does not say how the source learns
it (R212, R214, entry 58). UNVERIFIED, safe: free. -/
opaque homeTile : BitVec 11 → BitVec 10 → Nat → BitVec 11

/-- Which of a port's channels with packets waiting the link serves next (R208, entry 59). UNVERIFIED, safe: free. -/
opaque linkPick : Nat → Nat

/-- The payload bits of a packet, and back: the spec lists what a payload carries and not where (R212, entry 15), safe. -/
opaque packPayload : Packet → BitVec 1792
opaque unpackPayload : BitVec 128 → BitVec 1792 → Packet
/-- The payload of a control flit: an acknowledgement, a NAK or a down notice (R280, R283, entry 15), safe. -/
opaque packControl : Nat → Bool → Word → BitVec 1792
opaque unpackControl : BitVec 1792 → Nat × Bool × Word

/-- Whether a fetch of a running thread sees an instruction that has been written since its start as it was before (R56, entry 74). UNVERIFIED, safe:
free. -/
opaque fetchesOld : Nat → Bool

/-- The bytes of a saved record whose layout the spec leaves open (R259, entry 12): the record's place in the archive, and the byte.
UNVERIFIED, safe: free. -/
opaque savedByte : Nat → Nat → Byte

end Sys2Proof.Config
end

