-- ==== Sys2Proof/Machine/State.lean ====
section
/-! DEFINITION. The state of the device as plain data: every piece of state the spec gives the machine, the model's own fields for the order of steps, and the state after reset. -/

namespace Sys2Proof.Machine

/-- Why the machine stops. -/
inductive Fault where
  /-- Raised by a system-core store or firmware placement of the agenda that names memory or a tile the device does not have (R97). Safe: the outside world asked for something that does not exist. -/
  | outsideAbsent (address : Nat)
  deriving DecidableEq, Repr

/-- Why an instruction has no meaning in a state. -/
inductive Refusal where
  /-- Raised by an arm of exec whose instruction has no meaning yet. Safe: nothing can be proved of it. -/
  | notModelled (mnemonic : String)
  /-- Raised by an instruction row when the slot named by `cur` holds no thread, so that nothing issues it (R60). Safe: a step never runs it. -/
  | noThread
  deriving DecidableEq, Repr

/-- What fills an empty register (R69): a remote access or request by number, a handle read in place, a message, a lease of n commands, or a reduction. -/
inductive Producer where
  | access (rid : Nat)
  | hget (handle : Word)
  | recv
  | lease (n : Nat)
  | vred
  deriving DecidableEq, Repr

/-- A general register: value, poison and, when it is empty, its producer (R57, R70, R252). -/
structure Reg where
  val : Word
  poison : Bool
  prod : Option Producer
  deriving DecidableEq, Repr

/-- An entry of the loop stack (R67). `endNext` is the PC after the instruction at the end label. -/
structure LoopEntry where
  loopn : Bool
  start : Pc
  endNext : Pc
  pc : Pc
  trips : Nat
  max : Nat
  n : Nat
  gc : Src
  deriving DecidableEq, Repr

/-- A store-FIFO entry that was removed by a failed drain (R245). -/
structure LostStore where
  unit : Nat
  mask : BitVec 8
  data : Word
  deriving DecidableEq, Repr

/-- A held event of boundary kind, with its value (R247); the first keeps its after kind. -/
inductive Held where
  | loopBound (trips : Nat) (pc : Pc) (start endNext : Pc)
  | storeLost (entries : List LostStore)
  | replayDiverge (value : Word)
  | chainOpen (value : Word)
  | excThresh (value : Word)
  | brokenHandle (handle : Word)
  deriving DecidableEq, Repr

/-- The trap for which a thread is stopped (R243 to R245, R249): its record, the restart points and whether the record is in the ring. -/
structure TrapInfo where
  cause : BitVec 8
  kind : BitVec 2
  value : Word
  pc : Pc
  loop : Pc
  resume : Pc
  skip : Pc
  popLoop : Bool
  lost : List LostStore
  written : Bool
  deriving DecidableEq, Repr

/-- A trap of after kind whose instruction stands at the end of a loop and whose end check has not been made: it is taken once the check has
chosen a PC (R67). -/
structure Owed where
  cause : BitVec 8
  value : Word
  pc : Pc
  deriving DecidableEq, Repr

/-- What a blocked thread waits for (R60). -/
inductive Wait where
  /-- Registers to be full, by number (R35, R70). -/
  | regs (numbers : List (BitVec 4))
  /-- The LOOPN test's register (R67). -/
  | loopTest (gc : BitVec 4)
  /-- A store-FIFO entry it may take (R104). -/
  | fifo
  /-- Its older entries to a unit to drain, or a bridge entry to the unit to be performed (R104, R118). -/
  | unitDrained (unit : Nat)
  /-- A release at a scope (R361). -/
  | release (scope : Scope)
  /-- FENCE: stores, and the accesses of the classes of the mask, with fence.timeout in cycles as it stood at its issue (R124). -/
  | fence (scope : Scope) (mask : BitVec 3) (bound : Nat)
  /-- Its own store-FIFO entries to drain (R76, R128), and for MIGRATE its registers to fill (R78). -/
  | drained
  | migrating
  /-- The move to a tile, and then the home's acknowledgement of the new location (R78, R233). -/
  | moving (target : Nat)
  | located (rid : Nat)
  | sem (k : BitVec 8) (n : BitVec 24) (d : BitVec 4)
  | recv
  | join (tile : Nat) (slot : Nat) (inst : BitVec 8)
  | align (pc : Pc)
  | wfe
  /-- BWAIT: the object, the phase, the bound in cycles, gd, and whether gb was poisoned (R302). -/
  | bwait (object : Nat) (phase : BitVec 4) (bound : Nat) (d : BitVec 4) (poison : Bool)
  /-- A BWAIT whose object has been completed or initialised; the wake is on its way (R302). -/
  | bwoken (d : BitVec 4) (poison : Bool)
  | wrevoke (w : Nat) (d : BitVec 4)
  | htest (rid : Nat) (d : BitVec 4)
  /-- HGET of a pending handle of its own tile (R230). -/
  | hget (handle : Word) (d : BitVec 4)
  | flumeRoom
  | accessRoom
  /-- Its turn at the Tailrace, and whether it has come (R184). -/
  | tail (granted : Bool)
  /-- No CHE, ASAVE, ALOAD pending on these accumulator tiles (R167, R177). -/
  | tiles (ts : List (BitVec 3))
  | tlbinv (ctx : BitVec 6) (page : Option Word)
  /-- CTXSAVE: the stop of a context, whose tear-down follows when the flag is set, and the cycle in which step 5 began (R258). -/
  | ctxStop (ctx : BitVec 6) (discard : Bool) (begun : Option Nat)
  /-- Its turn at an order point: a replayed decision (R241), or room in the log ring (R240). -/
  | site (point : BitVec 6) (site : BitVec 34)
  /-- The service of its request by a bank (R101, R102). -/
  | bank
  /-- Its earlier class O accesses to a device, made from the tile it has left (R130). -/
  | oOrder (dev : BitVec 11)
  /-- The end of a thread that ERET has killed: its stores drain and its tiles come free (R249). -/
  | dying
  deriving DecidableEq, Repr

/-- What a thread does: it can issue, waits since a serial number and a cycle, or is stopped for a trap (R60, R247). -/
inductive Status where
  | ready
  | blocked (w : Wait) (since : Nat) (cycle : Nat)
  | stopped (t : TrapInfo)
  deriving DecidableEq, Repr

/-- Losses and rejections of a thread's remote accesses not yet reported by a FENCE (R125), oldest first: class, peer and whether it is a
message found undeliverable; and the classes of the rejected accesses. -/
structure Losses where
  lost : List (BitVec 2 × BitVec 11 × Bool)
  rejected : List (BitVec 2)
  deriving DecidableEq, Repr

def Losses.none : Losses := ⟨[], []⟩

/-- A thread (R57, and the state the other rules give it). -/
structure Thread where
  pc : Pc
  regs : List Reg
  loops : List LoopEntry
  rets : List Pc
  spill : Word
  pri : BitVec 3
  age : Nat
  ctx : BitVec 6
  inst : BitVec 8
  sid : BitVec 48
  icount : Nat
  spawns : Nat
  latch : Bool
  status : Status
  held : List Held
  losses : Losses
  launch : Option Nat
  crew : Nat
  handle : Option Word
  loopPending : Bool
  /-- The trap that an instruction at a loop's end owes until the end check is made (R67). -/
  owed : Option Owed
  /-- The instruction in which the thread is blocked: it is evaluated again and not fetched again (R35). -/
  instr : Option Instr
  /-- Whether it held an innings when the vector instruction in which it is blocked issued (R335). -/
  leased : Bool
  /-- The cycle in which its last instruction leaves the pipeline (R60). -/
  pipe : Nat
  /-- The serial number at its creation: what was written to memory later, it may fetch as it stood before (R56). -/
  born : Nat
  /-- The registers that a response has filled in a cycle (R72). -/
  fills : Nat × List (BitVec 4)
  /-- What the VQNT in which it waits has sampled at its issue: num.srseed, num.srtid, num.srpos and the base of num.mxbase (R147, R192). -/
  sampled : Option (Word × BitVec 32 × Word × BitVec 8)
  deriving DecidableEq, Repr

/-- A semaphore (R79). Its waiters are the threads blocked on it. -/
structure Sem where
  err : Bool
  errcnt : BitVec 7
  count : BitVec 24
  /-- The cycle of the last SSET, which wins over the signals of its cycle (R82). -/
  setAt : Option Nat
  /-- The cycle of the last change: the head waiter's test follows the changes of a cycle, and serves one waiter in it (R81, R82). -/
  changed : Option Nat
  deriving DecidableEq, Repr

def Sem.zero : Sem := ⟨false, 0, 0, none, none⟩

/-- A message in a receive queue (R83). -/
structure Message where
  tag : BitVec 16
  sender : Word
  g1 : Word
  g2 : Word
  g3 : Word
  p1 : Bool
  p2 : Bool
  p3 : Bool
  ctx : BitVec 6
  sid : BitVec 48
  mark : BitVec 16
  deriving DecidableEq, Repr

/-- An entry of a handle resolution table in use (R223). -/
inductive HrtUse where
  /-- A handle homed on the tile: state held / running / fulfilled / broken. -/
  | held
  | running
  | fulfilled (result : Word) (poison : Bool)
  | broken (cause : BitVec 8)
  /-- A waiter record: an invocation or a remote HGET addressed to a handle of this tile. -/
  | waiter (p : Packet) (up : Nat)
  deriving DecidableEq, Repr

structure HrtEntry where
  gen : BitVec 14
  ctx : BitVec 6
  use : Option HrtUse
  derived : Bool
  dropped : Bool
  dev : BitVec 11
  tile : BitVec 11
  chain : List Nat
  deriving DecidableEq, Repr

def HrtEntry.free : HrtEntry := ⟨1, 0, none, false, false, 0, 0, []⟩

/-- An entry of a store FIFO (R104); a slot of 256 or more stands for a thread that has left slot `slot % 256`; `rel` is the scope of a .rel store, `poison` writes the unit poisoned, and `number` orders the entries of the device. -/
structure FifoEntry where
  number : Nat
  slot : Nat
  /-- The context, and the base and size of the page it was translated through (R111). -/
  ctx : BitVec 6
  page : Nat × Nat
  unit : Nat
  data : Word
  mask : BitVec 8
  poison : Bool
  rel : Option Scope
  /-- The cycle in which a release at the head began to wait (R122). -/
  relSince : Option Nat
  deriving DecidableEq, Repr

/-- An entry of a bridge write buffer (R118). -/
structure BridgeEntry where
  tile : Nat
  entry : FifoEntry
  deriving DecidableEq, Repr

/-- A leaf as a translation gives it (R107, R108). -/
inductive Leaf where
  | mem (pa : Nat) (x w r : Bool)
  | remote (dev : BitVec 11) (win : BitVec 10) (woff : Nat) (cls : BitVec 2) (x w r : Bool)
  deriving DecidableEq, Repr

/-- A cached translation: context, page base and size, the leaf of the page's first byte, and what R216 has learned. -/
structure TlbEntry where
  ctx : BitVec 6
  base : Nat
  size : Nat
  leaf : Leaf
  gen : BitVec 14
  revoked : Bool
  /-- The serial number at its fill: what an earlier access learns is not its own (R216). -/
  filled : Nat
  deriving DecidableEq, Repr

/-- An upper-level table entry that a cluster's walker holds: context, the range of addresses it maps, where it stands and what it says (R110). -/
structure WalkEntry where
  ctx : BitVec 6
  base : Nat
  size : Nat
  pa : Nat
  value : Nat
  deriving DecidableEq, Repr

/-- A remote access or a message that has not completed (R116, R124, R214). -/
structure Access where
  rid : Nat
  /-- One of the 64 remote-access entries, not a message. -/
  entry : Bool
  slot : Nat
  inst : BitVec 8
  dst : Option (BitVec 4)
  dev : BitVec 11
  cls : BitVec 2
  /-- The page of the TLB entry it went through: base and size. -/
  page : Option (Nat × Nat)
  handle : Word
  /-- The PC of the instruction, and whether its own data was poisoned. -/
  pc : Pc
  poison : Bool
  pkt : Packet
  since : Nat
  /-- Its home has accepted an HGET, which waits there for its handle (R124, R230). -/
  taken : Bool
  deriving DecidableEq, Repr

/-- Who issued an engine command, and the PC that counted events name (R158). -/
structure Issuer where
  ctx : BitVec 6
  tile : Nat
  slot : Nat
  inst : BitVec 8
  pc : Pc
  /-- Stores numbered below this one are released by the command (R127). -/
  after : Nat
  /-- Where the issuing thread now stands: tile, slot, instance (R78, R158). -/
  seat : Nat × Nat × BitVec 8
  deriving DecidableEq, Repr

/-- A part of a CPYRED packet: at most 64 bytes for one bank (R202). -/
structure RedPart where
  op : RedOp
  ty : RedTy
  pa : Nat
  bytes : List Byte
  poison : Bool
  who : Issuer
  sid : BitVec 48
  mark : BitVec 16
  arr : Bool
  cmd : Nat
  flume : Nat
  number : Nat
  /-- Base and size of the pages it was read and translated through (R111). -/
  pages : List (Nat × Nat)
  deriving DecidableEq, Repr

/-- A CPYRED.seq contribution in a hold buffer (R202): block, q, g and its parts. -/
structure SeqHeld where
  block : Nat
  q : Nat
  g : Nat
  parts : List RedPart
  deriving DecidableEq, Repr

/-- The counted events of a cycle, with what the counters held before them: a WRCTL of the cycle is applied first (R158). -/
structure Counted where
  cycle : Nat
  cnt : List (BitVec 32)
  fired : List Bool
  acted : List Bool
  events : List (Nat × Issuer)
  deriving DecidableEq, Repr

def Counted.none : Counted := ⟨0, [], [], [], []⟩

/-- Control registers kept one per pair of tile and context (R320). -/
structure TileCtx where
  srtid : BitVec 32
  srpos : Word
  mxClamp : Bool
  mxPeak : BitVec 8
  mxBase : BitVec 8
  excWin : BitVec 32
  excIrq : BitVec 8
  thresh : List (BitVec 32)
  cnt : List (BitVec 32)
  fired : List Bool
  /-- The classes that have acted in this window (R158). -/
  acted : List Bool
  /-- The cycle of the last window boundary, or of the last change of the window. -/
  cleared : Nat
  hndTrapb : Bool
  now : Counted
  deriving DecidableEq, Repr

def TileCtx.reset : TileCtx :=
  ⟨0, 0, false, 0, 127, 0x10000, 0, List.replicate 8 0xFFFFFFFF, List.replicate 8 0, List.replicate 8 false, List.replicate 8 false, 0, false, Counted.none⟩

/-- A tile (R15): its threads and the units beside its sequencer. -/
structure Tile where
  threads : Tab Thread
  insts : Tab (BitVec 8)
  ptr : Nat
  agestep : BitVec 16
  sems : Tab Sem
  rq : List Message
  hrt : Tab HrtEntry
  fifo : List FifoEntry
  tlb : List TlbEntry
  accs : List Access
  oseq : Tab (BitVec 16)
  entropy : Tab (BitVec 4)
  trapSel : Word
  hold : List SeqHeld
  expq : Tab Nat
  regs : Tab TileCtx
  /-- Arrivals that wait at the tile, in order: held by replay, or for room in the receive queue (R86). The first 32 stand in the tile's
  hold buffer, the others in the mesh or fabric (R241). -/
  hold2 : List Instr
  /-- Trap records held for want of room, of threads that no longer stand stopped: context, whether the slot is firmware's, pieces (R246). -/
  records : List (BitVec 6 × Bool × List (List Byte))
  /-- The HCANCELs that have come in this cycle, and the arrivals on their handles behind them: they act when the cycle is over, behind its fulfilments
  (R226, R235). -/
  late : List Instr
  deriving DecidableEq, Repr

def Tile.reset : Tile := ⟨[], [], 0, 0x40, [], [], [], [], [], [], [], [], 0, [], [], [], [], [], []⟩

/-- A lease request or the innings in force (R161 to R163). -/
structure Lease where
  tile : Nat
  slot : Nat
  inst : BitVec 8
  ctx : BitVec 6
  /-- The stream and tag of the LEASE (R237). -/
  sid : BitVec 48
  tag : BitVec 16
  d : BitVec 4
  n : Nat
  /-- The cycle of the request, then of the grant. -/
  cycle : Nat
  cmds : Nat
  budget : Nat
  deriving DecidableEq, Repr

/-- The open chain, as acceptance sees it (R171, R172). -/
structure Chain where
  number : Nat
  pc : Pc
  expect : Nat
  issued : Nat
  kind : Option Bool
  bc : BitVec 8
  mx : Bool
  gta : BitVec 32
  gtw : BitVec 32
  deriving DecidableEq, Repr

/-- The physical pieces of a range of virtual addresses, in order: address and length. -/
abbrev Span := List (Nat × Nat)

/-- A command in the Millstone's queue, in acceptance order (R172, R176). Addresses are those translated at acceptance. -/
inductive MillCmd where
  | scld (src : Span) (line : Nat) (s : BitVec 8)
  /-- The scale-memory write of a VQNT (R191). -/
  | scales (soff : Nat) (bytes : BitVec 128) (poison : Bool)
  | wld (f : WFmt) (plane : Bool) (src : Span) (soff zoff : Nat)
  /-- Rows by address, none for a zero row, with the poison of their indices. -/
  | mma (chain : Nat) (f : AFmt) (plane : Bool) (rows : List (Option Nat × Bool)) (soff kstep : Nat) (bc s : BitVec 8) (rangeErr : Bool)
  | che (chain : Nat) (bf16 : Bool) (bc : BitVec 8) (gta gtw : BitVec 32) (acc : Bool) (t : BitVec 3)
      (mask : Option Span) (s : BitVec 8) (ev : Option (BitVec 8))
  | asave (t : BitVec 3) (dst : Span) (s : BitVec 8)
  | aload (t : BitVec 3) (src : Span) (s : BitVec 8)
  /-- The grant of an innings: planes and scale memory become empty (R165). -/
  | grant
  deriving DecidableEq, Repr

structure MillQueued where
  cmd : MillCmd
  who : Issuer
  /-- Whether the Tailrace has begun a CHE fold, ASAVE or ALOAD (R184). -/
  started : Bool
  /-- Base and size of the pages its addresses were translated through (R111). -/
  pages : List (Nat × Nat)
  deriving DecidableEq, Repr

/-- A plane of weights (R159, R170): format, poison, and for each column its 128 exact values in units of 2^-18 (none for NaN), or its BF16 bits. -/
structure Plane where
  fmt : WFmt
  cols : List (List (Option Int))
  bits : List (List (BitVec 16))
  poison : Bool
  deriving DecidableEq, Repr

/-- An accumulator tile (R167): owner, type, rows as bits and row poison. -/
structure AccTile where
  owner : Option (Nat × Nat × BitVec 8)
  ty : TileTy
  rows : Tab (BitVec 8192)
  poison : BitVec 64
  deriving DecidableEq, Repr

def AccTile.reset : AccTile := ⟨none, .fp32, [], 0⟩

/-- An align-table entry (R66); its threads are those blocked on it. -/
structure AlignEntry where
  ctx : BitVec 6
  pc : Pc
  first : Nat
  bound : Nat
  crew : Nat
  deriving DecidableEq, Repr

/-- A reduction in the Tailrace (R185). -/
structure VredOp where
  tile : Nat
  slot : Nat
  inst : BitVec 8
  tileNo : BitVec 3
  d : BitVec 4
  val : Word
  poison : Bool
  deriving DecidableEq, Repr

/-- A VRED that waits for its turn: its operand row as it stood at issue. -/
structure VredReq where
  op : RedOp
  ty : TileTy
  tileNo : BitVec 3
  row : BitVec 8192
  poison : Bool
  who : Issuer
  d : BitVec 4
  /-- The cycle of its issue. -/
  cycle : Nat
  deriving DecidableEq, Repr

/-- A vector operation of a tile that waits for its turn at the Tailrace (R184): a reduction, or the instruction in which a thread is blocked, with the
cycles it occupies the Tailrace and the cycle of its issue. -/
inductive TailReq where
  | vred (v : VredReq)
  | turn (tile slot : Nat) (inst : BitVec 8) (cycles cycle : Nat)
  deriving DecidableEq, Repr

/-- A cluster (R15): Millstone, Tailrace and align table. -/
structure Cluster where
  inningsCycles : Nat
  inningsCmds : Nat
  innings : Option Lease
  grants : List Lease
  chain : Option Chain
  chains : Nat
  /-- The chain accumulator: the chain it belongs to, and by row the elements, NaN flags and BF16 sums; a row not listed is as CHB leaves it. -/
  caChain : Nat
  ca : Tab (List Int)
  caNan : Tab (List Bool)
  caSum : Tab (List (BitVec 32))
  caPoison : BitVec 64
  planes : Tab Plane
  /-- Scale memory: written 64-byte lines as bits, and poisoned lines. -/
  scale : Tab (BitVec 512)
  scalePoison : Tab Bool
  queue : List MillQueued
  acc : Tab AccTile
  /-- The requester last served by the Tailrace, 0 to 4; 4 after reset, so that the count starts at tile 0. -/
  lastServed : Nat
  vreqs : List TailReq
  vred : List VredOp
  align : List AlignEntry
  /-- The command limit in force since the last grant (R166). -/
  cmdsNow : Nat
  /-- The cycle from which the Tailrace can start its next operation (R184). -/
  busy : Nat
  deriving DecidableEq, Repr

def Cluster.reset : Cluster :=
  ⟨0x10000, 256, none, [], none, 0, 0, [], [], [], 0, [], [], [], [], [], 4, [], [], [], 256, 0⟩

/-- The kind of a Flume command (R196). -/
inductive FKind where
  | cpy | cpys | cpysel | fill
  | red (op : RedOp) (ty : RedTy) (seq : Bool)
  deriving DecidableEq, Repr

/-- An accepted Flume command (R41, R196, R197). -/
structure FCmd where
  kind : FKind
  dst : Word
  src : Word
  len : Nat
  desc : List Byte
  q : Nat
  g : Nat
  s : BitVec 8
  ds : Option (BitVec 8)
  ev : Option (BitVec 8)
  /-- The fill pattern was poisoned. -/
  poison : Bool
  who : Issuer
  sid : BitVec 48
  mark : BitVec 16
  deriving DecidableEq, Repr

/-- A packet that a Flume has read and not landed (R194): the byte of the command at which it begins, its first destination address, its writes
by physical address, poison, and a number. -/
structure FPacket where
  start : Nat
  va : Word
  writes : List (Nat × List Byte)
  poison : Bool
  number : Nat
  /-- Base and size of the pages it was read and translated through (R111). -/
  pages : List (Nat × Nat)
  deriving DecidableEq, Repr

/-- A command on its way: its number, the bytes it has read, whether its reads are over and why they stopped early, its packets, the selected rows of a CPYSEL,
packets of which parts are not yet applied (number, parts left, tile), and the classes it counts at its end. -/
structure FRun where
  number : Nat
  cmd : FCmd
  pos : Nat
  done : Bool
  fault : Option (BitVec 8 × Word)
  packets : List FPacket
  sel : Option (List Nat)
  parts : List (Nat × Nat × Nat)
  classes : List Nat
  deriving DecidableEq, Repr

structure Flume where
  queue : List FRun
  runs : List FRun
  tlb : List TlbEntry
  deriving DecidableEq, Repr

def Flume.reset : Flume := ⟨[], [], []⟩

/-- The error events of a cycle, with what the log and the counters held before them: a WRCTL of the cycle is applied first (R267, R339). -/
structure Logged where
  cycle : Nat
  log : List (BitVec 256)
  seq : BitVec 28
  ovf : Bool
  lost : BitVec 16
  counts : Tab (BitVec 32)
  /-- Type, unit, address and syndrome. -/
  events : List (Nat × BitVec 16 × BitVec 48 × BitVec 60)
  deriving DecidableEq, Repr

/-- A compute die's controllers and error log (R114, R115, R264 to R267). -/
structure Die where
  nrrSeed : BitVec 32
  nrrTest : Bool
  nrrK : BitVec 5
  gens : Tab (BitVec 32)
  acts : Tab Nat
  refreshes : Tab Nat
  corr : BitVec 40
  uncorr : BitVec 20
  covf : Bool
  uovf : Bool
  /-- A cycle, and the corrected and uncorrected reads counted in it (R115). -/
  errNow : Nat × Nat × Nat
  scrubs : List Nat
  log : List (BitVec 256)
  seq : BitVec 28
  ovf : Bool
  lost : BitVec 16
  counts : Tab (BitVec 32)
  now : Logged
  deriving DecidableEq, Repr

def Die.reset : Die := ⟨1, false, 10, [], [], [], 0, 0, false, false, (0, 0, 0), [], [], 0, false, 0, [], ⟨0, [], 0, false, 0, [], []⟩⟩

/-- The states of a context (R257). -/
inductive CtxState where
  | free | live | stopping | stalled | saved | lost
  deriving DecidableEq, Repr

/-- A queued launch (R90, R93): the record's words, its sid origin, and what its interrupt reports. -/
structure Launch where
  words : List Word
  origin : BitVec 48
  detail : Word
  /-- The address of the ring record, for a ring admission. -/
  ring : Option Nat
  /-- The cycle in which it was queued, and who executed its LAUNCH: tile, slot, instance, gd (R95). -/
  cycle : Nat
  by' : Option (Nat × Nat × BitVec 8 × BitVec 4)
  deriving DecidableEq, Repr

/-- A launch with threads left (R91). -/
structure Running where
  number : Nat
  launch : Launch
  left : Nat
  deriving DecidableEq, Repr

/-- A contender at a site: its stream and tag (R237), and where the thread that issued it stood: none on another device. -/
structure Contender where
  sid : BitVec 48
  tag : BitVec 16
  tile : Nat
  slot : Nat
  ctx : Option (BitVec 6)
  deriving DecidableEq, Repr

/-- A site of the order log (R236 to R242): decisions, previous winner, queued records (seq, sid, tag), the contenders held there in arrival
order, since when they have waited for the winner now named, and the contender whose record waits for room. -/
structure Site where
  point : BitVec 6
  site : BitVec 34
  seq : BitVec 24
  winner : Option (BitVec 48)
  queue : List (BitVec 24 × BitVec 48 × BitVec 16)
  held : List Contender
  since : Option Nat
  room : Option (BitVec 48 × BitVec 16)
  deriving DecidableEq, Repr

/-- A context (R26, and the registers of R320 kept one per context). -/
structure Context where
  state : CtxState
  evec : BitVec 256
  /-- A cycle, the event bits set in it, and those of them that were clear before or have been cleared in it (R91, R94). -/
  evNow : Nat × BitVec 256 × BitVec 256
  admitBase : Word
  admitLog : BitVec 4
  consumed : BitVec 32
  bell : Word
  target : BitVec 32
  queue : List Launch
  running : List Running
  launches : Nat
  sluiceBase : Word
  /-- Messages in the heap; the register shows its low 20 bits (R87, entry 69). -/
  sluiceHeld : BitVec 21
  sluiceLog : BitVec 5
  /-- The held messages in the Sluice's order: entry number, tile, message. -/
  sluice : List (Nat × Nat × Message)
  /-- A cycle, and the messages that the Sluice has stored less those it has replayed in it (R339). -/
  sluiceNow : Nat × Int
  ptroot : Word
  timeout : BitVec 24
  srseed : Word
  rrBase : Word
  rrLost : BitVec 16
  /-- A cycle, and the restart records lost in it (R339). -/
  rrNow : Nat × Nat
  rrProd : BitVec 32
  rrIrq : Bool
  rrLog : BitVec 4
  peer : BitVec 17
  ordMode : Word
  ordBase : Word
  ordProd : Word
  ordCons : Word
  ordDiv : Bool
  ordEnd : Bool
  ordLast : BitVec 62
  /-- A cycle, and whether div and end were set in it (R339). -/
  ordSet : Nat × Bool × Bool
  /-- A cycle, and the log records written in it, with their tile and point, in the order of the ring (R238). -/
  ordNow : Nat × List (Nat × Nat × BitVec 128)
  /-- The mode and base in force since the last CTXLOAD (R239). -/
  mode : BitVec 2
  modeHold : BitVec 24
  modeIrq : Bool
  ringBase : Word
  sites : List Site
  trapRing : Word
  trapProd : Word
  trapCons : Word
  saveBase : Word
  saveSize : BitVec 40
  map : List (BitVec 16)
  arrivals : List Packet
  /-- Of a saved context: the held arrivals that its image holds, which count toward the 64 (R234). -/
  kept : List Packet
  /-- The cycle in which its last CTXSAVE began to stop it: what issues in that cycle meets the stop (R263). -/
  stopAt : Option Nat
  /-- The thread whose CTXSAVE stops it, or last did: tile, slot and instance (R258, R263). -/
  stopper : Option (Nat × Nat × BitVec 8)
  /-- Of a saved context: the handles that its threads were running, each with the tile of the thread (R261). -/
  ran : List (Nat × Word)
  deriving DecidableEq, Repr

def Context.reset : Context :=
  { state := .free, evec := 0, evNow := (0, 0, 0), admitBase := 0, admitLog := 0, consumed := 0, bell := 0, target := 0, queue := [], running := [],
    launches := 0, sluiceBase := 0, sluiceHeld := 0, sluiceLog := 4, sluice := [], sluiceNow := (0, 0), ptroot := 0, timeout := 200, srseed := 0,
    rrBase := 0, rrLost := 0, rrNow := (0, 0), rrProd := 0, rrIrq := false, rrLog := 1, peer := 0, ordMode := 0x400000, ordBase := 8, ordProd := 0,
    ordCons := 0, ordDiv := false, ordEnd := false, ordLast := 0, ordSet := (0, false, false), ordNow := (0, []), mode := 0, modeHold := 0x4000, modeIrq := false, ringBase := 8,
    sites := [], trapRing := 4, trapProd := 0, trapCons := 0, saveBase := 0, saveSize := 0, map := [], arrivals := [], kept := [], stopAt := none, stopper := none, ran := [] }

/-- The state of a window-table entry (R218). -/
inductive WinState where
  | free | opened | revoking
  deriving DecidableEq, Repr

structure Window where
  state : WinState
  gen : BitVec 14
  ctx : BitVec 6
  base : Word
  size : BitVec 36
  rd : Bool
  w : Bool
  deriving DecidableEq, Repr

def Window.reset : Window := ⟨.free, 1, 0, 0, 0, false, false⟩

/-- The classes to which the slots of a bank belong (R101). -/
inductive SlotClass where
  | millstone
  | tailrace
  | sequencer
  | flume
  | meshIn
  deriving DecidableEq, Repr

/-- What a thread asks of a bank in a slot (R101, R198, R296): a load, a refill of the return stack, the descriptor of a Flume command, an atomic, or an
operation on a barrier object. -/
inductive BankOp where
  | load (z : LdSize) (d : GReg)
  /-- The read of a descriptor from an address, for the command of an instruction whose source registers are given. -/
  | descriptor (cmd : FCmd) (i : Instr) (va : Word) (regs : List GReg)
  /-- The read of a RET from its spill slot. -/
  | refill (va : Word)
  | amo (op : AmoOp) (z : AtSize) (d : GReg) (data : Word) (poison : Bool)
  | cas (z : AtSize) (d : GReg) (expect data : Word) (poison source : Bool)
  | binit (object : Nat)
  | barr (d : GReg) (n : Nat)
  | bexp (n : Int)
  /-- The read of BWAIT, with its phase, its bound in cycles and the poison of gb. -/
  | bread (d : GReg) (phase : BitVec 4) (bound : Nat) (poison : Bool)
  deriving DecidableEq, Repr

/-- A request in a bank's queue for a sequencer or mesh-in slot (R101, R102): an accepted remote request with its unit address, its context and page; a part of a CPYRED
packet; a request of a thread for the instruction of a size at PC, with the cycle it reaches the bank in, its page and a number; or the store of a number, which still
stands at the head of a tile's FIFO or in a bridge buffer. -/
inductive BankReq where
  | remote (p : Packet) (pa : Nat) (ctx : BitVec 6) (page : Nat × Nat) (number : Nat)
  | red (part : RedPart)
  | thread (tile slot : Nat) (inst : BitVec 8) (op : BankOp) (pa size at' : Nat) (page : Nat × Nat) (number : Nat)
  | store (tile number : Nat)
  deriving DecidableEq, Repr

/-- A key slot of a link direction (R281, R282). -/
structure KeySlot where
  key : Option (BitVec 256)
  counter : Word
  /-- The due event has been raised for this key. -/
  warned : Bool
  deriving DecidableEq, Repr

def KeySlot.empty : KeySlot := ⟨none, 0, false⟩

/-- What a control flit tells the other end (R283): an acknowledgement, a NAK or a down notice. -/
structure Control where
  kind : Nat
  slot : Bool
  counter : Word
  deriving DecidableEq, Repr

/-- A fabric port (R208, R280 to R284). -/
structure Port where
  /-- Packets waiting to leave, oldest first, and control flits, which go before them. -/
  out : List Packet
  ctl : List Control
  /-- A marker that a switch request has sealed and that has not been sent. -/
  marker : Option Flit
  txs : Tab KeySlot
  rxs : Tab KeySlot
  txcur : Bool
  rxcur : Bool
  /-- Flits sent and not acknowledged, oldest first, and how many of them are to be replayed. -/
  retry : List Flit
  replay : List Flit
  markerOut : Bool
  txDown : Bool
  rxDown : Bool
  /-- Consecutive failures at the expected counter, and flits accepted since the last acknowledgement. -/
  fails : Nat
  sinceAck : Nat
  due : Bool
  rxsw : Bool
  down : Bool
  auth : Bool
  /-- A cycle, and the events of lnk.evt raised in it: auth, down, rxsw, due (R339). -/
  evNow : Nat × BitVec 4
  evTile : BitVec 11
  evSem : BitVec 8
  dir : Bool
  slot : Bool
  deriving DecidableEq, Repr

def Port.reset : Port :=
  ⟨[], [], none, [], [], false, false, [], [], false, false, false, 0, 0, false, false, false, false, (0, 0), 0, 0, false, false⟩

/-- The phase of the I/O die's boot (R268, R272). -/
inductive BootPhase where
  | rom | recovery | running
  deriving DecidableEq, Repr

/-- What the I/O die's boot and security block hold (R268 to R274). -/
structure Boot where
  phase : BootPhase
  manifest : List Byte
  imageLen : Nat
  fwver : Word
  measurement : BitVec 512
  dclk : BitVec 16
  sclk : BitVec 16
  entry : BitVec 32
  identity : Option (BitVec 256)
  ip : Option (BitVec 32)
  deriving DecidableEq, Repr

/-- Before an image runs, its measurement, version, clocks and entry hold zero: DESIGN CHOICE (entries 45 and 73), the spec gives no values. -/
def Boot.reset : Boot := ⟨.rom, [], 0, 0, 0, 0, 0, 0, none, none⟩

/-- Answers on the management port (R272, R274): of the recovery loader, a report, or a status word. -/
inductive MgmtOut where
  | tftpError (code : Nat)
  | tftpAck
  | report (bytes : List Byte)
  | status (w : Word)
  deriving DecidableEq, Repr

/-- The interrupt unit (R278, R279). -/
structure Irq where
  base : Word
  log2n : BitVec 5
  vec : BitVec 8
  en : Bool
  core : BitVec 4
  prod : BitVec 32
  seq : BitVec 32
  ovf : Bool
  lost : BitVec 15
  held : List (BitVec 128)
  /-- A cycle, and how many of the held records were pushed in it (R279). -/
  now : Nat × Nat
  /-- A cycle, and how many records were lost in it (R339). -/
  lostNow : Nat × Nat
  sent : List (BitVec 4 × BitVec 8)
  deriving DecidableEq, Repr

def Irq.reset : Irq := ⟨0, 4, 0, false, 0, 0, 0, false, 0, [], (0, 0), (0, 0), []⟩

/-- A code word that has gone bad and waits for the next read (R113, R252, R254). -/
inductive Flaw where
  | sramCe (unit bit : Nat)
  | sramUe (unit : Nat) (syndrome : BitVec 8)
  | hbmCe (unit byte : Nat)
  | hbmUe (unit : Nat) (syndrome : BitVec 32)
  | bridgeLost (unit : Nat) (cause : BitVec 8)
  /-- State that has no poison form: structure, its index and its tile (R260, R265). -/
  | stateUe (structure' : BitVec 8) (index tile : Nat)
  /-- The HBM controller will report a write to a unit of a save area failed (R260). -/
  | saveWrite (unit : Nat)
  deriving DecidableEq, Repr

/-- What CTXSAVE has put into a record whose layout the spec leaves open, or that holds less than the device must restore (R259, entry 12). -/
inductive Saved where
  | thread (tile slot : Nat) (t : Thread)
  | messages (tile : Nat) (ms : List Message) (sluiced : List (Nat × Nat × Message))
  | hrt (tile e : Nat) (x : HrtEntry)
  | cmd (flume : Nat) (r : FRun)
  | launch (ctx : BitVec 6) (l : Launch)
  /-- A command or launch that has been restored, or saved anew. -/
  | gone
  | site (x : Site)
  | held (tile : Nat) (e : Instr)
  | part (bank : Nat) (p : RedPart)
  | seq (tile : Nat) (h : SeqHeld)
  | arrival (p : Packet)
  deriving DecidableEq, Repr

/-- What a unit of 8 bytes held before it was written: serial number of the write, unit, its bytes, and which of them the write covered (R56). -/
structure Past where
  serial : Nat
  unit : Nat
  bytes : List Byte
  mask : BitVec 8
  deriving DecidableEq, Repr

/-- What moves next: an event, a cycle of a tile's Wheel, the passing of cycles, or an outside party. -/
inductive Turn where
  | row (e : Instr)
  | wheel (tile : Nat)
  | tick (n : Nat)
  | coreStore (address : Nat) (bytes : List Byte)
  | coreCtl (number : BitVec 14) (tile : Nat) (ctx : BitVec 6) (v : Word)
  | flaw (f : Flaw)
  | place (tile slot : Nat) (t : Thread)
  deriving DecidableEq, Repr

/-- What the control registers are read from: the units that hold them, as they stood at the end of a cycle (R319). -/
structure Shadow where
  tiles : Tab Tile
  clusters : Tab Cluster
  dies : Tab Die
  ctxs : Tab Context
  fabDims : BitVec 11
  fabSelf : BitVec 11
  rtsel : BitVec 11
  routes : Tab (Bool × BitVec 4)
  ports : Tab Port
  lnkSel : BitVec 4
  irq : Irq
  deriving DecidableEq, Repr

def Shadow.reset : Shadow := ⟨[], [], [], [], 0, 0, 0, [], [], 0, Irq.reset⟩

/-- The device (R13), and the model's own fields `agenda`, `inflight`, `cur`, `focus`, `fresh`, `serial`, `flaws`, `archive`,
`past`. -/
structure State where
  agenda : List Turn
  inflight : List Instr
  cur : Nat × Nat
  focus : Nat
  fresh : Nat
  serial : Nat
  flaws : List Flaw
  archive : List Saved
  /-- What memory held before it was written, oldest write first (R56). -/
  past : List Past
  cycle : Nat
  mem : List Host.Cell
  poison : List Nat
  disabled : List Nat
  boot : Boot
  tiles : Tab Tile
  clusters : Tab Cluster
  dies : Tab Die
  flumes : Tab Flume
  ctxs : Tab Context
  lastCtx : Nat
  windows : Tab Window
  fabDims : BitVec 11
  fabSelf : BitVec 11
  rtsel : BitVec 11
  routes : Tab (Bool × BitVec 4)
  oHold : List Packet
  /-- Per source thread: the next class O seq to be performed, and whether that request has been passed on (R211). -/
  oExpect : Tab (BitVec 16 × Bool)
  ports : Tab Port
  lnkSel : BitVec 4
  lnkKeys : BitVec 256
  irq : Irq
  banks : Tab (List BankReq)
  /-- By bank, one more than the cycle in which it last served an access (R101). -/
  slots : Tab Nat
  /-- By cluster, what its walker holds of upper-level tables, at most 64 entries (R110). -/
  walkers : Tab (List WalkEntry)
  bridge : List BridgeEntry
  wire : List (Nat × Flit)
  mgmt : List MgmtOut
  /-- The control registers at the end of the previous cycle (R319). -/
  last : Shadow
  deriving DecidableEq, Repr

/-- The machine right after reset. Every unit of a table that is not listed is at its reset state. -/
def State.reset : State :=
  { agenda := [], inflight := [], cur := (0, 0), focus := 0, fresh := 0, serial := 0, flaws := [], archive := [], past := [], cycle := 0, mem := [], poison := [],
    disabled := [], boot := Boot.reset, tiles := [], clusters := [], dies := [], flumes := [], ctxs := [], lastCtx := 63, windows := [],
    fabDims := 0, fabSelf := 0, rtsel := 0, routes := [], oHold := [], oExpect := [], ports := [], lnkSel := 0, lnkKeys := 0,
    irq := Irq.reset, banks := [], slots := [], walkers := [], bridge := [], wire := [], mgmt := [], last := Shadow.reset }

end Sys2Proof.Machine
end

