-- ==== Sys2Proof/Machine/Ops.lean ====
section
/-! DEFINITION. The named operations: tables and units of the state, memory, error log and counters, traps, retirement, translation, stores and releases. -/

namespace Sys2Proof.Machine
open Sys2Proof

abbrev Out := Host.Outcome State Fault Refusal

/-! ### Tables -/

/-- The entry of number k, or the default. -/
def Tab.get {α : Type} (d : α) : Tab α → Nat → α
  | [], _ => d
  | (j, x) :: t, k => if k = j then x else if k < j then d else Tab.get d t k

/-- The entry of number k if the table lists it. -/
def Tab.find {α : Type} : Tab α → Nat → Option α
  | [], _ => none
  | (j, x) :: t, k => if k = j then some x else if k < j then none else Tab.find t k

def Tab.put {α : Type} : Tab α → Nat → α → Tab α
  | [], k, v => [(k, v)]
  | (j, x) :: t, k, v => if k < j then (k, v) :: (j, x) :: t else if k = j then (k, v) :: t else (j, x) :: Tab.put t k v

def Tab.drop {α : Type} : Tab α → Nat → Tab α
  | [], _ => []
  | (j, x) :: t, k => if k = j then t else if k < j then (j, x) :: t else (j, x) :: Tab.drop t k

/-- A sorted list of numbers without repeats. -/
def setAdd : List Nat → Nat → List Nat
  | [], k => [k]
  | j :: t, k => if k < j then k :: j :: t else if k = j then j :: t else j :: setAdd t k

def setDel : List Nat → Nat → List Nat
  | [], _ => []
  | j :: t, k => if k = j then t else if k < j then j :: t else j :: setDel t k

/-- The least number below n for which p holds. -/
def leastBelow (p : Nat → Bool) : Nat → Nat → Option Nat
  | _, 0 => none
  | k, n + 1 => if p k then some k else leastBelow p (k + 1) n

/-! ### Units of the state -/

def State.tile (s : State) (t : Nat) : Tile := Tab.get Tile.reset s.tiles t
def State.setTile (s : State) (t : Nat) (x : Tile) : State := { s with tiles := Tab.put s.tiles t x }
def State.cluster (s : State) (c : Nat) : Cluster := Tab.get Cluster.reset s.clusters c
def State.setCluster (s : State) (c : Nat) (x : Cluster) : State := { s with clusters := Tab.put s.clusters c x }
def State.die (s : State) (d : Nat) : Die := Tab.get Die.reset s.dies d
def State.setDie (s : State) (d : Nat) (x : Die) : State := { s with dies := Tab.put s.dies d x }
def State.flume (s : State) (f : Nat) : Flume := Tab.get Flume.reset s.flumes f
def State.setFlume (s : State) (f : Nat) (x : Flume) : State := { s with flumes := Tab.put s.flumes f x }
def State.ctx (s : State) (c : BitVec 6) : Context := Tab.get Context.reset s.ctxs c.toNat
def State.setCtx (s : State) (c : BitVec 6) (x : Context) : State := { s with ctxs := Tab.put s.ctxs c.toNat x }
def State.port (s : State) (p : Nat) : Port := Tab.get Port.reset s.ports p
def State.setPort (s : State) (p : Nat) (x : Port) : State := { s with ports := Tab.put s.ports p x }
def State.window (s : State) (w : Nat) : Window := Tab.get Window.reset s.windows w
def State.setWindow (s : State) (w : Nat) (x : Window) : State := { s with windows := Tab.put s.windows w x }
def State.bank (s : State) (k : Nat) : List BankReq := Tab.get [] s.banks k
def State.setBank (s : State) (k : Nat) (x : List BankReq) : State := { s with banks := Tab.put s.banks k x }

def State.thread? (s : State) (t slot : Nat) : Option Thread := Tab.find (s.tile t).threads slot
def State.setThread (s : State) (t slot : Nat) (x : Thread) : State :=
  s.setTile t { s.tile t with threads := Tab.put (s.tile t).threads slot x }
def State.dropThread (s : State) (t slot : Nat) : State :=
  s.setTile t { s.tile t with threads := Tab.drop (s.tile t).threads slot }
/-- The thread whose instruction exec runs. -/
def State.me (s : State) : Option Thread := s.thread? s.cur.1 s.cur.2
def State.setMe (s : State) (x : Thread) : State := s.setThread s.cur.1 s.cur.2 x

def State.sem (s : State) (t k : Nat) : Sem := Tab.get Sem.zero (s.tile t).sems k
def State.setSem (s : State) (t k : Nat) (x : Sem) : State :=
  s.setTile t { s.tile t with sems := Tab.put (s.tile t).sems k x }
def State.hrt (s : State) (t e : Nat) : HrtEntry := Tab.get HrtEntry.free (s.tile t).hrt e
def State.setHrt (s : State) (t e : Nat) (x : HrtEntry) : State :=
  s.setTile t { s.tile t with hrt := Tab.put (s.tile t).hrt e x }
def State.tctx (s : State) (t : Nat) (c : BitVec 6) : TileCtx := Tab.get TileCtx.reset (s.tile t).regs c.toNat
def State.setTctx (s : State) (t : Nat) (c : BitVec 6) (x : TileCtx) : State :=
  s.setTile t { s.tile t with regs := Tab.put (s.tile t).regs c.toNat x }

/-- Every event row that a step has caused and that has not happened yet waits in `inflight`. -/
def State.cause (s : State) (e : Instr) : State := { s with inflight := s.inflight ++ [e] }
def State.tickSerial (s : State) : State := { s with serial := s.serial + 1 }

/-- The physical cluster of a tile id (R89, R98). -/
def clusterOf (t : Nat) : Nat := t / 512 * 96 + t / 4 % 128
def dieOf (t : Nat) : Nat := t / 512
def tileId (cluster k : Nat) : Nat := cluster / 96 * 512 + cluster % 96 * 4 + k
/-- The Flume of a tile (R193). -/
def flumeOf (t : Nat) : Nat := t / 512 * 32 + t / 4 % 128 / 3

def State.clusterOn (s : State) (c : Nat) : Bool := c < Config.clusters && !s.disabled.contains c
/-- A tile that is neither absent nor disabled (R25, R98). -/
def State.tileOn (s : State) (t : Nat) : Bool := t < 2048 && t / 4 % 128 < 96 && s.clusterOn (clusterOf t)
def State.enabled (s : State) : Nat := Config.clusters - s.disabled.length

/-! ### Registers of a thread -/

def Reg.full (r : Reg) : Bool := r.prod.isNone
def Reg.zero : Reg := ⟨0, false, none⟩
def Thread.reg (t : Thread) (r : GReg) : Reg := t.regs.getD r.toNat Reg.zero
def Thread.setReg (t : Thread) (r : GReg) (x : Reg) : Thread := { t with regs := t.regs.set r.toNat x }
/-- Writes a register full (R69). -/
def Thread.write (t : Thread) (r : GReg) (v : Word) (poison : Bool) : Thread := t.setReg r ⟨v, poison, none⟩
/-- Leaves a register empty for its producer (R69). -/
def Thread.markEmpty (t : Thread) (r : GReg) (p : Producer) : Thread := t.setReg r { t.reg r with prod := some p }
def Thread.val (t : Thread) (r : GReg) : Word := (t.reg r).val
def Thread.pois (t : Thread) (r : GReg) : Bool := (t.reg r).poison
def Thread.empties (t : Thread) (rs : List GReg) : List GReg := rs.filter fun r => !(t.reg r).full
def Thread.poisoned (t : Thread) (rs : List GReg) : List GReg := rs.filter t.pois

/-- The lowest register number of a list. -/
def lowest : List GReg → Option GReg
  | [] => none
  | r :: rs => match lowest rs with
    | none => some r
    | some q => some (if q < r then q else r)

/-! ### Memory -/

def memGet : List Host.Cell → Nat → Byte
  | [], _ => Config.unwrittenByte
  | (a, b) :: m, k => if k = a then b else if k < a then Config.unwrittenByte else memGet m k

def memSet : List Host.Cell → Nat → Byte → List Host.Cell
  | [], k, b => if b = Config.unwrittenByte then [] else [(k, b)]
  | (a, x) :: m, k, b =>
    if k < a then (if b = Config.unwrittenByte then (a, x) :: m else (k, b) :: (a, x) :: m)
    else if k = a then (if b = Config.unwrittenByte then m else (k, b) :: m)
    else (a, x) :: memSet m k b

/-- Every entry lies at or above a bound, addresses rise strictly and no entry equals what an unlisted address reads as. -/
def memWfFrom : Nat → List Host.Cell → Bool
  | _, [] => true
  | k, (a, b) :: m => k ≤ a && b != Config.unwrittenByte && memWfFrom (a + 1) m

/-- The canonical form of memory. -/
def Memory.wf (m : List Host.Cell) : Bool := memWfFrom 0 m

def State.byte (s : State) (a : Nat) : Byte := memGet s.mem a

def memRead (m : List Host.Cell) (a : Nat) : Nat → List Byte
  | 0 => []
  | n + 1 => memGet m a :: memRead m (a + 1) n

def memWrite (m : List Host.Cell) (a : Nat) : List Byte → List Host.Cell
  | [] => m
  | b :: bs => memWrite (memSet m a b) (a + 1) bs

/-- Little-endian value of bytes (R6). -/
def leNat : List Byte → Nat
  | [] => 0
  | b :: bs => b.toNat + 256 * leNat bs

def leBytes (v : Nat) : Nat → List Byte
  | 0 => []
  | n + 1 => BitVec.ofNat 8 v :: leBytes (v / 256) n

/-- The base of a control register that holds [47:k] of an address and its log2 size in [4:0]. -/
def baseOf (v : Word) (k : Nat) : Nat := v.toNat % 2 ^ 48 / 2 ^ k * 2 ^ k

def inSram (pa : Nat) : Bool := Config.sramBase ≤ pa && pa < Config.sramBase + 2 ^ 32
def inHbm (pa : Nat) : Bool := Config.hbmBase ≤ pa && pa < Config.hbmEnd
/-- The tile whose slice holds an SRAM address, and its bank (R98, R99). -/
def paTile (pa : Nat) : Nat := (pa - Config.sramBase) / 2 ^ 21
def paBank (pa : Nat) : Nat := pa / 64 % 16
def State.sramOn (s : State) (pa : Nat) : Bool := inSram pa && s.tileOn (paTile pa)
/-- Populated memory (R97). -/
def State.populated (s : State) (pa : Nat) : Bool := s.sramOn pa || inHbm pa

/-- The poison granule of an address: 8 bytes in SRAM, 32 in HBM (R113, R252). -/
def unitSize (pa : Nat) : Nat := if inSram pa then 8 else 32
def unitOf (pa : Nat) : Nat := pa / unitSize pa * unitSize pa
def State.isPoisoned (s : State) (pa : Nat) : Bool := s.poison.contains (unitOf pa)

/-- The unit addresses met by n bytes at an address. -/
def unitsOf (pa n : Nat) : List Nat :=
  if n = 0 then [] else
    let u := unitSize pa
    (List.range ((pa + n - 1) / u - pa / u + 1)).map fun k => (pa / u + k) * u

/-! ### Error log (R264 to R267) -/

/-- Puts an element behind those whose key is not greater. -/
def insertBy {α : Type} (key : α → Nat) (x : α) : List α → List α
  | [] => [x]
  | y :: r => if key x < key y then x :: y :: r else y :: insertBy key x r

/-- Puts an element in its place among the last n of a list. -/
def enterLast {α : Type} (key : α → Nat) (n : Nat) (x : α) (l : List α) : List α :=
  l.take (l.length - n) ++ insertBy key x (l.drop (l.length - n))

/-- Gives the elements of a list that satisfy p new values, in order. -/
def reassign {α β : Type} (p : α → Bool) (put : α → β → α) : List α → List β → List α
  | [], _ => []
  | x :: r, vs => if p x then (match vs with | v :: w => put x v :: reassign p put r w | [] => x :: r) else x :: reassign p put r vs

/-- Fields of an error record: cycle, type, place in the order of a cycle, seq and count (R264, R267). -/
def recStamp (r : BitVec 256) : Nat := (r.extractLsb' 192 64).toNat
def recType (r : BitVec 256) : Nat := (r.extractLsb' 44 8).toNat
def recKey (r : BitVec 256) : Nat := (r.extractLsb' 28 16).toNat * 256 + recType r
def recSeq (r : BitVec 256) : BitVec 28 := r.extractLsb' 0 28
def recCount (r : BitVec 256) : BitVec 32 := r.extractLsb' 160 32
def setSeq (r : BitVec 256) (q : BitVec 28) : BitVec 256 := r.extractLsb' 28 228 ++ q
def setCount (r : BitVec 256) (c : BitVec 32) : BitVec 256 := r.extractLsb' 192 64 ++ c ++ r.extractLsb' 0 160

/-- Enters a record behind those of earlier cycles; those of its cycle stand in the order of unit and type, and their numbers and counts follow
that order (R267). -/
def logEnter (log : List (BitVec 256)) (r : BitVec 256) : List (BitVec 256) :=
  let now := (log.reverse.takeWhile fun x => recStamp x == recStamp r).reverse
  let l := log.take (log.length - now.length)
  let l1 := insertBy recKey r now
  let l2 := reassign (fun x => recType x == recType r) setCount l1 ((now.filter fun x => recType x == recType r).map recCount ++ [recCount r])
  l ++ reassign (fun _ => true) setSeq l2 (now.map recSeq ++ [recSeq r])

/-- The counters and log of a die after one error event of a cycle: type, unit, address and syndrome. -/
def Die.logOne (d : Die) (cycle : Nat) (ev : Nat × BitVec 16 × BitVec 48 × BitVec 60) : Die :=
  let c := Tab.get (0 : BitVec 32) d.counts ev.1
  let c' := if c = BitVec.allOnes 32 then c else c + 1
  let d1 := { d with counts := Tab.put d.counts ev.1 c', seq := d.seq + 1 }
  let r : BitVec 256 := BitVec.ofNat 64 cycle ++ c' ++ ev.2.2.2 ++ ev.2.2.1 ++ BitVec.ofNat 8 ev.1 ++ ev.2.1 ++ d.seq
  if d.log.length < 256 then { d1 with log := logEnter d.log r }
  else { d1 with log := (logEnter d.log r).take 256, ovf := true, lost := if d.lost = BitVec.allOnes 16 then d.lost else d.lost + 1 }

/-- The log and counters before the events of a cycle, and those events so far. -/
def Die.loggedAt (d : Die) (cycle : Nat) : Logged :=
  if d.now.cycle = cycle && !d.now.events.isEmpty then d.now else ⟨cycle, d.log, d.seq, d.ovf, d.lost, d.counts, []⟩

/-- The die as it stood before the error events of a cycle. -/
def Die.before (d : Die) (l : Logged) : Die := { d with log := l.log, seq := l.seq, ovf := l.ovf, lost := l.lost, counts := l.counts }

/-- A WRCTL to a register of the log or of a counter is applied before the error events of its cycle (R265, R267, R339). -/
def Die.rewrite (d : Die) (cycle : Nat) (f : Die → Die) : Die :=
  let l := d.loggedAt cycle
  let d1 := f (d.before l)
  let d2 := l.events.foldl (fun x e => x.logOne cycle e) d1
  { d2 with now := ⟨cycle, d1.log, d1.seq, d1.ovf, d1.lost, d1.counts, l.events⟩ }

/-- An error event of this cycle. -/
def State.logError (s : State) (die ty : Nat) (unit : BitVec 16) (addr : BitVec 48) (syn : BitVec 60) : State :=
  let d := s.die die
  let l := d.loggedAt s.cycle
  s.setDie die { d.logOne s.cycle (ty, unit, addr, syn) with now := { l with events := l.events ++ [(ty, unit, addr, syn)] } }

/-- The unit field of the log: kind and index. -/
def logUnit (kind index : Nat) : BitVec 16 := BitVec.ofNat 16 (kind * 8192 + index)

/-! ### System-core interrupts (R278, R279) -/

/-- Place of an interrupt record among those of its cycle: by tile, then kind (R279). -/
def irqKey (r : BitVec 128) : Nat := (r.extractLsb' 45 11).toNat * 256 + (r.extractLsb' 56 8).toNat
def irqSeq (r : BitVec 128) : BitVec 32 := r.extractLsb' 0 32

/-- How many of the held records were pushed in this cycle. -/
def Irq.recent (q : Irq) (cycle : Nat) : Nat := if q.now.1 = cycle then min q.now.2 q.held.length else 0

/-- Enters an interrupt record among those held; those of a cycle stand in tile and kind order and are numbered in it (R279). -/
def Irq.enter (q : Irq) (cycle : Nat) (r : BitVec 128) : List (BitVec 128) :=
  let n := q.recent cycle
  let l := q.held.drop (q.held.length - n)
  q.held.take (q.held.length - n) ++
    reassign (fun _ => true) (fun x k => x.extractLsb' 32 96 ++ k) (insertBy irqKey r l) (l.map irqSeq ++ [irqSeq r])

/-- The records lost in a cycle. -/
def Irq.lostAt (q : Irq) (cycle : Nat) : Nat := if q.lostNow.1 = cycle then q.lostNow.2 else 0

/-- A record for the system cores: one that finds the buffer full is dropped, of those of its cycle the last in their order (R279). -/
def State.irqPush (s : State) (kind tile : Nat) (ctx : BitVec 6) (detail : Word) : State :=
  let q := s.irq
  let r : BitVec 128 := detail ++ BitVec.ofNat 8 kind ++ BitVec.ofNat 11 tile ++ ctx ++ (0 : BitVec 7) ++ q.seq
  let q1 := { q with held := (q.enter s.cycle r).take 256, seq := q.seq + 1 }
  if q.held.length < 256 then { s with irq := { q1 with now := (s.cycle, q.recent s.cycle + 1) } }
  else { s with irq := { q1 with
    ovf := true, lost := if q.lost = BitVec.allOnes 15 then q.lost else q.lost + 1, lostNow := (s.cycle, q.lostAt s.cycle + 1) } }

/-! ### Reads and writes of memory -/

/-- The errors of a controller counted in a cycle, with some more (R115). -/
def Die.errBy (d : Die) (cycle corr uncorr : Nat) : Nat × Nat × Nat :=
  if d.errNow.1 = cycle then (cycle, d.errNow.2.1 + corr, d.errNow.2.2 + uncorr) else (cycle, corr, uncorr)

/-- A code word that has gone bad shows itself at a read of its unit (R252, R113); a poisoned unit of HBM is reported no more. -/
def State.showFlaw (s : State) (f : Flaw) : State :=
  match f with
  | .sramCe u bit => s.logError (dieOf (paTile u)) 1 (logUnit 1 (paTile u)) (BitVec.ofNat 48 u) (BitVec.ofNat 60 (bit % 128 * 16 + paBank u))
  | .sramUe u syn => { s.logError (dieOf (paTile u)) 2 (logUnit 1 (paTile u)) (BitVec.ofNat 48 u) (BitVec.ofNat 60 (syn.toNat * 16 + paBank u)) with
      poison := setAdd s.poison u }
  | .hbmCe u b => if s.poison.contains u then s else
    let stack := (u - Config.hbmBase) / 0xC00000000
    let d := s.die (stack / 2)
    let d1 := if d.corr = BitVec.allOnes 40 then { d with covf := true } else { d with corr := d.corr + 1, covf := d.covf || d.corr + 1 == BitVec.allOnes 40 }
    let s1 := s.setDie (stack / 2) { d1 with scrubs := d1.scrubs ++ [u], errNow := d1.errBy s.cycle 1 0 }
    s1.logError (stack / 2) 3 (logUnit 3 (stack % 2)) (BitVec.ofNat 48 u) (BitVec.ofNat 60 (b % 64 * 8 + stack))
  | .hbmUe u syn => if s.poison.contains u then s else
    let stack := (u - Config.hbmBase) / 0xC00000000
    let d := s.die (stack / 2)
    let d1 := if d.uncorr = BitVec.allOnes 20 then { d with uovf := true } else { d with uncorr := d.uncorr + 1, uovf := d.uovf || d.uncorr + 1 == BitVec.allOnes 20 }
    let s1 := { s.setDie (stack / 2) { d1 with errNow := d1.errBy s.cycle 0 1 } with poison := setAdd s.poison u }
    s1.logError (stack / 2) 4 (logUnit 3 (stack % 2)) (BitVec.ofNat 48 u) (BitVec.ofNat 60 (syn.toNat * 8 + stack))
  | .bridgeLost .. | .stateUe .. | .saveWrite _ => s

def Flaw.at (f : Flaw) (u : Nat) : Bool := match f with
  | .sramCe v _ | .sramUe v _ | .hbmCe v _ | .hbmUe v _ => v == u
  | .bridgeLost .. | .stateUe .. | .saveWrite _ => false

def Flaw.corrected : Flaw → Bool
  | .sramCe .. | .hbmCe .. => true
  | _ => false

/-- Reading a unit finds what has gone bad in it, corrected errors first (R267). -/
def State.touch (s : State) (u : Nat) : State :=
  match s.flaws.filter (·.at u) with
  | [] => s
  | fs => ((fs.filter Flaw.corrected) ++ fs.filter fun f => !f.corrected).foldl State.showFlaw { s with flaws := s.flaws.filter fun f => !f.at u }

def State.touchAll (s : State) (us : List Nat) : State := us.foldl State.touch s

/-- Reads n bytes: the state after what the reads find, the bytes, and whether any unit is poisoned. -/
def State.readBytes (s : State) (pa n : Nat) : State × List Byte × Bool :=
  let us := unitsOf pa n
  let s1 := s.touchAll us
  (s1, memRead s1.mem pa n, us.any s1.poison.contains)

/-- A write of bytes to a unit renews its code word when it covers the unit. -/
def coversUnit (pa n u : Nat) : Bool := pa ≤ u && u + unitSize u ≤ pa + n

/-- Units have new code words: they are sound, whatever they held. -/
def State.renew (s : State) (us : List Nat) : State :=
  { s with poison := us.foldl setDel s.poison, flaws := s.flaws.filter fun f => !us.any f.at }

/-- A notification of value v to a context whose doorbell is the unit (R93). -/
def Context.notified (c : Context) (v : BitVec 32) : Context :=
  let d := (v - c.target).toNat
  if 1 ≤ d && d < 2 ^ 31 then { c with target := v } else c

def State.notify (s : State) (u : Nat) : State :=
  if inSram u then
    { s with ctxs := s.ctxs.map fun (k, c) =>
        if c.bell.getLsbD 0 && baseOf c.bell 3 == u then (k, c.notified (BitVec.ofNat 32 (leNat (memRead s.mem u 4)))) else (k, c) }
  else s

/-- The bytes of a unit of 8 that a write of n bytes covers. -/
def coverMask (pa n unit : Nat) : BitVec 8 :=
  (List.range 8).foldl (fun m j => if pa ≤ unit + j && unit + j < pa + n then m ||| BitVec.ofNat 8 (2 ^ j) else m) 0

/-- The units of 8 bytes that a write of n bytes meets, with the bytes it covers. -/
def coveredUnits (pa n : Nat) : List (Nat × BitVec 8) :=
  if n = 0 then [] else (List.range ((pa + n - 1) / 8 - pa / 8 + 1)).map fun k => ((pa / 8 + k) * 8, coverMask pa n ((pa / 8 + k) * 8))

/-- Keeps what the units of a write held, while any thread stands that may fetch them as they were (R56). -/
def State.keepPast (s : State) (us : List (Nat × BitVec 8)) : State :=
  if us.isEmpty || s.tiles.all (fun p => p.2.threads.isEmpty) then s
  else { s.tickSerial with past := s.past ++ us.map fun u => ⟨s.serial, u.1, memRead s.mem u.1 8, u.2⟩ }

/-- Writes bytes at a physical address as one store or engine write: a unit covered in part is read and merged, a unit covered whole has a new
code word; then the bytes, the poison of each unit, and the doorbells of SRAM units (R93, R113, R252). -/
def State.writeBytes (s : State) (pa : Nat) (bs : List Byte) (poison : Bool) : State :=
  let us := unitsOf pa bs.length
  let full := us.filter (coversUnit pa bs.length)
  let s := (s.touchAll (us.filter fun u => !coversUnit pa bs.length u)).keepPast (coveredUnits pa bs.length)
  let s1 := { s with
    mem := memWrite s.mem pa bs,
    poison := if poison then us.foldl setAdd s.poison else full.foldl setDel s.poison,
    flaws := s.flaws.filter fun f => !full.any f.at,
    dies := if s.dies.any (fun d => !d.2.scrubs.isEmpty) then s.dies.map fun (k, d) => (k, { d with scrubs := d.scrubs.filter fun u => !us.contains u }) else s.dies }
  us.foldl State.notify s1

/-! ### Suspension (R178, R234, R257, R258) -/

/-- A context is suspended. -/
def CtxState.suspended : CtxState → Bool
  | .stopping | .stalled | .saved => true
  | .free | .live | .lost => false

/-- The context holds nothing and accepts no work (R257). -/
def CtxState.dead : CtxState → Bool
  | .free | .lost => true
  | .live | .stopping | .stalled | .saved => false

/-- The vector instructions (R54). -/
def Instr.isVector (i : Instr) : Bool := match i with
  | .vadd .. | .vsub .. | .vmul .. | .vfma .. | .vmin .. | .vmax .. | .vminm .. | .vmaxm .. | .vabs .. | .vneg .. | .vcmp .. | .vsel ..
  | .vexp2 .. | .vlog2 .. | .vrcp .. | .vrsq .. | .vtanh .. | .vcvt .. | .vqnt .. | .vdot .. | .vred .. | .vbc .. | .vld .. | .vst ..
  | .vmov .. | .vscl .. | .viadd .. | .vand .. | .vor .. | .vxor .. | .vshl .. | .vshr .. => true
  | _ => false

/-- A vector instruction that reads or writes a row of SRAM (R101). -/
def Instr.atBanks (i : Instr) : Bool := match i with
  | .vld .. | .vst .. => true
  | _ => false

/-- The thread waits in a vector instruction that has issued: for its turn, for its tiles, or for its stores (R177, R184, R334). -/
def Thread.inVector (t : Thread) : Bool := match t.status with
  | .blocked (.tail _) _ _ => true
  | .blocked (.tiles _) _ _ | .blocked .drained _ _ => (t.instr.map Instr.isVector).getD false
  | _ => false

/-- The context lets the thread issue: it is not suspended, or it is stopping and the thread issues in the cycle of the stop, holds an innings, waits in a
TLBINV, or waits in a vector instruction, which runs to its end (R258, R263, R334). -/
def State.mayRun (s : State) (tile slot : Nat) (t : Thread) : Bool :=
  match (s.ctx t.ctx).state with
  | .free | .live => true
  | .stopping =>
    (s.ctx t.ctx).stopAt == some s.cycle ||
    (match (s.cluster (clusterOf tile)).innings with
     | some l => l.tile == tile && l.slot == slot && l.inst == t.inst
     | none => false) || t.inVector ||
    (match t.status with
     | .blocked (.tlbinv ..) _ _ => true
     | _ => false)
  | _ => false

/-! ### Traps (R243 to R247) -/

namespace Cause
def illegal : BitVec 8 := 0x01
def priv : BitVec 8 := 0x02
def align : BitVec 8 := 0x03
def page : BitVec 8 := 0x04
def prot : BitVec 8 := 0x05
def emptyRead : BitVec 8 := 0x06
def loopBound : BitVec 8 := 0x07
def noLease : BitVec 8 := 0x08
def noOwn : BitVec 8 := 0x09
def chainOpen : BitVec 8 := 0x0A
def brokenHandle : BitVec 8 := 0x0B
def malformedHandle : BitVec 8 := 0x0C
def window : BitVec 8 := 0x0D
def poison : BitVec 8 := 0x0E
def storeLost : BitVec 8 := 0x0F
def replayDiverge : BitVec 8 := 0x10
def excThresh : BitVec 8 := 0x11
def soft : BitVec 8 := 0x12
end Cause

/-- The PC of the LOOP or LOOPN of the innermost open loop, or zero (R245). -/
def Thread.loopPc (t : Thread) : Pc := match t.loops with
  | [] => 0
  | e :: _ => e.pc

def isFirmware (slot : Nat) : Bool := 248 ≤ slot

/-- The 32 bytes of a trap record (R245). -/
def trapRecord (tile slot : Nat) (t : Thread) (i : TrapInfo) : BitVec 256 :=
  (0 : BitVec 16) ++ i.loop ++ i.value ++ (0 : BitVec 16) ++ i.pc ++ (0 : BitVec 8) ++ BitVec.ofNat 4 ((i.lost.length + 1) / 2)
    ++ BitVec.ofNat 11 tile ++ t.inst ++ BitVec.ofNat 8 slot ++ t.ctx ++ (0 : BitVec 1) ++ i.kind ++ (0 : BitVec 7)
    ++ BitVec.ofBool (i.cause == Cause.storeLost) ++ i.cause

def lostBytes (l : LostStore) : List Byte :=
  leBytes (l.mask.toNat * 2 ^ 56 + l.unit) 8 ++ leBytes l.data.toNat 8

/-- The records of a trap, as 32-byte pieces. -/
def trapPieces (tile slot : Nat) (t : Thread) (i : TrapInfo) : List (List Byte) :=
  leBytes (trapRecord tile slot t i).toNat 32 :: pairs i.lost
where
  pairs : List LostStore → List (List Byte)
    | [] => []
    | [a] => [lostBytes a ++ List.replicate 16 0]
    | a :: b :: r => (lostBytes a ++ lostBytes b) :: pairs r

/-- The trap ring of a context has room for so many pieces (R246). -/
def State.trapRoom (s : State) (ctx : BitVec 6) (k : Nat) : Bool :=
  let c := s.ctx ctx
  s.populated (baseOf c.trapRing 5) && (c.trapProd - c.trapCons).toNat + k ≤ 2 ^ (c.trapRing.toNat % 32)

/-- Writes pieces of one size into a ring in memory from record number k. -/
def State.ringPut (s : State) (base size entries : Nat) : Nat → List (List Byte) → State
  | _, [] => s
  | k, p :: ps => (s.writeBytes (base + k % entries * size) p false).ringPut base size entries (k + 1) ps

/-- Writes a trap record of a tile, and wakes slot 254 or interrupts a system core (R246). -/
def State.putRecord (s : State) (tile : Nat) (ctx : BitVec 6) (firmware : Bool) (pieces : List (List Byte)) : State :=
  let c := s.ctx ctx
  let s1 := s.ringPut (baseOf c.trapRing 5) 32 (2 ^ (c.trapRing.toNat % 32)) c.trapProd.toNat pieces
  let s2 := s1.setCtx ctx { s1.ctx ctx with trapProd := c.trapProd + BitVec.ofNat 64 pieces.length }
  if firmware then s2.irqPush 5 tile ctx (c.trapProd + BitVec.ofNat 64 pieces.length)
  else match s2.thread? tile 254 with
    | some f => s2.setThread tile 254 { f with latch := true }
    | none => s2

/-- Writes the record of a stopped thread if the context's trap ring has room (R246). -/
def State.flushTrap (s : State) (tile slot : Nat) : State :=
  match s.thread? tile slot with
  | some t => match t.status with
    | .stopped i =>
      if !i.written && s.trapRoom t.ctx (trapPieces tile slot t i).length then
        (s.setThread tile slot { t with status := .stopped { i with written := true } }).putRecord tile t.ctx (isFirmware slot) (trapPieces tile slot t i)
      else s
    | _ => s
  | none => s

/-- A thread leaves the state of a trap: a record that still waits for room stays held in the sequencer (R246). -/
def State.keepRecord (s : State) (tile slot : Nat) (t : Thread) : State :=
  match t.status with
  | .stopped i => if i.written then s else
      s.setTile tile { s.tile tile with records := (s.tile tile).records ++ [(t.ctx, isFirmware slot, trapPieces tile slot t i)] }
  | _ => s

/-- Writes the records that a tile holds for a context, as far as there is room (R246). -/
def State.flushRecords (s : State) (tile : Nat) (ctx : BitVec 6) : List (BitVec 6 × Bool × List (List Byte)) → State
  | [] => s
  | r :: rest =>
    if r.1 = ctx && s.trapRoom ctx r.2.2.length then
      ((s.setTile tile { s.tile tile with records := (s.tile tile).records.erase r }).putRecord tile ctx r.2.1 r.2.2).flushRecords tile ctx rest
    else s.flushRecords tile ctx rest

/-- A contender leaves the sites at which it waits: its instruction is given up, or will be executed again (R241). -/
def State.leaveSites (s : State) (ctx : BitVec 6) (sid : BitVec 48) (tag : BitVec 16) : State :=
  let c := s.ctx ctx
  let there (h : Contender) : Bool := h.sid == sid && h.tag == tag
  if c.sites.any (fun x => x.held.any there) then
    s.setCtx ctx { c with sites := c.sites.map fun x =>
      let held := x.held.filter fun h => !there h
      { x with held, since := if held.isEmpty then none else x.since, room := if x.room = some (sid, tag) then none else x.room } }
  else s

/-- Takes a trap: the thread stops with its information and the record goes to the ring or is held (R243, R246). Its outstanding producers stand
(R250). -/
def State.stopFor (s : State) (tile slot : Nat) (t : Thread) (i : TrapInfo) : State :=
  ((match t.status with
    | .blocked .. => s.leaveSites t.ctx t.sid (BitVec.ofNat 16 t.icount)
    | _ => s).setThread tile slot { t with status := .stopped i, age := 0 }).flushTrap tile slot

/-- A trap of before kind at the instruction at PC: no effect, and restart there or at the next instruction (R243). -/
def Thread.before (t : Thread) (size : Nat) (cause : BitVec 8) (value : Word) : TrapInfo :=
  { cause, kind := 0, value, pc := t.pc, loop := t.loopPc, resume := t.pc, skip := t.pc + BitVec.ofNat 48 size, popLoop := false,
    lost := [], written := false }

/-- The current thread takes a trap of before kind at an instruction. -/
def trapBefore (s : State) (t : Thread) (i : Instr) (cause : BitVec 8) (value : Word) : Out :=
  .next (s.stopFor s.cur.1 s.cur.2 t (t.before i.size cause value))

/-- The value of ILLEGAL and PRIV: the first 64 bits of the instruction (R34). -/
def instrValue (i : Instr) : Word := firstBits (encodeNat i)

/-! ### Blocking and completion (R60, R67) -/

/-- Blocks the thread at the instruction at PC; a thread that blocks again for the same instruction keeps its place and its issue cycle,
which begin once its registers are full. -/
def State.blockAt (s : State) (tile slot : Nat) (t : Thread) (w : Wait) : State :=
  match t.status with
  | .blocked (.regs _) _ _ => (s.setThread tile slot { t with status := .blocked w s.serial s.cycle, age := 0 }).tickSerial
  | .blocked _ n c => s.setThread tile slot { t with status := .blocked w n c, age := 0 }
  | _ => (s.setThread tile slot { t with status := .blocked w s.serial s.cycle, age := 0 }).tickSerial

def block (s : State) (t : Thread) (w : Wait) : Out := .next (s.blockAt s.cur.1 s.cur.2 t w)

/-- What the end check of R67 decides. -/
inductive LoopOut where
  | fine
  | bound (trips : Nat) (e : LoopEntry)
  | wait (gc : GReg)
  | empty (e : LoopEntry)
  | poisoned (e : LoopEntry)
  deriving DecidableEq, Repr

/-- The end check on the innermost entry (R67): the thread stands at the PC after the end instruction. -/
def Thread.endCheck (t : Thread) (e : LoopEntry) (rest : List LoopEntry) : Thread × LoopOut :=
  let trips := e.trips + 1
  let r := t.reg e.gc.reg
  if e.loopn && !r.full then
    if e.gc.trap then ({ t with loopPending := true }, .empty e) else ({ t with loopPending := true }, .wait e.gc.reg)
  else if e.loopn && r.poison then ({ t with loopPending := true }, .poisoned e)
  else
    let again := if e.loopn then r.val != 0 else trips < e.n
    if again && trips == e.max then
      ({ t with loops := { e with trips } :: rest, loopPending := false }, .bound trips e)
    else if again then ({ t with pc := e.start, loops := { e with trips } :: rest, loopPending := false }, .fine)
    else ({ t with loops := rest, loopPending := false }, .fine)

/-- Sequential completion: the PC moves past the instruction, and the end check is made when it stood at the end of the innermost loop. -/
def Thread.advance (t : Thread) (size : Nat) : Thread × LoopOut :=
  let t1 := { t with pc := t.pc + BitVec.ofNat 48 size }
  match t1.loops with
  | [] => (t1, .fine)
  | e :: rest => if t1.pc = e.endNext then t1.endCheck e rest else (t1, .fine)

/-- The trap of an end check; ERET leaves the loop (R67, R249). -/
def loopTrap (trips : Nat) (pc endNext : Pc) : TrapInfo :=
  { cause := Cause.loopBound, kind := 1, value := BitVec.ofNat 64 trips, pc, loop := pc, resume := endNext, skip := endNext,
    popLoop := true, lost := [], written := false }

/-- The trap of a LOOPN test on an empty or poisoned register: it names the LOOPN, and ERET repeats the test (R67). -/
def testTrap (t : Thread) (e : LoopEntry) (cause : BitVec 8) : TrapInfo :=
  { cause, kind := 0, value := e.gc.reg.zeroExtend 64, pc := e.pc, loop := t.loopPc, resume := t.pc, skip := t.pc, popLoop := false,
    lost := [], written := false }

/-- The trap of after kind that a thread owes, once the end check has chosen the PC it stands at (R67, R243). -/
def Owed.trap (o : Owed) (t : Thread) : TrapInfo :=
  { cause := o.cause, kind := 1, value := o.value, pc := o.pc, loop := t.loopPc, resume := t.pc, skip := t.pc, popLoop := false, lost := [],
    written := false }

/-- Takes the trap that a thread owes, if any. -/
def State.settleOwed (s : State) (tile slot : Nat) (t : Thread) : State := match t.owed with
  | none => s.setThread tile slot t
  | some o => s.stopFor tile slot { t with owed := none } (o.trap t)

/-- Carries out what the end check decided. An owed trap comes first: a LOOP_BOUND is then held, with the start as the restart point (R67). -/
def State.afterCheck (s : State) (tile slot : Nat) (t : Thread) : LoopOut → State
  | .fine => s.settleOwed tile slot t
  | .bound trips e => if t.owed.isNone then s.stopFor tile slot t (loopTrap trips e.pc e.endNext)
    else s.settleOwed tile slot { t with pc := e.start, held := t.held ++ [.loopBound trips e.pc e.start e.endNext] }
  | .wait gc => s.blockAt tile slot t (.loopTest gc)
  | .empty e => s.stopFor tile slot t (testTrap t e Cause.emptyRead)
  | .poisoned e => s.stopFor tile slot t (testTrap t e Cause.poison)

/-- The thread after its instruction has completed in sequence: counted, ready, PC moved (R57, R67, R237). -/
def Thread.counted (t : Thread) : Thread := { t with icount := t.icount + 1, status := .ready, instr := none }

/-- Completion in sequence of the instruction of a thread. -/
def State.retireAt (s : State) (tile slot : Nat) (t : Thread) (size : Nat) : State :=
  let r := t.counted.advance size
  s.afterCheck tile slot r.1 r.2

/-- The current instruction completes: `t` is the thread with its results written. -/
def done (s : State) (t : Thread) (i : Instr) : Out := .next (s.retireAt s.cur.1 s.cur.2 t i.size)

/-- The instruction of a size of the current thread completes. -/
def ended (s : State) (t : Thread) (size : Nat) : Out := .next (s.retireAt s.cur.1 s.cur.2 t size)

/-- The current instruction completes in a state that it has changed. -/
def finish (s : State) (i : Instr) (f : Thread → Thread) : Out :=
  match s.me with
  | some t => done s (f t) i
  | none => .refused .noThread

/-- The current instruction completes with a taken branch: no end check (R68). -/
def jumpTo (s : State) (t : Thread) (pc : Pc) : Out := .next (s.setMe { t.counted with pc := pc })

/-- Adds a held boundary event to a thread (R247). -/
def State.hold (s : State) (tile slot : Nat) (h : Held) : State :=
  match s.thread? tile slot with
  | some t => s.setThread tile slot { t with held := t.held ++ [h] }
  | none => s

/-- A trap of after kind (R243): the instruction completes, its end check is made first, and the chosen PC is the restart point; a LOOPN test
that waits or traps is finished before the trap is taken (R67). -/
def trapAfter (s : State) (t : Thread) (i : Instr) (cause : BitVec 8) (value : Word) : Out :=
  .next (s.retireAt s.cur.1 s.cur.2 { t with owed := some ⟨cause, value, t.pc⟩ } i.size)

/-! ### Held boundary events (R247) -/

def Held.rank : Held → Nat
  | .loopBound .. => 0
  | .storeLost _ => 1
  | .replayDiverge _ => 2
  | .chainOpen _ => 3
  | .excThresh _ => 4
  | .brokenHandle _ => 5

/-- The held event that comes first in the order of R247. -/
def firstHeld : List Held → Option Held
  | [] => none
  | h :: hs => match firstHeld hs with
    | none => some h
    | some k => some (if k.rank < h.rank then k else h)

/-- The trap of a held event at a thread's boundary. -/
def Held.trap (h : Held) (t : Thread) : TrapInfo :=
  let base (cause : BitVec 8) (value : Word) (lost : List LostStore) : TrapInfo :=
    { cause, kind := 2, value, pc := t.pc, loop := t.loopPc, resume := t.pc, skip := t.pc, popLoop := false, lost, written := false }
  match h with
  | .loopBound trips pc _ endNext => loopTrap trips pc endNext
  | .storeLost es => base Cause.storeLost (BitVec.ofNat 64 ((es.map (·.unit)).headD 0)) es
  | .replayDiverge v => base Cause.replayDiverge v []
  | .chainOpen v => base Cause.chainOpen v []
  | .excThresh v => base Cause.excThresh v []
  | .brokenHandle v => base Cause.brokenHandle v []

/-- Takes the first held event of a thread. -/
def State.takeHeld (s : State) (tile slot : Nat) (t : Thread) (h : Held) : State :=
  s.stopFor tile slot { t with held := t.held.erase h } (h.trap t)

/-! ### Issue checks (R34, R35, R70) -/

/-- Checks 2 and 3 of R34 and the destination rule of R70, before the entry's own checks: `blocks` are registers read without a field. -/
def issue (s : State) (i : Instr) (priv : Bool) (srcs : List Src) (blocks dests : List GReg) (k : Thread → Out) : Out :=
  match s.me with
  | none => .refused .noThread
  | some t =>
    if priv && !isFirmware s.cur.2 then trapBefore s t i Cause.priv (instrValue i)
    else match lowest (t.empties ((srcs.filter (·.trap)).map (·.reg))) with
      | some r => trapBefore s t i Cause.emptyRead (r.zeroExtend 64)
      | none => match t.empties (srcs.map (·.reg) ++ blocks ++ dests) with
        | [] => k t
        | e => block s t (.regs e)

/-- The POISON check of R253 on registers used as control. -/
def poisonCheck (s : State) (t : Thread) (i : Instr) (rs : List GReg) (k : Out) : Out :=
  match lowest (t.poisoned rs) with
  | some r => trapBefore s t i Cause.poison (r.zeroExtend 64)
  | none => k

/-! ### Counted events (R156 to R158) -/

namespace Class
def inv : Nat := 0
def dz : Nat := 1
def ovf : Nat := 2
def unf : Nat := 3
def sat : Nat := 4
def fmt : Nat := 5
def gth : Nat := 6
def psn : Nat := 7
end Class

/-- The counters of a tile and context after the window boundaries up to a cycle: windows begin at the multiples of win (R158). -/
def TileCtx.refresh (x : TileCtx) (cycle : Nat) : TileCtx :=
  if x.cleared / x.excWin.toNat < cycle / x.excWin.toNat then
    { x with cnt := List.replicate 8 0, fired := List.replicate 8 false, acted := List.replicate 8 false, cleared := cycle }
  else x

/-- One event of a class against the counters: the first of a window that leaves the count above the threshold sets fired and acts; a later one does
neither, also when software has cleared fired and the count in between: DESIGN CHOICE (R158, entry 55). The second part says whether it acts. -/
def TileCtx.countOne (x : TileCtx) (c : Nat) : TileCtx × Bool :=
  let n := x.cnt.getD c 0
  let n' := if n = BitVec.allOnes 32 then n else n + 1
  let fires := decide ((x.thresh.getD c 0) < n') && !(x.acted.getD c false)
  ({ x with cnt := x.cnt.set c n', fired := if fires then x.fired.set c true else x.fired, acted := if fires then x.acted.set c true else x.acted }, fires)

/-- The counters before the events of a cycle, and those events so far. -/
def TileCtx.countedAt (x : TileCtx) (cycle : Nat) : Counted := if x.now.cycle = cycle && !x.now.events.isEmpty then x.now else ⟨cycle, x.cnt, x.fired, x.acted, []⟩

/-- What a class does that goes over its threshold: an interrupt, or a held event of the issuing thread (R158). -/
def State.actOn (s : State) (w : Issuer) (c : Nat) : State :=
  if (s.tctx w.tile w.ctx).excIrq.getLsbD c then s.irqPush 1 w.tile w.ctx (BitVec.ofNat 64 c)
  else match s.thread? w.seat.1 w.seat.2.1 with
    | some t => if t.inst = w.seat.2.2 && t.ctx = w.ctx then
        s.setThread w.seat.1 w.seat.2.1 { t with held := t.held ++ [.excThresh (BitVec.ofNat 16 c ++ w.pc)] } else s
    | none => s

/-- One event of a class against the issuing thread's tile and context; what it does is done when its cycle is over, since a WRCTL of the cycle comes
before it. -/
def State.count1 (s : State) (w : Issuer) (c : Nat) : State :=
  let x := (s.tctx w.tile w.ctx).refresh s.cycle
  let l := x.countedAt s.cycle
  s.setTctx w.tile w.ctx { (x.countOne c).1 with now := { l with events := l.events ++ [(c, w)] } }

/-- Events counted in order, and those of them that act, in class order. -/
def TileCtx.counting (x : TileCtx) (events : List (Nat × Issuer)) : TileCtx × List (Nat × Issuer) :=
  events.foldl (fun a e => let r := a.1.countOne e.1; (r.1, if r.2 then insertBy (·.1) e a.2 else a.2)) (x, [])

/-- The counters as they stood before the events of a cycle. -/
def TileCtx.before (x : TileCtx) (l : Counted) : TileCtx := { x with cnt := l.cnt, fired := l.fired, acted := l.acted }

/-- The events of the cycle against a tile and context act. -/
def State.settleTile (s : State) (tile : Nat) (ctx : BitVec 6) : State :=
  let x := s.tctx tile ctx
  let s1 := s.setTctx tile ctx { x with now := Counted.none }
  ((x.before x.now).counting x.now.events).2.foldl (fun s e => s.actOn e.2 e.1) s1

/-- The cycle is over: its counted events act, by tile, context and class (R158). -/
def State.settleEvents (s : State) : State :=
  s.tiles.foldl (fun s p => p.2.regs.foldl (fun s q => if q.2.now.events.isEmpty then s else s.settleTile p.1 (BitVec.ofNat 6 q.1)) s) s

/-- The counted events of a context act before its cycle is over. -/
def State.settleCtx (s : State) (ctx : BitVec 6) : State :=
  s.tiles.foldl (fun s p => if (s.tctx p.1 ctx).now.events.isEmpty then s else s.settleTile p.1 ctx) s

/-- At most one event per class, in class order. -/
def State.countAll (s : State) (w : Issuer) (cs : List Nat) : State :=
  (List.range 8).foldl (fun s c => if cs.contains c then s.count1 w c else s) s

/-- The current thread as an issuer. -/
def State.who (s : State) (t : Thread) : Issuer := ⟨t.ctx, s.cur.1, s.cur.2, t.inst, t.pc, s.serial, s.cur.1, s.cur.2, t.inst⟩

/-- Counts events of the current instruction and gives the thread as it then stands. -/
def countMe (s : State) (t : Thread) (cs : List Nat) (k : State → Thread → Out) : Out :=
  let s1 := (s.setMe t).countAll (s.who t) cs
  match s1.me with
  | some t1 => k s1 t1
  | none => .refused .noThread

/-! ### Translation (R105 to R110) -/

/-- The result of a walk. -/
inductive Walk where
  | leaf (base size : Nat) (l : Leaf)
  | page
  | prot
  | poisoned
  deriving DecidableEq, Repr

/-- A leaf moved on by an offset within its page. -/
def Leaf.plus : Leaf → Nat → Leaf
  | .mem pa x w r, o => .mem (pa + o) x w r
  | .remote d n wo c x w r, o => .remote d n (wo + o) c x w r

/-- Index and leaf size of the levels 3, 2, 1, 0 (R105). -/
def levelIndex (va : Nat) : Nat → Nat
  | 0 => va / 2 ^ 16 % 32
  | 1 => va / 2 ^ 21 % 512
  | 2 => va / 2 ^ 30 % 512
  | _ => va / 2 ^ 39 % 512
def levelSize : Nat → Nat
  | 0 => 2 ^ 16
  | 1 => 2 ^ 21
  | 2 => 2 ^ 30
  | _ => 2 ^ 39

/-- What one page-table entry at a level says (R107): none for invalid or malformed. -/
def pteLeaf (e : Nat) (level va : Nat) : Option Walk :=
  let bit (k : Nat) : Bool := e.testBit k
  let size := levelSize level
  if e / 64 % 128 != 0 && bit 1 then none
  else if e / 8192 % 2 != 0 then none
  else if level == 3 then none
  else if bit 5 then
    let woff := e / 2 ^ 16 % 2 ^ 27 * 2 ^ 16
    let cls := e / 2 ^ 14 % 4
    if e / 64 % 256 != 0 || cls == 0 || woff % size != 0 then none
    else some (.leaf (va / size * size) size
      (.remote (BitVec.ofNat 11 (e / 2 ^ 53)) (BitVec.ofNat 10 (e / 2 ^ 43)) woff (BitVec.ofNat 2 cls) (bit 4) (bit 3) (bit 2)))
  else
    let pa := e / 2 ^ 16 % 2 ^ 32 * 2 ^ 16
    if e / 64 % 1024 != 0 || e / 2 ^ 48 != 0 || pa % size != 0 then none
    else some (.leaf (va / size * size) size (.mem pa (bit 4) (bit 3) (bit 2)))

/-- A table entry's next table, or none when it is malformed (R107). -/
def pteNext (e : Nat) : Option Nat :=
  if e / 2 ^ 48 != 0 || e / 64 % 64 != 0 || e / 4 % 16 != 0 then none else some (e / 2 ^ 12 % 2 ^ 36 * 2 ^ 12)

/-- The walk from a table at a level down, with what the walker holds of upper-level tables, and the entries it has read of them (R108, R110). What
is held of an entry is used while memory still says the same: a walk sees every store that has been performed in the tables. -/
def State.walk (s : State) (ctx : BitVec 6) (ws : List WalkEntry) (va : Nat) : Nat → Nat → State × Walk × List WalkEntry
  | level, table =>
    let a := table + 8 * levelIndex va level
    if !s.populated a then (s, .prot, [])
    else
      let held := ws.any fun w => w.ctx == ctx && w.pa == a && w.value == leNat (memRead s.mem a 8)
      let (s1, bs, bad) := if held then (s, memRead s.mem a 8, false) else s.readBytes a 8
      let e := leNat bs
      if bad then (s1, .poisoned, [])
      else if !e.testBit 0 then (s1, .page, [])
      else if e.testBit 1 then (s1, (pteLeaf e level va).getD .page, [])
      else match level with
        | 0 => (s1, .page, [])
        | l + 1 => match pteNext e with
          | none => (s1, .page, [])
          | some t =>
            let (s2, r, fs) := s1.walk ctx ws va l t
            (s2, r, if held then fs else ⟨ctx, va / levelSize (l + 1) * levelSize (l + 1), levelSize (l + 1), a, e⟩ :: fs)

/-- What the walker of a cluster holds. -/
def State.walker (s : State) (cl : Nat) : List WalkEntry := Tab.get [] s.walkers cl

/-- New entries of a walker of 64; the oldest make room (R110: replacement affects timing only). -/
def walkFill (fs ws : List WalkEntry) : List WalkEntry :=
  let l := ws.filter (fun w => !fs.any fun f => f.ctx == w.ctx && f.pa == w.pa) ++ fs
  l.drop (l.length - 64)

def tlbFind (ctx : BitVec 6) (va : Nat) (es : List TlbEntry) : Option TlbEntry :=
  es.find? fun e => e.ctx == ctx && e.base ≤ va && va < e.base + e.size

/-- A fill; the oldest entry makes room (R110: replacement affects timing only). -/
def tlbFill (cap : Nat) (e : TlbEntry) (es : List TlbEntry) : List TlbEntry :=
  if es.length < cap then es ++ [e] else es.drop 1 ++ [e]

/-- A translation: the leaf at the address and the TLB entry it came from, or the cause of a fault. -/
inductive Trans where
  | ok (l : Leaf) (e : TlbEntry)
  | bad (cause : BitVec 8)
  deriving DecidableEq, Repr

/-- Translates through a list of cached entries, with a walk by the walker of a cluster on a miss; the second part is the list after a fill, the last
whether a POISON event is to be counted. A walk that reads a poisoned entry leaves nothing in a cache (R108, R110). -/
def State.translateIn (s : State) (es : List TlbEntry) (cap cl : Nat) (ctx : BitVec 6) (va : Word) : State × List TlbEntry × Trans × Bool :=
  if 2 ^ 48 ≤ va.toNat then (s, es, .bad Cause.page, false)
  else match tlbFind ctx va.toNat es with
    | some e => (s, es, .ok (e.leaf.plus (va.toNat - e.base)) e, false)
    | none =>
      match s.walk ctx (s.walker cl) va.toNat 3 (baseOf (s.ctx ctx).ptroot 12) with
      | (s1, .poisoned, _) => (s1, es, .bad Cause.page, true)
      | (s1, r, fs) =>
        let s2 := if fs.isEmpty then s1 else { s1 with walkers := Tab.put s1.walkers cl (walkFill fs (s1.walker cl)) }
        match r with
        | .leaf base size l =>
          let e : TlbEntry := ⟨ctx, base, size, l, 0, false, s.serial⟩
          (s2, tlbFill cap e es, .ok (l.plus (va.toNat - base)) e, false)
        | .prot => (s2, es, .bad Cause.prot, false)
        | _ => (s2, es, .bad Cause.page, false)

/-- Translation through a tile's first-level TLB. -/
def State.translate (s : State) (w : Issuer) (va : Word) : State × Trans :=
  match s.translateIn (s.tile w.tile).tlb 512 (clusterOf w.tile) w.ctx va with
  | (s1, es, r, bad) =>
    let s2 := s1.setTile w.tile { s1.tile w.tile with tlb := es }
    (if bad then s2.count1 w Class.psn else s2, r)

/-- Base and size of the page through which a tile has just translated an address. -/
def State.pageAt (s : State) (tile : Nat) (ctx : BitVec 6) (va : Word) : Nat × Nat :=
  match tlbFind ctx va.toNat (s.tile tile).tlb with
  | some e => (e.base, e.size)
  | none => (0, 0)

/-- Kinds of local access, with what R109 requires of the leaf. -/
inductive Access3 where
  | read | write | both | fetch
  deriving DecidableEq, Repr

def Access3.allowed : Access3 → Bool → Bool → Bool → Bool
  | .read, _, _, r => r
  | .write, _, w, _ => w
  | .both, _, w, r => w && r
  | .fetch, x, _, _ => x

/-- Translation and permission of an access of a thread or engine to local memory (R109): the physical address or the cause.
`hbm` says whether HBM is allowed as a target. -/
def State.access (s : State) (w : Issuer) (k : Access3) (hbm : Bool) (va : Word) : State × Except (BitVec 8) Nat :=
  match s.translate w va with
  | (s1, .bad c) => (s1, .error c)
  | (s1, .ok (.remote ..) _) => (s1, .error Cause.prot)
  | (s1, .ok (.mem pa x wr r) _) =>
    if (s1.sramOn pa || (hbm && inHbm pa)) && k.allowed x wr r then (s1, .ok pa) else (s1, .error Cause.prot)

/-! ### Semaphores (R12, R79, R82) -/

/-- Signal(s, n) on a tile: the count saturates. -/
def Sem.signal (x : Sem) (n : Nat) : Sem := { x with count := BitVec.ofNat 24 (min (2 ^ 24 - 1) (x.count.toNat + n)) }
/-- SignalErr(s): the error flag and a saturating error count. -/
def Sem.signalErr (x : Sem) : Sem := { x with err := true, errcnt := if x.errcnt = 0x7F then x.errcnt else x.errcnt + 1 }

/-- A signal reaches a semaphore; an SSET of the same cycle wins over it (R82). -/
def State.signal (s : State) (t k n : Nat) : State :=
  if (s.sem t k).setAt = some s.cycle then s else s.setSem t k { (s.sem t k).signal n with changed := some s.cycle }
/-- DESIGN CHOICE (entry 1): an SSET of the same cycle and a SignalErr keep the order of their turns. -/
def State.signalErr (s : State) (t k : Nat) : State := s.setSem t k { (s.sem t k).signalErr with changed := some s.cycle }
/-- The changes of this cycle have not begun, so that a waiter's test sees the semaphore as the previous cycle has left it, with its signals and its
SSET; one waiter is served in a cycle (R81, R82). -/
def State.semReady (s : State) (t k : Nat) : Bool := (s.sem t k).changed != some s.cycle

/-- The restart records of a context lost in a cycle (R339). -/
def Context.rrLostAt (c : Context) (cycle : Nat) : Nat := if c.rrNow.1 = cycle then c.rrNow.2 else 0

/-! ### Event vector (R94, R336) -/

/-- The event bits set in a cycle, and those of them that were clear before. -/
def Context.eventsAt (x : Context) (cycle : Nat) : BitVec 256 × BitVec 256 := if x.evNow.1 = cycle then x.evNow.2 else (0, 0)

/-- Sets the bits of a mask: every thread of the context has its latch set when the mask is not empty. -/
def State.setEvents (s : State) (c : BitVec 6) (mask : BitVec 256) : State :=
  if mask = 0 then s else
    let x := s.ctx c
    let now := x.eventsAt s.cycle
    let s1 := s.setCtx c { x with evec := x.evec ||| mask, evNow := (s.cycle, now.1 ||| mask, now.2 ||| (mask &&& ~~~x.evec)) }
    { s1 with tiles := s1.tiles.map fun (k, x) =>
        (k, { x with threads := x.threads.map fun (j, t) => (j, if t.ctx = c then { t with latch := true } else t) }) }

/-- Clears bits of the event vector; within a cycle all clears apply first and then all sets, so that what was set in this cycle stays set, and counts as
set from clear (R91, R94). -/
def State.clearEvents (s : State) (c : BitVec 6) (mask : BitVec 256) : State :=
  let x := s.ctx c
  let now := x.eventsAt s.cycle
  s.setCtx c { x with evec := x.evec &&& (~~~mask ||| now.1), evNow := (s.cycle, now.1, now.2 ||| (now.1 &&& mask)) }

def eventBit (n : Nat) : BitVec 256 := BitVec.ofNat 256 (2 ^ n)

/-! ### Stores, bridge buffers and releases (R104, R118, R122, R361) -/

/-- The FIFO entries of a thread. -/
def State.fifoOf (s : State) (tile slot : Nat) : List FifoEntry := (s.tile tile).fifo.filter fun e => e.slot == slot
def State.bridgeOf (s : State) (tile slot : Nat) : List BridgeEntry := s.bridge.filter fun e => e.tile == tile && e.entry.slot == slot
/-- A remote access or message that releases and FENCE wait for: an HGET until its home has accepted it; an HTEST blocks its thread until it is
answered (R122, R124, R231, entry 21). -/
def Access.counted (a : Access) : Bool := match a.pkt.body with
  | .hget .. => !a.taken
  | .htest .. => false
  | _ => true
def State.accsOf (s : State) (tile slot : Nat) : List Access := (s.tile tile).accs.filter fun a => a.slot == slot && a.counted

/-- A release by a thread at a scope is made: nothing that R122 lists is pending. At .sys the copies of system cores are invalidated in the step that
performs a store (entry 54). -/
def State.released (s : State) (tile slot : Nat) (scope : Scope) : Bool :=
  match scope with
  | .die => (s.fifoOf tile slot).all fun e => dieOf (paTile e.unit) != dieOf tile
  | .dev => (s.fifoOf tile slot).isEmpty && (s.bridgeOf tile slot).isEmpty
  | .dom | .sys => (s.fifoOf tile slot).isEmpty && (s.bridgeOf tile slot).isEmpty && (s.accsOf tile slot).isEmpty

/-- Whether a thread was marked for STORE_LOST (R254). -/
def Held.isLost : Held → Bool
  | .storeLost _ => true
  | _ => false

/-- Holds the current instruction at issue until its release is made (R361). -/
def releaseFirst (s : State) (t : Thread) (scope : Scope) (k : Out) : Out :=
  if s.released s.cur.1 s.cur.2 scope then k else block s t (.release scope)

/-- The command's releases at .dev have been made: no older store of the thread is pending (R127). -/
def State.storesDone (s : State) (w : Issuer) : Bool :=
  !(s.fifoOf w.tile w.slot).any (fun e => e.number < w.after) &&
    !s.bridge.any (fun e => e.tile == w.tile && (e.entry.slot == w.slot || 256 ≤ e.entry.slot) && e.entry.number < w.after)

/-- A mask of n bytes from byte k of a unit. -/
def byteMask (k n : Nat) : BitVec 8 := BitVec.ofNat 8 ((2 ^ n - 1) * 2 ^ k)

/-- The bytes of a unit under a mask laid over what the unit holds. -/
def mergeUnit (m : List Host.Cell) (unit : Nat) (data : Word) (mask : BitVec 8) : List Host.Cell :=
  (List.range 8).foldl (fun m k => if mask.getLsbD k then memSet m (unit + k) (BitVec.ofNat 8 (data.toNat / 2 ^ (8 * k))) else m) m

/-- Performs a store at its home bank: a store of part of the unit reads and merges it (R116, R252, R93). -/
def State.perform (s : State) (unit : Nat) (data : Word) (mask : BitVec 8) (poison : Bool) : State :=
  let whole := mask == 0xFF
  let s := (if whole then s else s.touch unit).keepPast [(unit, mask)]
  let s1 := { s with
    mem := mergeUnit s.mem unit data mask,
    poison := if poison then setAdd s.poison unit else if whole then setDel s.poison unit else s.poison,
    flaws := if whole then s.flaws.filter fun f => !f.at unit else s.flaws }
  s1.notify unit

/-- A store takes a FIFO entry (R104). -/
def State.enqueue (s : State) (tile slot : Nat) (ctx : BitVec 6) (page : Nat × Nat) (pa : Nat) (data : Word) (size : Nat) (poison : Bool) (rel : Option Scope) : State :=
  let e : FifoEntry := ⟨s.serial, slot, ctx, page, pa / 8 * 8, BitVec.ofNat 64 (data.toNat % 2 ^ (8 * size) * 2 ^ (8 * (pa % 8))), byteMask (pa % 8) size, poison, rel, none⟩
  (s.setTile tile { s.tile tile with fifo := (s.tile tile).fifo ++ [e] }).tickSerial

/-- Threads of a tile blocked for a FIFO entry before a serial number, each of which may take one (R104). -/
def State.fifoWaiters (s : State) (tile : Nat) (since : Nat) : Nat :=
  ((s.tile tile).threads.filter fun (slot, t) => match t.status with
    | .blocked .fifo n _ => n < since && (s.fifoOf tile slot).length < 8
    | _ => false).length

/-- A thread may take a FIFO entry: its share is not full, and the free entries reach it in the order of issue (R58, R104). -/
def State.fifoRoom (s : State) (tile slot since : Nat) : Bool :=
  (s.fifoOf tile slot).length < 8 && (s.tile tile).fifo.length + s.fifoWaiters tile since < 32

/-- The serial number since which a thread has been blocked, or now. -/
def Thread.since (t : Thread) (s : State) : Nat := match t.status with
  | .blocked (.regs _) _ _ => s.serial
  | .blocked _ n _ => n
  | _ => s.serial

/-- The cycle in which the instruction at PC first issued. -/
def Thread.issued (t : Thread) (s : State) : Nat := match t.status with
  | .blocked (.regs _) _ _ => s.cycle
  | .blocked _ _ c => c
  | _ => s.cycle

/-- What forwarding gives a load of a thread from the FIFO (R104): a value, a wait, or the bank. A pending bridge entry to the unit makes every load
wait (R118); the bytes of a store of part of a poisoned unit come poisoned (R315). -/
inductive Forward where
  | bank
  | wait
  | value (v : Nat) (poison : Bool)
  deriving DecidableEq, Repr

def State.forward (s : State) (tile slot pa size : Nat) : Forward :=
  if s.bridge.any fun e => e.entry.unit == pa / 8 * 8 then .wait
  else match ((s.fifoOf tile slot).filter fun e => e.unit == pa / 8 * 8).getLast? with
  | none => .bank
  | some e =>
    let m := byteMask (pa % 8) size
    if e.mask &&& m = m then .value (e.data.toNat / 2 ^ (8 * (pa % 8)) % 2 ^ (8 * size)) (e.poison || (e.mask != 0xFF && s.poison.contains e.unit))
    else .wait

/-- No older entry of the thread to a unit is in the FIFO, and no bridge entry to it is pending (R104, R118). -/
def State.unitClear (s : State) (tile slot unit : Nat) : Bool :=
  !(s.fifoOf tile slot).any (fun e => e.unit == unit) && !s.bridge.any fun e => e.entry.unit == unit

/-! ### The slots of a bank (R101, R102) -/

/-- The number of the bank of an address. -/
def bankOf (pa : Nat) : Nat := paTile pa * 16 + paBank pa

/-- The class of the slot of a cycle (R101). -/
def slotClass (cycle : Nat) : SlotClass := match cycle % 8 with
  | 0 | 4 => .millstone
  | 1 | 5 => .tailrace
  | 2 => .sequencer
  | 3 | 7 => .flume
  | _ => .meshIn

/-- A bank has served an access in this cycle. -/
def State.slotUsed (s : State) (k : Nat) : Bool := Tab.get 0 s.slots k == s.cycle + 1
/-- The slot of this cycle is a class's and still free at a bank. -/
def State.slotFree (s : State) (c : SlotClass) (k : Nat) : Bool := slotClass s.cycle == c && !s.slotUsed k

/-- A read, which a bank of the own tile serves in its sequencer slot (R101, R102, R302). -/
def BankOp.isRead : BankOp → Bool
  | .load .. | .refill _ | .bread .. | .descriptor .. => true
  | .amo .. | .cas .. | .binit _ | .barr .. | .bexp _ => false

/-- The class of an operation of a thread of a tile at a bank: its own tile's reads are the sequencer's (R101). -/
def BankOp.slotClass (op : BankOp) (tile k : Nat) : SlotClass := if op.isRead && tile == k / 16 then .sequencer else .meshIn

/-- The class of a request at a bank (R101): the drains of the own tile's store FIFO are the sequencer's too. -/
def BankReq.slotClass (r : BankReq) (k : Nat) : SlotClass := match r with
  | .thread tile _ _ op .. => op.slotClass tile k
  | .store tile _ => if tile = k / 16 then .sequencer else .meshIn
  | .remote .. | .red _ => .meshIn

/-- A request that reaches the bank now is served at once: the slot is its class's and free, and no older request of the class waits. -/
def State.bankFree (s : State) (c : SlotClass) (k : Nat) : Bool := s.slotFree c k && (s.bank k).all fun r => r.slotClass k != c
def State.useSlot (s : State) (k : Nat) : State := { s with slots := Tab.put s.slots k (s.cycle + 1) }
/-- No other thread of the device can issue in this cycle: each is stopped or has an instruction in the pipeline (R60). -/
def State.alone (s : State) : Bool :=
  s.tiles.all fun p => p.2.threads.all fun q => (p.1 == s.cur.1 && q.1 == s.cur.2) || s.cycle < q.2.pipe || match q.2.status with
    | .stopped _ => true
    | _ => false
/-- The cycle in which a request that is made now reaches its bank: one that finds the slot used arrives after it. -/
def State.arrival (s : State) (k : Nat) : Nat := if s.slotUsed k then s.cycle + 1 else s.cycle

/-- BINIT, BARR and BEXP, whose requests of one cycle are served in an order of their own: such a request is served once its cycle is over, or at once
when no other thread can issue in it (R296). -/
def BankOp.isBarrier : BankOp → Bool
  | .binit _ | .barr .. | .bexp _ => true
  | .load .. | .refill _ | .descriptor .. | .amo .. | .cas .. | .bread .. => false

/-- The banks of the SRAM that an access of n bytes touches, none in HBM (R99, R101). -/
def banksOf (pa n : Nat) : List Nat := if inSram pa then ((unitsOf pa n).map bankOf).eraseDups else []

/-- The slot of this cycle is the Flumes', and still free at each of some banks (R101, R102). -/
def State.flumeSlot (s : State) (ks : List Nat) : Bool := ks.all (s.slotFree .flume)
def State.useSlots (s : State) (ks : List Nat) : State := ks.foldl State.useSlot s

/-- Place of a barrier request among those that reach a bank in its cycle: BINIT, BARR, BEXP, then tile and slot (R296). -/
def BankReq.barrierKey : BankReq → Option (Nat × Nat)
  | .thread tile slot _ op _ _ c .. => match op with
    | .binit _ => some (c, tile * 256 + slot)
    | .barr .. => some (c, 2 ^ 20 + tile * 256 + slot)
    | .bexp _ => some (c, 2 ^ 21 + tile * 256 + slot)
    | _ => none
  | _ => none

/-- A request joins a bank's queue: behind the others, but for barrier requests of one cycle, which stand in the order of R296. -/
def enterQueue (r : BankReq) : List BankReq → List BankReq
  | [] => [r]
  | x :: rest => match r.barrierKey, x.barrierKey with
    | some (c, k), some (c1, k1) => if c = c1 && k < k1 then r :: x :: rest else x :: enterQueue r rest
    | _, _ => x :: enterQueue r rest

/-! ### Free values -/

/-- Draws a value the device takes from a random source (entry 3). -/
def State.draw (s : State) : State × BitVec 32 := ({ s with fresh := s.fresh + 1 }, Config.randomDraw s.fresh)

end Sys2Proof.Machine
end

