-- ==== Sys2Proof/Machine/Operands.lean ====
section
/-! DEFINITION. Operand forms and the integer functions: sign extension, conditions, integer arithmetic, atomic operations, source modifiers of rows. -/

namespace Sys2Proof

def sext {n : Nat} (x : BitVec n) : Word := x.signExtend 64
def zext {n : Nat} (x : BitVec n) : Word := x.zeroExtend 64

/-- Integer conditions on all 64 bits (R48). -/
def IntCond.holds (c : IntCond) (x y : Word) : Bool :=
  match c with
  | .eq => x == y
  | .ne => x != y
  | .lt => x.slt y
  | .ge => !x.slt y
  | .ltu => x.ult y
  | .geu => !x.ult y
  | .le => x.sle y
  | .gt => !x.sle y
  | .leu => x.ule y
  | .gtu => !x.ule y

/-- Bytes of the loads and stores (R314, R326). -/
def LdSize.bytes : LdSize → Nat
  | .b | .bu => 1
  | .h | .hu => 2
  | .w | .wu => 4
  | .d => 8
def StSize.bytes : StSize → Nat
  | .b => 1
  | .h => 2
  | .w => 4
  | .d => 8
def AtSize.bytes : AtSize → Nat
  | .w => 4
  | .d => 8
/-- What a load writes to gd (R314). -/
def LdSize.extend (z : LdSize) (v : Nat) : Word :=
  match z with
  | .b => sext (BitVec.ofNat 8 v)
  | .h => sext (BitVec.ofNat 16 v)
  | .w => sext (BitVec.ofNat 32 v)
  | .bu | .hu | .wu | .d => BitVec.ofNat 64 v

/-- The scope whose release an atomic's write waits for (R122). -/
def AtOrder.release : AtOrder → Option Scope
  | .rel s | .acqrel s => some s
  | _ => none

/-- The lane that lane i reads through a source modifier (R39). -/
def SrcMod.lane (m : SrcMod) (i : Nat) : Nat :=
  match m with
  | .none => i
  | .rot k d => let g := 2 ^ k.toNat; i / g * g + (i % g + d.toNat) % g
  | .bfly _ d => i.xor (2 ^ d.toNat)
  | .bcast k d => let g := 2 ^ k.toNat; i / g * g + d.toNat

end Sys2Proof

namespace Sys2Proof.Machine
open Sys2Proof

def boolWord (b : Bool) : Word := if b then 1 else 0

/-- Quotient, truncated toward zero, with the cases of R288. -/
def divS (x y : Word) : Word := if y = 0 then BitVec.allOnes 64 else BitVec.ofInt 64 (x.toInt.tdiv y.toInt)
def divU (x y : Word) : Word := if y = 0 then BitVec.allOnes 64 else BitVec.ofNat 64 (x.toNat / y.toNat)
/-- Remainders that pair with the quotients (R311). -/
def remS (x y : Word) : Word := if y = 0 then x else BitVec.ofInt 64 (x.toInt.tmod y.toInt)
def remU (x y : Word) : Word := if y = 0 then x else BitVec.ofNat 64 (x.toNat % y.toNat)

def mulHigh (x y : Word) : Word := BitVec.ofInt 64 (x.toInt * y.toInt / 2 ^ 64)
def mulHighU (x y : Word) : Word := BitVec.ofNat 64 (x.toNat * y.toNat / 2 ^ 64)

/-- Zero bits above the highest set bit; 64 for zero (R287). -/
def clz64 (x : Word) : Word := if x = 0 then 64 else BitVec.ofNat 64 (63 - Nat.log2 x.toNat)
/-- Zero bits below the lowest set bit, among n bits. -/
def ctzFrom (x : Word) : Nat → Nat → Nat
  | k, 0 => k
  | k, n + 1 => if x.getLsbD k then k else ctzFrom x (k + 1) n
def ctz64 (x : Word) : Word := BitVec.ofNat 64 (ctzFrom x 0 64)
def popc64 (x : Word) : Word := BitVec.ofNat 64 ((List.range 64).filter fun k => x.getLsbD k).length
def bswap64 (x : Word) : Word := BitVec.ofNat 64 (leNat (leBytes x.toNat 8).reverse)

def shamt (y : Word) : Nat := y.toNat % 64
def shl64 (x y : Word) : Word := x <<< shamt y
def shr64 (x y : Word) : Word := x >>> shamt y
def sra64 (x y : Word) : Word := x.sshiftRight (shamt y)
def rol64 (x y : Word) : Word := x.rotateLeft (shamt y)

def minS (x y : Word) : Word := if x.slt y then x else y
def maxS (x y : Word) : Word := if x.slt y then y else x
def minU (x y : Word) : Word := if x.ult y then x else y
def maxU (x y : Word) : Word := if x.ult y then y else x

/-- The field of len bits at pos, zero-extended (R290). -/
def extract (x : Word) (pos len : Nat) : Word := BitVec.ofNat 64 (x.toNat / 2 ^ pos % 2 ^ len)
/-- The mask of len bits at pos (R309). -/
def fieldMask (pos len : Nat) : Word := BitVec.ofNat 64 ((2 ^ len - 1) * 2 ^ pos)
def insertField (old x : Word) (pos len : Nat) : Word := (old &&& ~~~fieldMask pos len) ||| ((x <<< pos) &&& fieldMask pos len)

/-- Signed value of the low w bits. -/
def signedOf (w v : Nat) : Int := if v % 2 ^ w < 2 ^ (w - 1) then (v % 2 ^ w : Nat) else (v % 2 ^ w : Nat) - (2 ^ w : Nat)

end Sys2Proof.Machine
end

