-- ==== Sys2Proof/Machine/Fp.lean ====
section
/-! DEFINITION. Number formats, exact values and rounding (R133 to R135, R143, R144, R148, R149). -/

namespace Sys2Proof.Machine.Fp
open Sys2Proof Sys2Proof.Machine

/-- A value: NaN (signalling or not), infinity, or (-1)^neg x m x 2^e. -/
inductive V where
  | nan (sig : Bool)
  | inf (neg : Bool)
  | fin (neg : Bool) (m : Nat) (e : Int)
  deriving DecidableEq, Repr

/-- A format (R133): fraction width, bias, largest finite code, code of infinity if it has one, of NaN if it has one, and total width. -/
structure Fmt where
  w : Nat
  bias : Nat
  top : Nat
  infCode : Option Nat
  nanCode : Nat
  hasNan : Bool
  bits : Nat
  deriving DecidableEq, Repr

def f32 : Fmt := ⟨23, 127, 0x7F7FFFFF, some 0x7F800000, 0x7FC00000, true, 32⟩
def bf16 : Fmt := ⟨7, 127, 0x7F7F, some 0x7F80, 0x7FC0, true, 16⟩
def e4m3 : Fmt := ⟨3, 7, 0x7E, none, 0x7F, true, 8⟩
def e5m2 : Fmt := ⟨2, 15, 0x7B, some 0x7C, 0x7E, true, 8⟩
def e2m1 : Fmt := ⟨1, 1, 7, none, 0, false, 4⟩

/-- The exponent of the last place of the subnormals. -/
def Fmt.qmin (f : Fmt) : Int := 1 - (f.bias : Int) - (f.w : Int)

/-- The value of a magnitude code. -/
def Fmt.mag (f : Fmt) (c : Nat) (neg : Bool) : V :=
  let e := c / 2 ^ f.w
  if e = 0 then .fin neg c f.qmin else .fin neg (2 ^ f.w + c % 2 ^ f.w) (f.qmin + (e : Int) - 1)

/-- The value of a code (R134). -/
def Fmt.decode (f : Fmt) (code : Nat) : V :=
  let neg := code / 2 ^ (f.bits - 1) % 2 == 1
  let c := code % 2 ^ (f.bits - 1)
  match f.infCode with
  | some i => if c = i then .inf neg else if i < c then .nan (c / 2 ^ (f.w - 1) % 2 == 0) else f.mag c neg
  | none => if f.hasNan && c == f.nanCode then .nan false else f.mag c neg

/-- Whether a rounding mode moves a magnitude up from q with remainder r of 2 x half. -/
def up (rm : Rm) (neg : Bool) (q r half : Nat) : Bool :=
  match rm with
  | .rne => half < r || (r == half && q % 2 == 1)
  | .rtz => false
  | .rdn => neg && r != 0
  | .rup => !neg && r != 0
  | .rna => half ≤ r

/-- m x 2^e rounded to a multiple of 2^k: the multiple, and whether it is inexact. -/
def roundTo (rm : Rm) (neg : Bool) (m : Nat) (e k : Int) : Nat × Bool :=
  if k ≤ e then (m * 2 ^ (e - k).toNat, false)
  else
    let sh := (k - e).toNat
    let q := m / 2 ^ sh
    let r := m % 2 ^ sh
    (if up rm neg q r (2 ^ (sh - 1)) then q + 1 else q, r != 0)

/-- The exponent of the last place of m x 2^e at a precision of w + 1 bits, at least qmin. -/
def Fmt.place (f : Fmt) (m : Nat) (e : Int) : Int := max ((Nat.log2 m : Int) + e - (f.w : Int)) f.qmin

/-- The magnitude code of m x 2^e after rounding; it may lie above the largest finite code. -/
def Fmt.roundCode (f : Fmt) (rm : Rm) (neg : Bool) (m : Nat) (e : Int) : Nat × Bool :=
  if m = 0 then (0, false) else
    let k := f.place m e
    let r := roundTo rm neg m e k
    ((k - f.qmin).toNat * 2 ^ f.w + r.1, r.2)

/-- Rounded as though the exponent range were unbounded, the magnitude lies below the smallest normal (R148). -/
def Fmt.tiny (f : Fmt) (rm : Rm) (neg : Bool) (m : Nat) (e : Int) : Bool :=
  m != 0 &&
    let k := (Nat.log2 m : Int) + e - (f.w : Int)
    let r := roundTo rm neg m e k
    (Nat.log2 r.1 : Int) + k < f.qmin + (f.w : Int)

/-- A code with its sign. -/
def Fmt.signed (f : Fmt) (neg : Bool) (c : Nat) : Nat := if neg then 2 ^ (f.bits - 1) + c else c

/-- Whether an overflow under a mode delivers infinity. -/
def toInf (rm : Rm) (neg : Bool) : Bool :=
  match rm with
  | .rne | .rna => true
  | .rtz => false
  | .rdn => neg
  | .rup => !neg

/-- The result of an arithmetic operation in a format with infinities: code and classes counted (R148). -/
def Fmt.arith (f : Fmt) (rm : Rm) (v : V) : Nat × List Nat :=
  match v with
  | .nan _ => (f.nanCode, [])
  | .inf neg => (f.signed neg (f.infCode.getD f.top), [])
  | .fin neg m e =>
    let r := f.roundCode rm neg m e
    if f.top < r.1 then (f.signed neg (if toInf rm neg then f.infCode.getD f.top else f.top), [Class.ovf])
    else (f.signed neg r.1, if r.2 && f.tiny rm neg m e then [Class.unf] else [])

/-- A narrowing conversion (R149): formats without infinity saturate and count SAT. -/
def Fmt.narrow (f : Fmt) (rm : Rm) (v : V) : Nat × List Nat :=
  match v with
  | .nan sig => (f.nanCode, if sig then [Class.inv] else [])
  | .inf neg => match f.infCode with
    | some i => (f.signed neg i, [])
    | none => (f.signed neg f.top, [Class.sat])
  | .fin neg m e =>
    let r := f.roundCode rm neg m e
    let sub := if r.2 && decide (r.1 < 2 ^ f.w) then [Class.unf] else []
    match f.infCode with
    | some i => if f.top < r.1 then (f.signed neg (if toInf rm neg then i else f.top), [Class.ovf]) else (f.signed neg r.1, sub)
    | none =>
      let z := f.roundCode .rtz neg m e
      if f.top < z.1 || (z.1 == f.top && z.2) then (f.signed neg f.top, [Class.sat]) else (f.signed neg r.1, sub)

/-- RoundSR of R144: stochastic rounding with threshold t. -/
def Fmt.stochastic (f : Fmt) (t : Nat) (v : V) : Nat × List Nat :=
  match v with
  | .nan sig => (f.nanCode, if sig then [Class.inv] else [])
  | .inf neg => (f.signed neg f.top, [Class.sat])
  | .fin neg m e =>
    let z := f.roundCode .rtz false m e
    if f.top < z.1 || (z.1 == f.top && z.2) then (f.signed neg f.top, [Class.sat])
    else if !z.2 then (f.signed neg z.1, [])
    else
      -- the fraction of the place above lo, in 256ths
      let sh := (f.place m e - e).toNat
      let frac := 256 * (m % 2 ^ sh) / 2 ^ sh
      let c := if t < frac then z.1 + 1 else z.1
      (f.signed neg c, if c = 0 then [Class.unf] else [])

/-! ### Exact arithmetic -/

def V.isNan : V → Bool
  | .nan _ => true
  | _ => false
def V.isSig : V → Bool
  | .nan s => s
  | _ => false
def V.neg : V → V
  | .nan s => .nan s
  | .inf n => .inf (!n)
  | .fin n m e => .fin (!n) m e

/-- The exact product, and whether it is invalid (R148). -/
def mulV (x y : V) : V × Bool :=
  match x, y with
  | .nan s, b => (.nan false, s || b.isSig)
  | _, .nan s => (.nan false, s)
  | .inf n, .inf k => (.inf (n != k), false)
  | .inf n, .fin k m _ => if m = 0 then (.nan false, true) else (.inf (n != k), false)
  | .fin n m _, .inf k => if m = 0 then (.nan false, true) else (.inf (n != k), false)
  | .fin n m e, .fin k p g => (.fin (n != k) (m * p) (e + g), false)

/-- The signed integer of a finite value in units of 2^u, for u at most its exponent. -/
def units (neg : Bool) (m : Nat) (e u : Int) : Int :=
  let k : Int := (m * 2 ^ (e - u).toNat : Nat)
  if neg then -k else k

/-- The exact sum; an exact zero is negative under .rdn unless both zeros agree in sign (R148, R306). -/
def addV (rm : Rm) (x y : V) : V × Bool :=
  match x, y with
  | .nan s, b => (.nan false, s || b.isSig)
  | _, .nan s => (.nan false, s)
  | .inf n, .inf k => if n = k then (.inf n, false) else (.nan false, true)
  | .inf n, .fin .. => (.inf n, false)
  | .fin .., .inf k => (.inf k, false)
  | .fin n m e, .fin k p g =>
    let u := min e g
    let t := units n m e u + units k p g u
    if t = 0 then (.fin (if m = 0 && p = 0 && n = k then n else rm == .rdn) 0 u, false)
    else (.fin (t < 0) t.natAbs u, false)

def invIf (b : Bool) : List Nat := if b then [Class.inv] else []

/-- x x y + z with one rounding (R148, R306). -/
def Fmt.fma (f : Fmt) (rm : Rm) (x y z : V) : Nat × List Nat :=
  let p := mulV x y
  let r := addV rm p.1 z
  let o := f.arith rm r.1
  (o.1, o.2 ++ invIf (p.2 || r.2))
def Fmt.add (f : Fmt) (rm : Rm) (x y : V) : Nat × List Nat :=
  let r := addV rm x y
  let o := f.arith rm r.1
  (o.1, o.2 ++ invIf r.2)
def Fmt.mul (f : Fmt) (rm : Rm) (x y : V) : Nat × List Nat :=
  let r := mulV x y
  let o := f.arith rm r.1
  (o.1, o.2 ++ invIf r.2)

def dec32 (x : BitVec 32) : V := f32.decode x.toNat
def add32 (rm : Rm) (x y : BitVec 32) : BitVec 32 × List Nat :=
  let r := f32.add rm (dec32 x) (dec32 y)
  (BitVec.ofNat 32 r.1, r.2)
def sub32 (rm : Rm) (x y : BitVec 32) : BitVec 32 × List Nat :=
  let r := f32.add rm (dec32 x) (dec32 y).neg
  (BitVec.ofNat 32 r.1, r.2)
def mul32 (rm : Rm) (x y : BitVec 32) : BitVec 32 × List Nat :=
  let r := f32.mul rm (dec32 x) (dec32 y)
  (BitVec.ofNat 32 r.1, r.2)
def fma32 (rm : Rm) (x y z : BitVec 32) : BitVec 32 × List Nat :=
  let r := f32.fma rm (dec32 x) (dec32 y) (dec32 z)
  (BitVec.ofNat 32 r.1, r.2)

/-! ### Conversions with integers (R150) -/

/-- A value rounded to a signed 64-bit integer. -/
def toInt64 (rm : Rm) (v : V) : Word × List Nat :=
  let big (neg : Bool) : Word × List Nat := (if neg then 0x8000000000000000 else 0x7FFFFFFFFFFFFFFF, [Class.inv])
  match v with
  | .nan _ => (0, [Class.inv])
  | .inf n => big n
  | .fin n m e =>
    let q := (roundTo rm n m e 0).1
    if (n && 2 ^ 63 < q) || (!n && 2 ^ 63 ≤ q) then big n
    else (BitVec.ofInt 64 (if n then -(q : Int) else q), [])

def ofInt64 (rm : Rm) (x : Word) : Nat × List Nat :=
  f32.arith rm (.fin (x.toInt < 0) x.toInt.natAbs 0)

/-- FCVT by kind: the result and the classes it counts (R149, R150, R308). -/
def convert (k : CvtKind) (rm : Rm) (x : Word) : Word × List Nat :=
  let a := f32.decode (x.toNat % 2 ^ 32)
  let out (r : Nat × List Nat) : Word × List Nat := (BitVec.ofNat 64 r.1, r.2)
  let widen (f : Fmt) : Word × List Nat :=
    match f.decode (x.toNat % 2 ^ f.bits) with
    | .nan sig => (0x7FC00000, invIf sig)
    | v => out (f32.arith .rne v)
  match k with
  | .f2i => toInt64 rm a
  | .i2f => out (ofInt64 rm x)
  | .f2bf => out (bf16.narrow rm a)
  | .f2e4 => out (e4m3.narrow rm a)
  | .f2e5 => out (e5m2.narrow rm a)
  | .bf2f => widen bf16
  | .e42f => widen e4m3
  | .e52f => widen e5m2

end Sys2Proof.Machine.Fp
end

