-- ==== Sys2Proof/Machine/OrdLog.lean ====
section
/-! DEFINITION. The order log: sites, decisions, records and replay (R236 to R242). -/

namespace Sys2Proof.Machine
open Sys2Proof

/-- A site: tile id and index (R236). -/
def siteOf (tile index : Nat) : BitVec 34 := BitVec.ofNat 34 (tile * 2 ^ 23 + index % 2 ^ 23)

def Site.new (point : BitVec 6) (site : BitVec 34) : Site := ⟨point, site, 0, none, [], [], none, none⟩

def Context.site (c : Context) (point : BitVec 6) (site : BitVec 34) : Site :=
  (c.sites.find? fun x => x.point == point && x.site == site).getD (Site.new point site)

def Context.setSite (c : Context) (x : Site) : Context :=
  let here (y : Site) : Bool := y.point == x.point && y.site == x.site
  { c with sites := if c.sites.any here then c.sites.map fun y => if here y then x else y else c.sites ++ [x] }

/-- The 16 bytes of a record (R238). -/
def ordRecord (x : Site) (sid : BitVec 48) (tag : BitVec 16) : BitVec 128 := tag ++ sid ++ x.seq ++ x.site ++ x.point

/-- What a site says to a contender: it is admitted, it waits for its turn, or the decision waits for room in the log. -/
inductive Decision where
  | go (s : State)
  | hold (s : State)
  | room (s : State)

/-- Tag a precedes tag b, as serial numbers (R238). -/
def precedes (a b : BitVec 16) : Bool := 1 ≤ (b - a).toNat && (b - a).toNat < 2 ^ 15

def Contender.same (a b : Contender) : Bool := a.sid == b.sid && a.tag == b.tag

/-- A contender arrives at a site, or is there already: the contenders there in arrival order. -/
def Site.with (x : Site) (k : Contender) : List Contender := if x.held.any k.same then x.held else x.held ++ [k]
def Site.without (x : Site) (k : Contender) : List Contender := x.held.filter fun h => !k.same h

/-- Of the contenders of a stream, none was issued before k (R238). -/
def oldestOf (l : List Contender) (k : Contender) : Bool := !l.any fun h => h.sid == k.sid && precedes h.tag k.tag

/-- The contender whose turn it is while decisions are recorded: the first of a list, or the one of its stream that was issued first (R238). -/
def firstTurn (l : List Contender) (k : Contender) : Bool := match l with
  | [] => true
  | h :: _ => h.sid == k.sid && oldestOf l k

/-- Whether replay admits a contender at a site now (R241): the one its record names, or the oldest of the previous winner when no record
matches. -/
def Context.replayAdmits (c : Context) (x : Site) (k : Contender) : Bool :=
  let implied := x.winner == some k.sid && oldestOf x.held k
  match x.queue with
  | (q, rs, rt) :: _ => if q = x.seq then rs == k.sid && rt == k.tag else implied
  | [] => c.ordProd == c.ordCons && implied

/-- Writes a decision's record behind those of earlier cycles; those of its cycle stand in the order of tile and point (R238). -/
def State.putOrder (s : State) (ctx : BitVec 6) (site : BitVec 34) (point : BitVec 6) (r : BitVec 128) : State :=
  let c := s.ctx ctx
  let now := if c.ordNow.1 = s.cycle then c.ordNow.2.drop (c.ordNow.2.length - (c.ordProd - c.ordCons).toNat) else []
  let l := insertBy (fun x => x.1 * 64 + x.2.1) (site.toNat / 2 ^ 23, point.toNat, r) now
  let s1 := s.ringPut (baseOf c.ringBase 12) 16 (2 ^ (c.ringBase.toNat % 32)) (c.ordProd.toNat - now.length) (l.map fun x => leBytes x.2.2.toNat 16)
  s1.setCtx ctx { s1.ctx ctx with ordProd := c.ordProd + 1, ordNow := (s.cycle, l) }

/-- The log ring has room for a record (R240). -/
def State.ordRoom (s : State) (ctx : BitVec 6) : Bool :=
  let c := s.ctx ctx
  s.populated (baseOf c.ringBase 12) && (c.ordProd - c.ordCons).toNat < 2 ^ (c.ringBase.toNat % 32)

/-- A site admits a contender: the next decision is its stream's (R238). -/
def State.admitAt (s : State) (ctx : BitVec 6) (x : Site) (k : Contender) : State :=
  let held := x.without k
  s.setCtx ctx ((s.ctx ctx).setSite { x with
    seq := x.seq + 1, winner := some k.sid, held, since := if held.isEmpty then none else some s.cycle, room := none,
    queue := match x.queue with | (q, sid, tag) :: r => if q = x.seq then r else (q, sid, tag) :: r | [] => [] })

/-- The decision of a site on one contender of a context (R238, R240 to R242). Where no record names the winner, the contenders that wait there go
in arrival order. -/
def State.decideAt (s : State) (ctx : BitVec 6) (point : BitVec 6) (site : BitVec 34) (k : Contender) : Decision :=
  let c := s.ctx ctx
  let x := c.site point site
  let wait := s.setCtx ctx (c.setSite { x with held := x.with k, since := some (x.since.getD s.cycle) })
  if c.mode = 1 then
    if (match x.room with | some r => r != (k.sid, k.tag) | none => !firstTurn x.held k) then .hold wait
    else if x.winner = some k.sid then .go (s.admitAt ctx x k)
    else if s.ordRoom ctx then
      let s1 := (s.putOrder ctx site point (ordRecord x k.sid k.tag)).admitAt ctx x k
      .go (if c.modeIrq && (c.ordProd - c.ordCons).toNat + 1 == 2 ^ (c.ringBase.toNat % 32) / 2 then s1.irqPush 4 0 ctx (c.ordProd + 1) else s1)
    else .room (s.setCtx ctx (c.setSite { x with held := x.with k, room := some (k.sid, k.tag) }))
  else if c.mode = 2 then
    if c.replayAdmits x k then .go (s.admitAt ctx x k) else .hold wait
  else match x.held with
    | [] => .go s
    | h :: _ => if h.same k then .go (s.setCtx ctx (c.setSite { x with held := x.without k })) else .hold wait

/-- The current thread as a contender: its sid and the low bits of its instruction count (R237). -/
def Thread.contender (t : Thread) (cur : Nat × Nat) : Contender := ⟨t.sid, BitVec.ofNat 16 t.icount, cur.1, cur.2, some t.ctx⟩

/-- Passes an order point for the current thread, or blocks it there. -/
def atSite (s : State) (t : Thread) (point : BitVec 6) (site : BitVec 34) (k : State → Out) : Out :=
  match s.decideAt t.ctx point site (t.contender s.cur) with
  | .go s1 => k s1
  | .hold s1 | .room s1 => block s1 t (.site point site)

/-! ### Replay events -/

/-- The reader's next record: its address and its bits, if there is one and the ring is usable (R241). -/
def State.nextRecord (s : State) (ctx : BitVec 6) : Option (Nat × Nat) :=
  let c := s.ctx ctx
  let n := 2 ^ (c.ringBase.toNat % 32)
  let base := baseOf c.ringBase 12
  if c.mode = 2 && c.ordProd != c.ordCons && s.populated base then
    let a := base + c.ordProd.toNat % n * 16
    some (a, leNat (memRead s.mem a 16))
  else none

/-- The site of a record, and whether its queue of 16 has room. -/
def Context.recordSite (c : Context) (r : Nat) : Site := c.site (BitVec.ofNat 6 r) (BitVec.ofNat 34 (r / 2 ^ 6))

def State.canDeliver (s : State) (ctx : BitVec 6) : Bool :=
  match s.nextRecord ctx with
  | some (_, r) => ((s.ctx ctx).recordSite r).queue.length < 16
  | none => false

/-- REPLAY_DELIVER: a record goes from the log ring to its site's queue (R241); half empty raises the interrupt of R239. -/
def execReplayDeliver (ctx : BitVec 6) (s : State) : Out :=
  let s := match s.nextRecord ctx with
    | some (a, _) => s.touchAll (unitsOf a 16)
    | none => s
  match s.nextRecord ctx with
  | none => .next s
  | some (_, r) =>
    let c := s.ctx ctx
    let x := c.recordSite r
    if x.queue.length < 16 then
      let x1 := { x with queue := x.queue ++ [(BitVec.ofNat 24 (r / 2 ^ 40), BitVec.ofNat 48 (r / 2 ^ 64), BitVec.ofNat 16 (r / 2 ^ 112))] }
      let s1 := s.setCtx ctx ({ c with ordProd := c.ordProd + 1 }.setSite x1)
      .next (if c.modeIrq && (c.ordCons - c.ordProd).toNat - 1 == 2 ^ (c.ringBase.toNat % 32) / 2 then s1.irqPush 4 0 ctx (c.ordProd + 1) else s1)
    else .next s

/-- A site's contenders have waited hold x 64 cycles without the winner now named (R242). -/
def State.diverged (s : State) (ctx : BitVec 6) (x : Site) : Bool :=
  (s.ctx ctx).mode == 2 && !x.held.isEmpty && match x.since with
  | some c => c + (s.ctx ctx).modeHold.toNat * 64 ≤ s.cycle
  | none => false

/-- Whether div and end were set in a cycle. -/
def Context.setAt (c : Context) (cycle : Nat) : Bool × Bool := if c.ordSet.1 = cycle then c.ordSet.2 else (false, false)

/-- Ends the forcing of decisions: mode off. What is held is admitted in arrival order (R242). -/
def Context.endReplay (c : Context) : Context :=
  { c with mode := 0, ordMode := if c.ordMode.extractLsb' 0 2 = 2 then c.ordMode &&& ~~~3 else c.ordMode,
           sites := c.sites.map fun x => { x with since := none, queue := [] } }

/-- Where the thread of a stream stands in a context. -/
def State.streamSeat (s : State) (ctx : BitVec 6) (sid : BitVec 48) : Option (Nat × Nat) :=
  s.tiles.findSome? fun (k, x) => (x.threads.find? fun p => p.2.ctx == ctx && p.2.sid == sid).map fun p => (k, p.1)

/-- Where the issuing thread of a contender stands now: in its seat, or where it has moved to. The firmware threads of a slot share a sid, and they do not
move (R237). -/
def State.issuerSeat (s : State) (k : Contender) : Option (Nat × Nat) :=
  k.ctx.bind fun c =>
    if (s.thread? k.tile k.slot).any fun t => t.ctx == c && t.sid == k.sid then some (k.tile, k.slot)
    else if isFirmware k.slot then none else s.streamSeat c k.sid

/-- REPLAY_DIVERGE (R242). -/
def execReplayDiverge (ctx : BitVec 6) (point : BitVec 6) (site : BitVec 34) (s : State) : Out :=
  let c := s.ctx ctx
  let x := c.site point site
  if s.diverged ctx x then
    let v : Word := point ++ site ++ x.seq
    let s1 := s.setCtx ctx { c.endReplay with ordDiv := true, ordLast := BitVec.ofNat 62 v.toNat, ordSet := (s.cycle, true, (c.setAt s.cycle).2) }
    match x.held.head?.bind s1.issuerSeat with
    | none => .next s1
    | some (tile, slot) => .next (s1.hold tile slot (.replayDiverge v))
  else .next s

/-- Every record up to cons is delivered, and every site has consumed its records (R242). -/
def State.replayOver (s : State) (ctx : BitVec 6) : Bool :=
  let c := s.ctx ctx
  c.mode == 2 && c.ordProd == c.ordCons && c.sites.all (·.queue.isEmpty)

/-- REPLAY_END: mode off and end set. -/
def execReplayEnd (ctx : BitVec 6) (s : State) : Out :=
  if s.replayOver ctx then
    .next (s.setCtx ctx { (s.ctx ctx).endReplay with ordEnd := true, ordSet := (s.cycle, ((s.ctx ctx).setAt s.cycle).1, true) })
  else .next s

/-- ORD_CONS_WRITE: software removes records (record) or places them (replay) (R239). -/
def State.writeOrdCons (s : State) (ctx : BitVec 6) (v : Word) : State := s.setCtx ctx { s.ctx ctx with ordCons := v }
def execOrdConsWrite (ctx : BitVec 6) (v : Word) (s : State) : Out := .next (s.writeOrdCons ctx v)

end Sys2Proof.Machine
end

