-- ==== Sys2Proof/Machine/Access.lean ====
section
/-! DEFINITION. SRAM loads, stores and atomics (R292 to R294, R314 to R316, R326 to R329), and the draining of stores (R104, R118, R254). -/

namespace Sys2Proof.Machine
open Sys2Proof

/-! ### Checks shared by every SRAM access of a thread -/

/-- Translates and checks an address for the current thread; a fault traps with a value (R108, R109). -/
def accessMe (s : State) (t : Thread) (i : Instr) (kind : Access3) (va value : Word) (k : State → Thread → Nat → Out) : Out :=
  match s.access (s.who t) kind false va with
  | (s1, r) => match s1.me with
    | none => .refused .noThread
    | some t1 => match r with
      | .error c => trapBefore s1 t1 i c value
      | .ok pa => k s1 t1 pa

/-- Alignment, translation, permission and the poison of the address register, in this order (R292, R315, R327). -/
def addressed (s : State) (t : Thread) (i : Instr) (kind : Access3) (a : GReg) (va : Word) (size : Nat) (k : State → Thread → Nat → Out) : Out :=
  if va.toNat % size ≠ 0 then trapBefore s t i Cause.align va
  else accessMe s t i kind va va fun s1 t1 pa => poisonCheck s1 t1 i [a] (k s1 t1 pa)

/-! ### Loads -/

/-- Completes a load with a value; poisoned data poisons gd and counts POISON (R252, R315). -/
def loaded (s : State) (t : Thread) (size : Nat) (d : GReg) (v : Word) (poison : Bool) : Out :=
  if poison then countMe s t [Class.psn] fun s1 t1 => ended s1 (t1.write d v true) size
  else ended s (t.write d v false) size

/-- A load is served by its bank (R315). -/
def bankLoad (s : State) (t : Thread) (size : Nat) (z : LdSize) (d : GReg) (pa : Nat) : Out :=
  match s.readBytes pa z.bytes with
  | (s1, bs, p) => loaded s1 t size d (z.extend (leNat bs)) p

/-! ### Requests to a bank (R101, R102) -/

/-- The current thread's request joins the queue of its bank, and the thread waits for its service. -/
def askBank (s : State) (t : Thread) (i : Instr) (va : Word) (pa : Nat) (op : BankOp) : Out :=
  let k := bankOf pa
  let r : BankReq := .thread s.cur.1 s.cur.2 t.inst op pa i.size (if op.isBarrier then s.cycle else s.arrival k) (s.pageAt s.cur.1 t.ctx va) s.serial
  block (s.setBank k (enterQueue r (s.bank k))).tickSerial { t with instr := some i } .bank

/-- A request of the current thread that is served in a slot of its class: at once where it finds the slot free, no older request of the class and, at an
order point, its turn; else it waits at its bank. -/
def inSlot (s : State) (t : Thread) (i : Instr) (va : Word) (pa : Nat) (op : BankOp) (point : Option (BitVec 6 × BitVec 34)) (k : State → Out) : Out :=
  if !s.bankFree (op.slotClass s.cur.1 (bankOf pa)) (bankOf pa) || (op.isBarrier && !s.alone) then askBank s t i va pa op
  else match point with
    | none => k (s.useSlot (bankOf pa))
    | some (p, x) => match s.decideAt t.ctx p x (t.contender s.cur) with
      | .go s1 => k (s1.useSlot (bankOf pa))
      | .hold s1 | .room s1 => askBank s1 t i va pa op

/-- The effect of a load from its address (R315): a bank of the own tile serves it in its sequencer slot, any other in its mesh-in slot (R101). -/
def loadFrom (s : State) (t : Thread) (i : Instr) (z : LdSize) (d a : GReg) (va : Word) : Out :=
  addressed s t i .read a va z.bytes fun s1 t1 pa =>
    match s1.forward s1.cur.1 s1.cur.2 pa z.bytes with
    | .wait => block s1 t1 (.unitDrained (pa / 8 * 8))
    | .value v p => loaded s1 t1 i.size d (z.extend v) p
    | .bank => inSlot s1 t1 i va pa (.load z d) none fun s2 => bankLoad s2 t1 i.size z d pa

def loadS (i : Instr) (z : LdSize) (d : GReg) (a : Src) (off : Word) (s : State) : Out :=
  issue s i false [a] [] [d] fun t => loadFrom s t i z d a.reg (t.val a.reg + off)

/-- The S forms: LDB to LDD (R314). -/
def execLdb (d : GReg) (a : Src) (off : BitVec 15) (s : State) : Out := loadS (.ldb d a off) .b d a (sext off) s
def execLdbu (d : GReg) (a : Src) (off : BitVec 15) (s : State) : Out := loadS (.ldbu d a off) .bu d a (sext off) s
def execLdh (d : GReg) (a : Src) (off : BitVec 15) (s : State) : Out := loadS (.ldh d a off) .h d a (sext off) s
def execLdhu (d : GReg) (a : Src) (off : BitVec 15) (s : State) : Out := loadS (.ldhu d a off) .hu d a (sext off) s
def execLdw (d : GReg) (a : Src) (off : BitVec 15) (s : State) : Out := loadS (.ldw d a off) .w d a (sext off) s
def execLdwu (d : GReg) (a : Src) (off : BitVec 15) (s : State) : Out := loadS (.ldwu d a off) .wu d a (sext off) s
def execLdd (d : GReg) (a : Src) (off : BitVec 15) (s : State) : Out := loadS (.ldd d a off) .d d a (sext off) s
/-- The ordered form: off5 counts sizes; the acquire adds no delay (R123, R314). -/
def execLdAcq (sz : LdSize) (sc : Scope) (d : GReg) (a : Src) (off : BitVec 5) (s : State) : Out :=
  loadS (.ldAcq sz sc d a off) sz d a (BitVec.ofNat 64 (off.toNat * sz.bytes)) s
/-- The W and L forms (R314). -/
def execLdbW (te : Bool) (d a : GReg) (off : BitVec 24) (s : State) : Out := loadS (.ldbW te d a off) .b d ⟨a, te⟩ (sext off) s
def execLdbL (te : Bool) (d a : GReg) (off : BitVec 32) (s : State) : Out := loadS (.ldbL te d a off) .b d ⟨a, te⟩ (sext off) s
def execLdbuW (te : Bool) (d a : GReg) (off : BitVec 24) (s : State) : Out := loadS (.ldbuW te d a off) .bu d ⟨a, te⟩ (sext off) s
def execLdbuL (te : Bool) (d a : GReg) (off : BitVec 32) (s : State) : Out := loadS (.ldbuL te d a off) .bu d ⟨a, te⟩ (sext off) s
def execLdhW (te : Bool) (d a : GReg) (off : BitVec 24) (s : State) : Out := loadS (.ldhW te d a off) .h d ⟨a, te⟩ (sext off) s
def execLdhL (te : Bool) (d a : GReg) (off : BitVec 32) (s : State) : Out := loadS (.ldhL te d a off) .h d ⟨a, te⟩ (sext off) s
def execLdhuW (te : Bool) (d a : GReg) (off : BitVec 24) (s : State) : Out := loadS (.ldhuW te d a off) .hu d ⟨a, te⟩ (sext off) s
def execLdhuL (te : Bool) (d a : GReg) (off : BitVec 32) (s : State) : Out := loadS (.ldhuL te d a off) .hu d ⟨a, te⟩ (sext off) s
def execLdwW (te : Bool) (d a : GReg) (off : BitVec 24) (s : State) : Out := loadS (.ldwW te d a off) .w d ⟨a, te⟩ (sext off) s
def execLdwL (te : Bool) (d a : GReg) (off : BitVec 32) (s : State) : Out := loadS (.ldwL te d a off) .w d ⟨a, te⟩ (sext off) s
def execLdwuW (te : Bool) (d a : GReg) (off : BitVec 24) (s : State) : Out := loadS (.ldwuW te d a off) .wu d ⟨a, te⟩ (sext off) s
def execLdwuL (te : Bool) (d a : GReg) (off : BitVec 32) (s : State) : Out := loadS (.ldwuL te d a off) .wu d ⟨a, te⟩ (sext off) s
def execLddW (te : Bool) (d a : GReg) (off : BitVec 24) (s : State) : Out := loadS (.lddW te d a off) .d d ⟨a, te⟩ (sext off) s
def execLddL (te : Bool) (d a : GReg) (off : BitVec 32) (s : State) : Out := loadS (.lddL te d a off) .d d ⟨a, te⟩ (sext off) s

/-! ### Stores -/

/-- The effect of a store to its address (R327): the entry enters the FIFO, and the thread goes on. -/
def storeTo (s : State) (t : Thread) (i : Instr) (size : Nat) (a : GReg) (va data : Word) (poison : Bool) (rel : Option Scope) : Out :=
  addressed s t i .write a va size fun s1 t1 pa =>
    if s1.fifoRoom s1.cur.1 s1.cur.2 (t1.since s1) then
      done (s1.enqueue s1.cur.1 s1.cur.2 t1.ctx (s1.pageAt s1.cur.1 t1.ctx va) pa data size poison rel) t1 i
    else block s1 t1 .fifo

def storeS (i : Instr) (size : Nat) (a g : Src) (off : Word) (rel : Option Scope) (s : State) : Out :=
  issue s i false [a, g] [] [] fun t => storeTo s t i size a.reg (t.val a.reg + off) (t.val g.reg) (t.pois g.reg) rel

def execStb (a g : Src) (off : BitVec 14) (s : State) : Out := storeS (.stb a g off) 1 a g (sext off) none s
def execSth (a g : Src) (off : BitVec 14) (s : State) : Out := storeS (.sth a g off) 2 a g (sext off) none s
def execStw (a g : Src) (off : BitVec 14) (s : State) : Out := storeS (.stw a g off) 4 a g (sext off) none s
def execStd (a g : Src) (off : BitVec 14) (s : State) : Out := storeS (.std a g off) 8 a g (sext off) none s
def execStRel (sz : StSize) (sc : Scope) (a g : Src) (off : BitVec 5) (s : State) : Out :=
  storeS (.stRel sz sc a g off) sz.bytes a g (BitVec.ofNat 64 (off.toNat * sz.bytes)) (some sc) s
def execStbW (te : Bool) (a b : GReg) (off : BitVec 24) (s : State) : Out := storeS (.stbW te a b off) 1 ⟨a, te⟩ ⟨b, te⟩ (sext off) none s
def execStbL (te : Bool) (a b : GReg) (off : BitVec 32) (s : State) : Out := storeS (.stbL te a b off) 1 ⟨a, te⟩ ⟨b, te⟩ (sext off) none s
def execSthW (te : Bool) (a b : GReg) (off : BitVec 24) (s : State) : Out := storeS (.sthW te a b off) 2 ⟨a, te⟩ ⟨b, te⟩ (sext off) none s
def execSthL (te : Bool) (a b : GReg) (off : BitVec 32) (s : State) : Out := storeS (.sthL te a b off) 2 ⟨a, te⟩ ⟨b, te⟩ (sext off) none s
def execStwW (te : Bool) (a b : GReg) (off : BitVec 24) (s : State) : Out := storeS (.stwW te a b off) 4 ⟨a, te⟩ ⟨b, te⟩ (sext off) none s
def execStwL (te : Bool) (a b : GReg) (off : BitVec 32) (s : State) : Out := storeS (.stwL te a b off) 4 ⟨a, te⟩ ⟨b, te⟩ (sext off) none s
def execStdW (te : Bool) (a b : GReg) (off : BitVec 24) (s : State) : Out := storeS (.stdW te a b off) 8 ⟨a, te⟩ ⟨b, te⟩ (sext off) none s
def execStdL (te : Bool) (a b : GReg) (off : BitVec 32) (s : State) : Out := storeS (.stdL te a b off) 8 ⟨a, te⟩ ⟨b, te⟩ (sext off) none s

/-! ### Atomics -/

/-- The new value of an AMO on w bits, and the classes it counts (R293). -/
def amoNew (op : AmoOp) (w old b : Nat) : Nat × List Nat :=
  match op with
  | .add => ((old + b) % 2 ^ w, [])
  | .and => (old &&& b, [])
  | .or => (old ||| b, [])
  | .xor => (old ^^^ b, [])
  | .min => (if signedOf w old < signedOf w b then old else b, [])
  | .max => (if signedOf w old < signedOf w b then b else old, [])
  | .minu => (if old < b then old else b, [])
  | .maxu => (if old < b then b else old, [])
  | .swap => (b, [])
  | .fadd => let r := Fp.add32 .rne (BitVec.ofNat 32 old) (BitVec.ofNat 32 b); (r.1.toNat, r.2)

/-- What an atomic does at its bank: the old value, whether the unit was poisoned, the classes counted, the state after. -/
structure AtomicOut where
  state : State
  old : Nat
  poisoned : Bool
  classes : List Nat

/-- An AMO performed at the home bank (R293). -/
def State.bankAmo (s : State) (op : AmoOp) (sz : AtSize) (pa : Nat) (data : Word) (poison : Bool) : AtomicOut :=
  let u := pa / 8 * 8
  let s1 := s.touch u
  let bad := s1.poison.contains u
  let old := leNat (memRead s1.mem pa sz.bytes)
  let r := amoNew op (8 * sz.bytes) old (data.toNat % 2 ^ (8 * sz.bytes))
  let clears := op == .swap && sz == .d && !poison
  let s2 := s1.perform u (BitVec.ofNat 64 (r.1 * 2 ^ (8 * (pa % 8)))) (byteMask (pa % 8) sz.bytes) (poison || (bad && !clears))
  ⟨s2, old, bad, r.2⟩

/-- A CAS performed at the home bank (R293): a poisoned unit is not written. -/
def State.bankCas (s : State) (sz : AtSize) (pa : Nat) (expect data : Word) (poison : Bool) : AtomicOut :=
  let u := pa / 8 * 8
  let s1 := s.touch u
  let bad := s1.poison.contains u
  let old := leNat (memRead s1.mem pa sz.bytes)
  if bad || old ≠ expect.toNat % 2 ^ (8 * sz.bytes) then ⟨s1, old, bad, []⟩
  else ⟨s1.perform u (BitVec.ofNat 64 (data.toNat % 2 ^ (8 * sz.bytes) * 2 ^ (8 * (pa % 8)))) (byteMask (pa % 8) sz.bytes) poison, old, bad, []⟩

/-- Order point 1, 9: the unit's site (R236). -/
def unitSite (pa : Nat) : BitVec 34 := siteOf (paTile pa) (pa % 2 ^ 21 / 8)

/-- The waits of an atomic: older entries to the unit, its release, its slot and its turn there (R294, R101). -/
def atomicWaits (s : State) (t : Thread) (i : Instr) (ord : AtOrder) (va : Word) (pa : Nat) (op : BankOp) (k : State → Out) : Out :=
  if !s.unitClear s.cur.1 s.cur.2 (pa / 8 * 8) then block s t (.unitDrained (pa / 8 * 8))
  else match ord.release with
    | none => inSlot s t i va pa op (some (1, unitSite pa)) k
    | some sc => releaseFirst s t sc (inSlot s t i va pa op (some (1, unitSite pa)) k)

/-- Writes the old value and counts the events of an atomic. -/
def atomicDone (t : Thread) (size : Nat) (d : GReg) (srcPoison : Bool) (r : AtomicOut) : Out :=
  countMe r.state t (r.classes ++ if r.poisoned then [Class.psn] else []) fun s1 t1 =>
    ended s1 (t1.write d (BitVec.ofNat 64 r.old) (r.poisoned || srcPoison)) size

/-- AMO (R292, R293). -/
def execAmo (op : AmoOp) (sz : AtSize) (ord : AtOrder) (d : GReg) (a b : Src) (s : State) : Out :=
  let i := Instr.amo op sz ord d a b
  issue s i false [a, b] [] [d] fun t =>
    addressed s t i .both a.reg (t.val a.reg) sz.bytes fun s1 t1 pa =>
      atomicWaits s1 t1 i ord (t.val a.reg) pa (.amo op sz d (t1.val b.reg) (t1.pois b.reg)) fun s2 =>
        atomicDone t1 i.size d (t1.pois b.reg) (s2.bankAmo op sz pa (t1.val b.reg) (t1.pois b.reg))

/-- CAS: gd is the expected value and always blocks (R292, R293). -/
def execCas (sz : AtSize) (ord : AtOrder) (d : GReg) (a b : Src) (s : State) : Out :=
  let i := Instr.cas sz ord d a b
  issue s i false [a, b] [d] [d] fun t =>
    addressed s t i .both a.reg (t.val a.reg) sz.bytes fun s1 t1 pa =>
      atomicWaits s1 t1 i ord (t.val a.reg) pa (.cas sz d (t1.val d) (t1.val b.reg) (t1.pois b.reg) (t1.pois d || t1.pois b.reg)) fun s2 =>
        atomicDone t1 i.size d (t1.pois d || t1.pois b.reg) (s2.bankCas sz pa (t1.val d) (t1.val b.reg) (t1.pois b.reg))

/-! ### Draining -/

/-- Whether the head of a FIFO is held for its release (R122): what the thread did before it that the scope covers is not performed. -/
def State.headHeld (s : State) (tile : Nat) (e : FifoEntry) : Bool :=
  match e.rel with
  | none | some .die => false
  | some .dev => (s.bridgeOf tile e.slot).any fun b => b.entry.number < e.number
  | some .dom | some .sys => (s.bridgeOf tile e.slot).any (fun b => b.entry.number < e.number) ||
      (s.accsOf tile e.slot).any fun a => a.since < e.number

/-- The drain of a partial store finds an uncorrectable error in its unit (R254). -/
def State.mergeFails (s : State) (e : FifoEntry) : Bool :=
  e.mask != 0xFF && s.flaws.any fun f => match f with
    | .sramUe u _ => u == e.unit
    | _ => false

/-- A failed store and every younger entry of its thread leave the FIFO and the bridge buffers, and the thread is marked; the record lists
the eight oldest (R132, R254, entry 56). -/
def State.storeFail (s : State) (tile : Nat) (e : FifoEntry) : State :=
  let x := s.tile tile
  let younger (f : FifoEntry) : Bool := f.slot == e.slot && e.number < f.number
  let own (b : BridgeEntry) : Bool := b.tile == tile && younger b.entry
  let gone := ((e :: (s.bridge.filter own).map (·.entry)) ++ x.fifo.filter younger).take 8
  let s1 := { s.setTile tile { x with fifo := x.fifo.filter fun f => !younger f && f.number != e.number } with bridge := s.bridge.filter fun b => !own b }
  let s2 := s1.logError (dieOf tile) 5 (logUnit 0 tile) (BitVec.ofNat 48 e.unit)
    (BitVec.ofNat 60 (tile + e.slot % 256 * 2 ^ 11 + gone.length * 2 ^ 19))
  s2.hold tile e.slot (.storeLost (gone.map fun f => ⟨f.unit, f.mask, f.data⟩))

/-- A store that has left the FIFO or the bridge buffer is performed at its bank, or fails there (R104, R254). -/
def State.performEntry (s : State) (tile : Nat) (e : FifoEntry) : State :=
  if s.mergeFails e then (s.touch e.unit).storeFail tile e else s.perform e.unit e.data e.mask e.poison

/-- The store of a number waits at its bank. -/
def State.storeQueued (s : State) (e : FifoEntry) : Bool :=
  (s.bank (bankOf e.unit)).any fun r => match r with
    | .store _ n => n == e.number
    | _ => false

/-- A store reaches its bank: it is performed in a free slot of its class, or it waits there (R101, R102). -/
def State.storeArrives (s : State) (tile : Nat) (e : FifoEntry) (gone : State) : State :=
  let k := bankOf e.unit
  if s.storeQueued e then s
  else
    let r : BankReq := .store tile e.number
    if s.bankFree (r.slotClass k) k then (gone.useSlot k).performEntry tile e else s.setBank k (s.bank k ++ [r])

/-- The head of a tile's FIFO can leave it. -/
def State.canDrain (s : State) (tile : Nat) : Bool :=
  match (s.tile tile).fifo with
  | [] => false
  | e :: _ => !s.headHeld tile e && !s.storeQueued e

/-- STORE_DRAIN: the head is performed at its bank, or enters the bridge buffer of another die, or fails (R104, R118, R122, R254). -/
def execStoreDrain (tile : Nat) (s : State) : Out :=
  match (s.tile tile).fifo with
  | [] => .next s
  | e :: es =>
    let x := s.tile tile
    let s1 := s.setTile tile { x with fifo := es }
    if s.headHeld tile e then
      if e.relSince.isNone then .next (s.setTile tile { x with fifo := { e with relSince := some s.cycle } :: es }) else .next s
    else if dieOf (paTile e.unit) ≠ dieOf tile then .next { s1 with bridge := s.bridge ++ [⟨tile, e⟩] }
    else .next (s.storeArrives tile e s1)

/-- A bridge reports an entry lost or corrupt (R254, R265). -/
def State.bridgeLoss (s : State) (e : BridgeEntry) : Option (BitVec 8) :=
  s.flaws.findSome? fun f => match f with
    | .bridgeLost u c => if u = e.entry.unit then some c else none
    | _ => none

/-- The number of the bridge that joins two dies. A store to the diagonal die crosses two, and the X bridge, which it crosses first, reports the
loss: DESIGN CHOICE (entry 57; R100, R265). -/
def bridgeNumber (a b : Nat) : Nat := if a % 2 ≠ b % 2 then a / 2 else 2 + a % 2

/-- The oldest entry for a bank, by its number in the device, in the bridge buffer of a die. -/
def State.bridgeHead (s : State) (die bank : Nat) : Option BridgeEntry :=
  s.bridge.find? fun e => dieOf e.tile == die && bankOf e.entry.unit == bank

/-- BRIDGE_BUFFER_PERFORM: the oldest entry of a die's buffer for a bank reaches the bank, or is lost (R118, R254). -/
def execBridgeBufferPerform (die bank : Nat) (s : State) : Out :=
  match s.bridgeHead die bank with
  | none => .next s
  | some b =>
    let s1 := { s with bridge := s.bridge.erase b }
    let e := b.entry
    match s.bridgeLoss b with
    | some c =>
      let s2 := { s1 with flaws := s1.flaws.filter fun f => match f with | .bridgeLost u _ => u != e.unit | _ => true }
      let s3 := s2.logError (dieOf b.tile) 6 (logUnit 4 (bridgeNumber (dieOf b.tile) (dieOf (paTile e.unit)))) (BitVec.ofNat 48 e.unit)
        (BitVec.ofNat 60 (bridgeNumber (dieOf b.tile) (dieOf (paTile e.unit)) + c.toNat * 4))
      .next (s3.storeFail b.tile e)
    | none => .next (s.storeArrives b.tile e s1)

/-- The bank serves the store of a number, wherever it now stands; a store that a failure has removed is gone. -/
def State.serveStore (s : State) (tile number : Nat) : State :=
  match (s.tile tile).fifo.find? (·.number == number) with
  | some e => (s.setTile tile { s.tile tile with fifo := (s.tile tile).fifo.erase e }).performEntry tile e
  | none => match s.bridge.find? (·.entry.number == number) with
    | some b => { s with bridge := s.bridge.erase b }.performEntry b.tile b.entry
    | none => s

/-- PAGE_WALK: a walk for a tile fills its TLB (R108, R110). -/
def execPageWalk (tile : Nat) (ctx : BitVec 6) (va : Word) (s : State) : Out :=
  .next (s.translate ⟨ctx, tile, 256, 0, 0, 0, tile, 256, 0⟩ va).1

end Sys2Proof.Machine
end

