-- ==== Sys2Proof/Machine/Arith.lean ====
section
/-! DEFINITION. The integer instructions, SET, SEL, the bitfield forms, LI, NOP, HINT and TID: register results only. -/

namespace Sys2Proof.Machine
open Sys2Proof

/-- gd := f(ga, gb), poisoned if a source is (R286, R287). -/
def binary (i : Instr) (d : GReg) (a b : Src) (f : Word → Word → Word) (s : State) : Out :=
  issue s i false [a, b] [] [d] fun t =>
    done s (t.write d (f (t.val a.reg) (t.val b.reg)) (t.pois a.reg || t.pois b.reg)) i

/-- gd := f(ga), poisoned if the source is. -/
def unary (i : Instr) (d : GReg) (a : Src) (f : Word → Word) (s : State) : Out :=
  issue s i false [a] [] [d] fun t => done s (t.write d (f (t.val a.reg)) (t.pois a.reg)) i

/-- ADD (R287). -/
def execAdd (d : GReg) (a b : Src) (s : State) : Out := binary (.add d a b) d a b (fun x y => x + y) s
/-- SUB (R322). -/
def execSub (d : GReg) (a b : Src) (s : State) : Out := binary (.sub d a b) d a b (fun x y => x - y) s
/-- MUL (R310). -/
def execMul (d : GReg) (a b : Src) (s : State) : Out := binary (.mul d a b) d a b (fun x y => x * y) s
/-- MULH (R310). -/
def execMulh (d : GReg) (a b : Src) (s : State) : Out := binary (.mulh d a b) d a b (mulHigh) s
/-- MULHU (R310). -/
def execMulhu (d : GReg) (a b : Src) (s : State) : Out := binary (.mulhu d a b) d a b (mulHighU) s
/-- DIV (R288). -/
def execDiv (d : GReg) (a b : Src) (s : State) : Out := binary (.div d a b) d a b (divS) s
/-- DIVU (R288). -/
def execDivu (d : GReg) (a b : Src) (s : State) : Out := binary (.divu d a b) d a b (divU) s
/-- REM (R311). -/
def execRem (d : GReg) (a b : Src) (s : State) : Out := binary (.rem d a b) d a b (remS) s
/-- REMU (R311). -/
def execRemu (d : GReg) (a b : Src) (s : State) : Out := binary (.remu d a b) d a b (remU) s
/-- AND (R287). -/
def execAnd (d : GReg) (a b : Src) (s : State) : Out := binary (.and d a b) d a b (fun x y => x &&& y) s
/-- OR (R310). -/
def execOr (d : GReg) (a b : Src) (s : State) : Out := binary (.or d a b) d a b (fun x y => x ||| y) s
/-- XOR (R322). -/
def execXor (d : GReg) (a b : Src) (s : State) : Out := binary (.xor d a b) d a b (fun x y => x ^^^ y) s
/-- ANDN (R287). -/
def execAndn (d : GReg) (a b : Src) (s : State) : Out := binary (.andn d a b) d a b (fun x y => x &&& ~~~y) s
/-- SHL (R322). -/
def execShl (d : GReg) (a b : Src) (s : State) : Out := binary (.shl d a b) d a b (shl64) s
/-- SHR (R322). -/
def execShr (d : GReg) (a b : Src) (s : State) : Out := binary (.shr d a b) d a b (shr64) s
/-- SRA (R322). -/
def execSra (d : GReg) (a b : Src) (s : State) : Out := binary (.sra d a b) d a b (sra64) s
/-- ROL (R310). -/
def execRol (d : GReg) (a b : Src) (s : State) : Out := binary (.rol d a b) d a b (rol64) s
/-- MIN (R310). -/
def execMin (d : GReg) (a b : Src) (s : State) : Out := binary (.min d a b) d a b (minS) s
/-- MAX (R310). -/
def execMax (d : GReg) (a b : Src) (s : State) : Out := binary (.max d a b) d a b (maxS) s
/-- MINU (R310). -/
def execMinu (d : GReg) (a b : Src) (s : State) : Out := binary (.minu d a b) d a b (minU) s
/-- MAXU (R310). -/
def execMaxu (d : GReg) (a b : Src) (s : State) : Out := binary (.maxu d a b) d a b (maxU) s
/-- CLZ (R287). -/
def execClz (d : GReg) (a : Src) (s : State) : Out := unary (.clz d a) d a clz64 s
/-- CTZ (R287). -/
def execCtz (d : GReg) (a : Src) (s : State) : Out := unary (.ctz d a) d a ctz64 s
/-- POPC (R310). -/
def execPopc (d : GReg) (a : Src) (s : State) : Out := unary (.popc d a) d a popc64 s
/-- BSWAP (R287). -/
def execBswap (d : GReg) (a : Src) (s : State) : Out := unary (.bswap d a) d a bswap64 s
/-- MOV (R310). -/
def execMov (d : GReg) (a : Src) (s : State) : Out := unary (.mov d a) d a id s

/-- SET (R324). -/
def execSet (c : IntCond) (d : GReg) (a b : Src) (s : State) : Out :=
  binary (.set c d a b) d a b (fun x y => boolWord (c.holds x y)) s
/-- SETI (R324). -/
def execSeti (c : IntCond) (d : GReg) (a : Src) (imm : BitVec 11) (s : State) : Out :=
  unary (.seti c d a imm) d a (fun x => boolWord (c.holds x (sext imm))) s
/-- SEL: gd := ga if gc is not 0, else gb; poisoned if any of the three is (R325). -/
def execSel (d : GReg) (c a b : Src) (s : State) : Out :=
  issue s (.sel d c a b) false [c, a, b] [] [d] fun t =>
    done s (t.write d (if t.val c.reg = 0 then t.val b.reg else t.val a.reg) (t.pois c.reg || t.pois a.reg || t.pois b.reg)) (.sel d c a b)
/-- ADDI, ANDI: sign-extended immediate (R289). -/
def execAddi (d : GReg) (a : Src) (imm : BitVec 15) (s : State) : Out := unary (.addi d a imm) d a (· + sext imm) s
def execAndi (d : GReg) (a : Src) (imm : BitVec 15) (s : State) : Out := unary (.andi d a imm) d a (· &&& sext imm) s
/-- ORI, XORI: zero-extended immediate (R310, R323). -/
def execOri (d : GReg) (a : Src) (imm : BitVec 15) (s : State) : Out := unary (.ori d a imm) d a (· ||| zext imm) s
def execXori (d : GReg) (a : Src) (imm : BitVec 15) (s : State) : Out := unary (.xori d a imm) d a (· ^^^ zext imm) s
/-- SHLI, SHRI, SRAI (R323). -/
def execShli (d : GReg) (a : Src) (n : BitVec 6) (s : State) : Out := unary (.shli d a n) d a (fun x => shl64 x (zext n)) s
def execShri (d : GReg) (a : Src) (n : BitVec 6) (s : State) : Out := unary (.shri d a n) d a (fun x => shr64 x (zext n)) s
def execSrai (d : GReg) (a : Src) (n : BitVec 6) (s : State) : Out := unary (.srai d a n) d a (fun x => sra64 x (zext n)) s
/-- EXT (R290). -/
def execExt (d : GReg) (a : Src) (pos lm1 : BitVec 6) (s : State) : Out :=
  unary (.ext d a pos lm1) d a (fun x => extract x pos.toNat (lm1.toNat + 1)) s
/-- INS: reads gd as a source, which always blocks (R309). -/
def execIns (d : GReg) (a : Src) (pos lm1 : BitVec 6) (s : State) : Out :=
  issue s (.ins d a pos lm1) false [a] [d] [d] fun t =>
    done s (t.write d (insertField (t.val d) (t.val a.reg) pos.toNat (lm1.toNat + 1)) (t.pois d || t.pois a.reg)) (.ins d a pos lm1)
/-- LI and LI.h, which reads gd under te (R317). -/
def execLi (h te : Bool) (d : GReg) (imm : BitVec 32) (s : State) : Out :=
  issue s (.li h te d imm) false (if h then [⟨d, te⟩] else []) [] [d] fun t =>
    if h then done s (t.write d (imm ++ (t.val d).extractLsb' 0 32) (t.pois d)) (.li h te d imm)
    else done s (t.write d (sext imm) false) (.li h te d imm)
/-- NOP (R318). -/
def execNop (s : State) : Out := issue s .nop false [] [] [] fun t => done s t .nop
/-- Hint space executes as NOP whatever its bits hold (R52). -/
def execHint (k : BitVec 2) (h : BitVec 24) (s : State) : Out := issue s (.hint k h) false [] [] [] fun t => done s t (.hint k h)

end Sys2Proof.Machine
end

