-- ==== Sys2Proof/Machine/Fabric.lean ====
section
/-! DEFINITION. Packets and the fabric: sending, routing, class O order, remote accesses at both ends, windows (R130, R131, R206 to R220). -/

namespace Sys2Proof

/-- The op of a request (R212); which of 0x08 to 0x0B a message has is the model's choice (entry 15). -/
def Body.op : Body → BitVec 6
  | .load .. => 0x01
  | .store .. => 0x02
  | .amo .. => 0x03
  | .cas .. => 0x04
  | .wim .. => 0x05
  | .message .. => 0x08
  | .spawn .. => 0x09
  | .invoke .. | .waiter .. | .successor .. => 0x0A
  | .fulfil .. | .hget .. | .htest .. | .hdrop .. | .hcancel .. | .location .. | .broken .. => 0x0B
  | .data .. | .status .. | .ack => 0x20
  | .error .. => 0x21

/-- The event in which a packet acts at its target. -/
def Packet.event (p : Packet) : Instr :=
  match p.body with
  | .load .. => .rldRequest p
  | .store .. => .rstRequest p
  | .amo .. => .ramoRequest p
  | .cas .. => .rcasRequest p
  | .wim .. => .rwimRequest p
  | .message .. => .messageEntry p
  | .spawn .. => .spawnRequest p
  | .invoke .. => .invokeRequest p
  | .waiter .. => .waiterRecordArrival p
  | .successor .. => .successorCreate p
  | .fulfil .. => .fulfilmentArrival p
  | .hget .. => .hgetRequest p
  | .htest .. => .htestRequest p
  | .hdrop .. => .hdropRequest p
  | .hcancel .. => .hcancelRequest p
  | .location .. => .locationUpdate p
  | .broken .. => .handleBreakArrival p
  | .data .. | .status .. | .ack => .response p
  | .error .. => .errorResponse p

/-- The key of a source thread for class O order (R211). -/
def threadKey (sdev : BitVec 11) (stile : BitVec 11) (slot : BitVec 8) : Nat := (sdev.toNat * 2048 + stile.toNat) * 256 + slot.toNat
def Packet.oKey (p : Packet) : Nat := threadKey p.hdr.sdev p.hdr.stile p.slot

/-- Where a packet is heading from here: its intermediate device in phase 1 of class V, else its destination. -/
def Packet.goal (p : Packet) : BitVec 11 := if p.hdr.cls = 3 && p.hdr.ph = 0 then p.hdr.mid else p.hdr.dev

/-- Ops that R212 lists, reserved bits and channels: a packet that breaks them is discarded. -/
def Packet.malformed (p : Packet) : Bool :=
  let o := p.hdr.op.toNat
  !(1 ≤ o && o ≤ 5 || 8 ≤ o && o ≤ 11 || o == 0x20 || o == 0x21) || p.hdr.rsv != 0 || p.hdr.vc == 7 || 10 ≤ p.hdr.vc.toNat

/-- The 128 bits of a header (R212). -/
def Hdr.bits (h : Hdr) : BitVec 128 :=
  h.dev ++ h.tile ++ h.sdev ++ h.stile ++ h.ctx ++ h.cls ++ h.ent ++ h.vc ++ h.win ++ h.gen ++ h.op ++ h.seq ++ h.mid ++ h.ph ++ h.cm ++ h.rsv ++ h.link

/-- The header that 128 bits say (R212). -/
def Hdr.ofBits (b : BitVec 128) : Hdr :=
  { dev := b.extractLsb' 117 11, tile := b.extractLsb' 106 11, sdev := b.extractLsb' 95 11, stile := b.extractLsb' 84 11, ctx := b.extractLsb' 78 6,
    cls := b.extractLsb' 76 2, ent := b.extractLsb' 72 4, vc := b.extractLsb' 68 4, win := b.extractLsb' 58 10, gen := b.extractLsb' 44 14,
    op := b.extractLsb' 38 6, seq := b.extractLsb' 22 16, mid := b.extractLsb' 11 11, ph := b.extractLsb' 10 1, cm := b.extractLsb' 9 1,
    rsv := b.extractLsb' 3 6, link := b.extractLsb' 0 3 }

/-- The flit kind and the key slot that a clear header names (R280). -/
def linkKind (b : BitVec 128) : BitVec 2 := b.extractLsb' 1 2
def linkSlot (b : BitVec 128) : Bool := b.getLsbD 0

/-- The classes as header codes (R130). -/
def RClass.code2 (c : RClass) (leaf : BitVec 2) : BitVec 2 :=
  match c with
  | .dflt => leaf
  | .o => 1
  | .a => 2
  | .v => 3

/-- The order point of a request at its unit: 1 for atomics, 9 for stores (R131, R236); class O orders a store only against the class O requests
of its own thread (R130). -/
def Packet.point (p : Packet) : Option (BitVec 6) :=
  match p.body with
  | .amo .. | .cas .. => some 1
  | .store .. | .wim .. => some 9
  | _ => none

end Sys2Proof

namespace Sys2Proof.Machine
open Sys2Proof

namespace Code
def ok : BitVec 8 := 0x00
def refused : BitVec 8 := 0x01
def badTarget : BitVec 8 := 0x02
def suspended : BitVec 8 := 0x03
def cancelled : BitVec 8 := 0x0C
def peerLost : BitVec 8 := 0x0D
def queueFull : BitVec 8 := 0x10
def badRecord : BitVec 8 := 0x11
def tooLarge : BitVec 8 := 0x12
def ctxDead : BitVec 8 := 0x13
def rejected : BitVec 8 := 0x14
def overLimit : BitVec 8 := 0x15
def leaseHeld : BitVec 8 := 0x16
def revoked : BitVec 8 := 0x17
def winProt : BitVec 8 := 0x18
def winRange : BitVec 8 := 0x19
def winFault : BitVec 8 := 0x1A
def noWindow : BitVec 8 := 0x1B
def notOwner : BitVec 8 := 0x1C
def pending : BitVec 8 := 0x1D
def stale : BitVec 8 := 0x1E
def abandoned : BitVec 8 := 0x1F
def saveFailed : BitVec 8 := 0x20
def saveSpace : BitVec 8 := 0x21
def badImage : BitVec 8 := 0x22
def busy : BitVec 8 := 0x23
def mapPinned : BitVec 8 := 0x24
def noIdentity : BitVec 8 := 0x25
def overrun : BitVec 8 := 0x26
def timeout : BitVec 8 := 0x27
def badBarrier : BitVec 8 := 0x28
end Code

/-- A status word: a code in bits [63:56] (R74). -/
def status (c : BitVec 8) : Word := c ++ (0 : BitVec 56)

/-- A thread id (R59). -/
def State.threadId (s : State) (tile slot : Nat) (ctx : BitVec 6) (inst : BitVec 8) : Word :=
  (0 : BitVec 20) ++ inst ++ ctx ++ s.fabSelf ++ BitVec.ofNat 11 tile ++ BitVec.ofNat 8 slot

/-! ### Filling registers and settling accesses -/

/-- Fills a register that waits for a producer, and notes the cycle (R72): nothing happens if the thread is gone or the producer was withdrawn (R72, R126). -/
def State.fill (s : State) (tile slot : Nat) (inst : BitVec 8) (d : GReg) (p : Producer) (v : Word) (poison : Bool) : State :=
  match s.thread? tile slot with
  | some t => if t.inst = inst && (t.reg d).prod = some p then
      s.setThread tile slot { t.write d v poison with fills := (s.cycle, d :: if t.fills.1 = s.cycle then t.fills.2 else []) } else s
  | none => s

def Losses.lose (l : Losses) (cls : BitVec 2) (dev : BitVec 11) : Losses := { l with lost := l.lost ++ [(cls, dev, false)] }
def Losses.reject (l : Losses) (cls : BitVec 2) : Losses := { l with rejected := l.rejected ++ [cls] }
def Losses.undeliver (l : Losses) (dev : BitVec 11) : Losses := { l with lost := l.lost ++ [(1, dev, true)] }

def State.onLosses (s : State) (tile slot : Nat) (inst : BitVec 8) (f : Losses → Losses) : State :=
  match s.thread? tile slot with
  | some t => if t.inst = inst then s.setThread tile slot { t with losses := f t.losses } else s
  | none => s

/-- The access of a number, and the tile that keeps it: it moves with its thread. -/
def State.access? (s : State) (rid : Nat) : Option (Nat × Access) :=
  s.tiles.findSome? fun (k, x) => (x.accs.find? fun a => a.rid == rid).map fun a => (k, a)
def State.dropAccess (s : State) (tile rid : Nat) : State :=
  s.setTile tile { s.tile tile with accs := (s.tile tile).accs.filter fun a => a.rid != rid }

/-- An HTEST or another blocked request of a thread is answered: its destination is written and it completes. -/
def State.answerBlocked (s : State) (tile slot rid : Nat) (v : Word) : State :=
  match s.thread? tile slot with
  | some t => match t.status with
    | .blocked (.htest r d) _ _ => if r = rid then s.retireAt tile slot (t.write d v false) 4 else s
    | .blocked (.located r) _ _ => if r = rid then s.retireAt tile slot t 4 else s
    | _ => s
  | none => s

/-- A broken status that fills an HGET raises BROKEN_HANDLE when the tile asks for it (R230). -/
def State.brokenTrap (s : State) (tile slot : Nat) (inst : BitVec 8) (handle : Word) : State :=
  match s.thread? tile slot with
  | some t => if t.inst = inst && (s.tctx tile t.ctx).hndTrapb then s.hold tile slot (.brokenHandle handle) else s
  | none => s

/-- Gives the thread of an access a value or status for its destination. -/
def State.deliver (s : State) (tile : Nat) (a : Access) (v : Word) (poison : Bool) : State :=
  let s1 := match a.dst with
    | some d => s.fill tile a.slot a.inst d (.access a.rid) v poison
    | none => s
  s1.answerBlocked tile a.slot a.rid v

/-- Settles an access with a value or status for its destination. -/
def State.settle (s : State) (tile : Nat) (a : Access) (v : Word) (poison : Bool) : State :=
  (s.dropAccess tile a.rid).deliver tile a v poison

/-- A remote HGET that has not been answered. -/
def Access.isHget (a : Access) : Bool := match a.pkt.body with
  | .hget _ => true
  | _ => false

/-- The home of an HGET has accepted it (R124, R230). -/
def State.markTaken (s : State) (tile rid : Nat) : State :=
  s.setTile tile { s.tile tile with accs := (s.tile tile).accs.map fun a => if a.rid = rid then { a with taken := true } else a }

/-- The issuer of a remote access, against whom its events count (R158, R252). -/
def Access.issuer (a : Access) (tile : Nat) (ctx : BitVec 6) : Issuer := ⟨ctx, tile, a.slot, a.inst, a.pc, 0, tile, a.slot, a.inst⟩

/-- An access that no thread waits for any more: its entry is free, and it stays in flight, where it keeps its class O order (R126). -/
def Access.orphan (a : Access) : Access := { a with entry := false, slot := 256, inst := 0, dst := none, page := none }
def State.orphan (s : State) (tile rid : Nat) : State :=
  s.setTile tile { s.tile tile with accs := (s.tile tile).accs.map fun a => if a.rid = rid then a.orphan else a }

/-- An access is abandoned: its destination gets PEER_LOST, and it counts as lost (R126). -/
def State.abandon (s : State) (tile : Nat) (a : Access) : State :=
  ((s.orphan tile a.rid).deliver tile a (status Code.peerLost) false).onLosses tile a.slot a.inst (·.lose a.cls a.dev)

def State.abandonAll (s : State) (tile : Nat) (p : Access → Bool) : State :=
  ((s.tile tile).accs.filter p).foldl (fun s a => s.abandon tile a) s

/-! ### Sending -/

/-- A device is reachable; this device's own id routes locally (R207). -/
def State.reach (s : State) (dev : BitVec 11) : Bool := dev = s.fabSelf || (Tab.get (false, (0 : BitVec 4)) s.routes dev.toNat).1

/-- A packet reaches its device: class O requests wait for their turn, and a duplicate is discarded (R211). -/
def State.arrive (s : State) (p : Packet) : State :=
  if p.hdr.cls = 1 then
    let x := Tab.get ((0 : BitVec 16), false) s.oExpect p.oKey
    let ahead := (p.hdr.seq - x.1).toNat
    if 2 ^ 15 ≤ ahead || (ahead == 0 && x.2) || s.oHold.any (fun q => q.oKey == p.oKey && q.hdr.seq == p.hdr.seq) then s
    else { s with oHold := s.oHold ++ [p] }
  else s.cause p.event

/-- Puts a packet on its way: to this device directly, or to the fabric. -/
def State.send (s : State) (p : Packet) : State := if p.hdr.dev = s.fabSelf then s.arrive p else s.cause (.packetHop p)

/-- The header of a request of a thread (R212). Fields that its class has no use for have values of the model's: mid is the destination and ph is 1 outside
class V, and every class carries the path entropy. DESIGN CHOICE (entry 97). -/
def State.header (s : State) (dev : BitVec 11) (tile stile : Nat) (ctx : BitVec 6) (cls : BitVec 2) (op : BitVec 6) : Hdr :=
  { dev, tile := BitVec.ofNat 11 tile, sdev := s.fabSelf, stile := BitVec.ofNat 11 stile, ctx, cls,
    ent := Tab.get 0 (s.tile stile).entropy dev.toNat, vc := if cls = 1 then 0 else if cls = 2 then 2 else 3,
    win := 0, gen := 0, op, seq := 0, mid := dev, ph := 1, cm := 0, rsv := 0, link := 0 }

/-- Coordinates and sizes by dimension: X, Y, Z. -/
def coord (dev : BitVec 11) : Nat → Nat
  | 0 => dev.toNat / 128
  | 1 => dev.toNat / 8 % 16
  | _ => dev.toNat % 8
def State.dim (s : State) : Nat → Nat
  | 0 => s.fabDims.toNat / 128 + 1
  | 1 => s.fabDims.toNat / 8 % 16 + 1
  | _ => s.fabDims.toNat % 8 + 1

/-- A device id lies within the domain (R206). -/
def State.inDomain (s : State) (dev : BitVec 11) : Bool := coord dev 0 < s.dim 0 && coord dev 1 < s.dim 1 && coord dev 2 < s.dim 2

/-- The devices a class V request may go through: the reachable devices of the domain, each once (R209). -/
def State.reachable (s : State) : List (BitVec 11) :=
  s.fabSelf :: ((s.routes.filter fun r => r.2.1).map fun r => BitVec.ofNat 11 r.1).filter fun d => d != s.fabSelf && s.inDomain d

/-- Draws the intermediate device of a class V request: one equal to the source skips phase 1, one equal to the destination phase 2 (R209). -/
def State.chooseMid (s : State) (h : Hdr) : State × Hdr :=
  if h.cls = 3 then
    let (s1, x) := s.draw
    let l := s.reachable
    let mid := l.getD (x.toNat % l.length) s.fabSelf
    (s1, { h with mid, ph := if mid = h.sdev then 1 else 0, vc := if mid = h.sdev then 5 else 3 })
  else (s, h)

/-- Numbers a class O request of a thread (R211). -/
def State.numberO (s : State) (stile : Nat) (slot : Nat) (h : Hdr) : State × Hdr :=
  if h.cls = 1 then
    let k := slot * 2048 + h.dev.toNat
    let q := Tab.get (0 : BitVec 16) (s.tile stile).oseq k
    (s.setTile stile { s.tile stile with oseq := Tab.put (s.tile stile).oseq k (q + 1) }, { h with seq := q })
  else (s, h)

/-- Who sends: the tile, the slot that its access is kept under (256 for the tile's own units), the slot that numbers class O (R211),
and what identifies it (R237). -/
structure Sender where
  tile : Nat
  slot : Nat
  key : BitVec 8
  inst : BitVec 8
  ctx : BitVec 6
  sid : BitVec 48
  tag : BitVec 16
  pc : Pc

def Thread.sender (t : Thread) (tile slot : Nat) : Sender := ⟨tile, slot, BitVec.ofNat 8 slot, t.inst, t.ctx, t.sid, BitVec.ofNat 16 t.icount, t.pc⟩

/-- Sends a request: an access entry at the tile, and the packet on its way (R116, R214). `entry` is true for the 64 remote-access entries. -/
def State.post (s : State) (w : Sender) (h : Hdr) (entry : Bool) (dst : Option GReg) (page : Option (Nat × Nat)) (handle : Word) (poison : Bool)
    (body : Body) : State × Nat :=
  let (s1, h1) := s.chooseMid h
  let (s2, h2) := s1.numberO w.tile w.key.toNat h1
  let rid := s2.serial
  let p : Packet := ⟨h2, w.key, rid, w.sid, w.tag, (s.ctx w.ctx).peer, 12, false, body⟩
  let a : Access := ⟨rid, entry, w.slot, w.inst, dst, h.dev, h.cls, page, handle, w.pc, poison, p, rid, false⟩
  let s3 := s2.setTile w.tile { s2.tile w.tile with accs := (s2.tile w.tile).accs ++ [a] }
  (s3.tickSerial.send p, rid)

/-- What a thread sends. -/
def State.request (s : State) (tile slot : Nat) (t : Thread) (h : Hdr) (entry : Bool) (dst : Option GReg) (page : Option (Nat × Nat))
    (handle : Word) (poison : Bool) (body : Body) : State × Nat :=
  s.post (t.sender tile slot) h entry dst page handle poison body

/-- The request whose turn it was has been performed: the next may pass (R211). -/
def State.performedO (s : State) (p : Packet) : State :=
  if p.hdr.cls = 1 && Tab.get ((0 : BitVec 16), false) s.oExpect p.oKey == (p.hdr.seq, true) then
    { s with oExpect := Tab.put s.oExpect p.oKey (p.hdr.seq + 1, false) }
  else s

/-- Sends the answer to a request: it carries cm, the window's generation, and the access's number (R210, R215). The other fields that a response has no use
for are the request's: DESIGN CHOICE (entry 97). -/
def State.answer (s : State) (p : Packet) (gen : BitVec 14) (b : Body) : State :=
  let h : Hdr := { p.hdr with dev := p.hdr.sdev, tile := p.hdr.stile, sdev := s.fabSelf, stile := p.hdr.tile, cls := 0, vc := 8, gen, op := b.op, ph := 1 }
  let r : Packet := { p with hdr := h, port := 12, acked := false, body := b }
  if p.hdr.sdev = s.fabSelf then s.cause r.event else s.cause (.packetHop r)

/-- A request has been performed and is answered. -/
def State.reply (s : State) (p : Packet) (gen : BitVec 14) (b : Body) : State := (s.performedO p).answer p gen b

/-- A message has been accepted: its sender learns it once. -/
def State.accepted (s : State) (p : Packet) : State := if p.acked then s.performedO p else s.reply p 0 .ack

/-! ### Routing (R206 to R212) -/

/-- The productive directions in a dimension: those that shorten the minimal path (R209). Where both do, the positive one is tried first: DESIGN CHOICE
(entry 78). -/
def State.productive (s : State) (dev : BitVec 11) (k : Nat) : List Nat :=
  let n := s.dim k
  let d := (coord dev k + n - coord s.fabSelf k % n) % n
  if d = 0 then [] else (if 2 * d ≤ n then [2 * k] else []) ++ (if n ≤ 2 * d then [2 * k + 1] else [])

/-- Whether leaving by a port crosses the dateline of its dimension (R208). -/
def State.dateline (s : State) (port : Nat) : Bool :=
  let k := port / 4
  let c := coord s.fabSelf k
  if port / 2 % 2 = 0 then c + 1 == s.dim k else c == 0

/-- The channel of a pair on the way out: d1 after the dimension's dateline (R208). -/
def State.channel (s : State) (p : Packet) (base port : Nat) : BitVec 4 :=
  let same := p.port < 12 && p.port / 4 == port / 4
  let was1 := p.hdr.vc.toNat == base + 1
  BitVec.ofNat 4 (if s.dateline port || (same && was1) then base + 1 else base)

/-- The port of the route table toward a device. -/
def State.tablePort (s : State) (dev : BitVec 11) : Nat := (Tab.get (false, (0 : BitVec 4)) s.routes dev.toNat).2.toNat

/-- The packets that wait in one channel of a port, oldest first (R208). -/
def Port.channel (q : Port) (vc : BitVec 4) : List Packet := q.out.filter fun p => p.hdr.vc == vc

/-- The port and channel a packet leaves by (R209). -/
def State.outPort (s : State) (p : Packet) : Nat × BitVec 4 :=
  let tbl := s.tablePort p.goal
  if p.hdr.cls = 0 then (tbl, s.channel p 8 tbl)
  else if p.hdr.cls = 3 then (if p.hdr.ph = 0 then (tbl, s.channel p 3 tbl) else (tbl, s.channel p 5 tbl))
  else if p.hdr.cls = 2 && p.hdr.vc = 2 then
    let r := p.hdr.ent.toNat % 3
    let dirs := ([0, 1, 2].map fun j => s.productive p.hdr.dev ((j + r) % 3)).flatten
    let k := if p.hdr.ent.getLsbD 3 then 1 else 0
    match dirs.find? fun d => Config.outRoom ((s.port (2 * d + k)).channel 2).length with
    | some d => (2 * d + k, 2)
    | none => (tbl, s.channel { p with hdr := { p.hdr with vc := 0 } } 0 tbl)
  else (tbl, s.channel p 0 tbl)

/-- Logs a discarded packet (R208, R212, R264, R265). -/
def State.logDiscard (s : State) (p : Packet) : State :=
  let b := p.hdr.bits
  s.logError 0 8 (if p.port < 12 then logUnit 5 p.port else logUnit 7 0) (b.extractLsb' 80 48) (b.extractLsb' 20 60)

/-- PACKET_HOP: routed by its class onto a port and channel, delivered, or discarded (R209, R212). A hop without a route loses the packet (R211). -/
def execPacketHop (p : Packet) (s : State) : Out :=
  if p.malformed then .next (s.logDiscard p)
  else
    let p1 := if p.hdr.cls = 3 && p.hdr.ph = 0 && p.hdr.mid = s.fabSelf && p.hdr.dev != s.fabSelf then { p with hdr := { p.hdr with ph := 1, vc := 5 } } else p
    if p1.hdr.dev = s.fabSelf && (p1.hdr.cls != 3 || p1.hdr.ph = 1 || p1.hdr.mid = s.fabSelf) then .next (s.arrive p1)
    else if !s.reach p1.goal then .next s
    else
      let (port, vc) := s.outPort p1
      let q := s.port port
      let cm : BitVec 1 := if p1.hdr.cls != 0 && Config.outHalf (q.channel vc).length then 1 else p1.hdr.cm
      .next (s.setPort port { q with out := q.out ++ [{ p1 with hdr := { p1.hdr with vc, cm } }] })

/-- The class O request whose turn it is, of a source thread. -/
def State.nextO (s : State) (k : Nat) : Option Packet :=
  let x := Tab.get ((0 : BitVec 16), false) s.oExpect k
  if x.2 then none else s.oHold.find? fun p => p.oKey == k && p.hdr.seq == x.1

/-- A class O request whose turn it is passes on. -/
def State.passO (s : State) (p : Packet) : State :=
  { s with oHold := s.oHold.erase p, oExpect := Tab.put s.oExpect p.oKey (p.hdr.seq, true) }.cause p.event

/-- CLASS_O_PASS: the fabric interface passes the next request of a source thread (R211). -/
def execClassOPass (sdev stile : BitVec 11) (slot : BitVec 8) (s : State) : Out :=
  match s.nextO (threadKey sdev stile slot) with
  | none => .next s
  | some p => .next (s.passO p)

/-! ### The issuing side of remote accesses (R213, R214) -/

/-- The 64 remote-access entries have one free (R214). -/
def State.accessRoom (s : State) (tile : Nat) : Bool := ((s.tile tile).accs.filter (·.entry)).length < 64

/-- A class O access in flight that no thread waits for any more was made by a stream of a context (R126, R237). -/
def Access.leftBy (a : Access) (t : Thread) : Bool := a.slot == 256 && a.pkt.slot != 255 && a.pkt.sid == t.sid && a.pkt.hdr.ctx == t.ctx

/-- Earlier class O accesses of a thread to a device are under way that it made from another seat, and that its numbers do not order, those that it has
abandoned among them (R126, R130, R78). -/
def State.oBehind (s : State) (tile slot : Nat) (dev : BitVec 11) : Bool :=
  let far (a : Access) : Bool := a.cls == 1 && a.dev == dev && a.pkt.oKey != threadKey s.fabSelf (BitVec.ofNat 11 tile) (BitVec.ofNat 8 slot)
  (s.tile tile).accs.any (fun a => a.slot == slot && far a) ||
    match s.thread? tile slot with
    | some t => s.tiles.any fun p => p.2.accs.any fun a => a.leftBy t && far a
    | none => false

/-- A class O request of the current thread waits for those it made to the device from the seat it has left (R130). -/
def oFirst (s : State) (t : Thread) (dev : BitVec 11) (k : Out) : Out :=
  if s.oBehind s.cur.1 s.cur.2 dev then block s t (.oOrder dev) else k

/-- The home tile that a request names (R212, R214): this device's own windows and tables give it for a request that stays here. -/
def State.homeTile (s : State) (dev : BitVec 11) (win : BitVec 10) (wo : Nat) : Nat :=
  if dev = s.fabSelf then
    let x := s.window win.toNat
    let va := (x.base + BitVec.ofNat 64 wo).toNat
    match (s.walk x.ctx [] va 3 (baseOf (s.ctx x.ctx).ptroot 12)).2.1 with
    | .leaf base _ (.mem pa ..) => paTile (pa + (va - base))
    | _ => 0
  else (Config.homeTile dev win wo).toNat

/-- The mould of R214: `mk` builds the body from the window offset; `d` is the register the response fills. -/
def remote (i : Instr) (te : Bool) (kind : Access3) (c : RClass) (sz : AtSize) (a : GReg) (srcs blocks : List GReg) (off : Word)
    (d : Option GReg) (poisonOf : Thread → Bool) (mk : Thread → Nat → Body) (s : State) : Out :=
  issue s i false (srcs.map fun r => ⟨r, te⟩) blocks d.toList fun t =>
    let va := t.val a + off
    if va.toNat % sz.bytes ≠ 0 then trapBefore s t i Cause.align va
    else match s.translate (s.who t) va with
      | (s1, r) => match s1.me with
        | none => .refused .noThread
        | some t1 => match r with
          | .bad cause => trapBefore s1 t1 i cause va
          | .ok (.mem ..) _ => trapBefore s1 t1 i Cause.prot va
          | .ok (.remote dev win wo pcls x w r) e =>
            if !kind.allowed x w r then trapBefore s1 t1 i Cause.prot va
            else if e.revoked then trapBefore s1 t1 i Cause.window va
            else poisonCheck s1 t1 i [a] (
              let cls := c.code2 pcls
              if !s1.reach dev then
                let t2 := { t1 with losses := t1.losses.lose cls dev }
                done s1 (match d with | some d => t2.write d (status Code.peerLost) false | none => t2) i
              else if !s1.accessRoom s1.cur.1 then block s1 t1 .accessRoom
              else
                let b := mk t1 wo
                let h := { s1.header dev (s1.homeTile dev win wo) s1.cur.1 t1.ctx cls b.op with win, gen := e.gen }
                let go : Out := match s1.request s1.cur.1 s1.cur.2 t1 h true d (some (e.base, e.size)) 0 (poisonOf t1) b with
                  | (s2, rid) => done s2 (match d with | some d => t1.markEmpty d (.access rid) | none => t1) i
                if cls = 1 then oFirst s1 t1 dev go else go)

def execRldW (te : Bool) (c : RClass) (sz : AtSize) (d a : GReg) (off : BitVec 12) (s : State) : Out :=
  remote (.rldW te c sz d a off) te .read c sz a [a] [] (sext off) (some d) (fun _ => false) (fun _ wo => .load wo sz) s
def execRldL (te : Bool) (c : RClass) (sz : AtSize) (d a : GReg) (off : BitVec 32) (s : State) : Out :=
  remote (.rldL te c sz d a off) te .read c sz a [a] [] (sext off) (some d) (fun _ => false) (fun _ wo => .load wo sz) s
def execRstW (te : Bool) (c : RClass) (sz : AtSize) (a b : GReg) (off : BitVec 12) (s : State) : Out :=
  remote (.rstW te c sz a b off) te .write c sz a [a, b] [] (sext off) none (fun _ => false) (fun t wo => .store wo sz (t.val b) (t.pois b)) s
def execRstL (te : Bool) (c : RClass) (sz : AtSize) (a b : GReg) (off : BitVec 32) (s : State) : Out :=
  remote (.rstL te c sz a b off) te .write c sz a [a, b] [] (sext off) none (fun _ => false) (fun t wo => .store wo sz (t.val b) (t.pois b)) s
def execRamoW (te : Bool) (op : AmoOp) (c : RClass) (sz : AtSize) (d a b : GReg) (off : BitVec 12) (s : State) : Out :=
  remote (.ramoW te op c sz d a b off) te .both c sz a [a, b] [] (sext off) (some d) (·.pois b) (fun t wo => .amo wo sz op (t.val b) (t.pois b)) s
def execRamoL (te : Bool) (op : AmoOp) (c : RClass) (sz : AtSize) (d a b : GReg) (off : BitVec 32) (s : State) : Out :=
  remote (.ramoL te op c sz d a b off) te .both c sz a [a, b] [] (sext off) (some d) (·.pois b) (fun t wo => .amo wo sz op (t.val b) (t.pois b)) s
/-- RCAS reads gd as the expected value, through OD, and te covers it (R38, R213). -/
def execRcasW (te : Bool) (c : RClass) (sz : AtSize) (d a b : GReg) (off : BitVec 12) (s : State) : Out :=
  remote (.rcasW te c sz d a b off) te .both c sz a [a, b, d] [] (sext off) (some d) (fun t => t.pois b || t.pois d)
    (fun t wo => .cas wo sz (t.val d) (t.val b) (t.pois b) (t.pois d)) s
def execRcasL (te : Bool) (c : RClass) (sz : AtSize) (d a b : GReg) (off : BitVec 32) (s : State) : Out :=
  remote (.rcasL te c sz d a b off) te .both c sz a [a, b, d] [] (sext off) (some d) (fun t => t.pois b || t.pois d)
    (fun t wo => .cas wo sz (t.val d) (t.val b) (t.pois b) (t.pois d)) s
def execRwimW (te : Bool) (c : RClass) (sz : AtSize) (a b : GReg) (off : BitVec 12) (sem : BitVec 8) (s : State) : Out :=
  remote (.rwimW te c sz a b off sem) te .write c sz a [a, b] [] (sext off) none (fun _ => false) (fun t wo => .wim wo sz (t.val b) (t.pois b) sem) s
def execRwimL (te : Bool) (c : RClass) (sz : AtSize) (a b : GReg) (off : BitVec 32) (sem : BitVec 8) (s : State) : Out :=
  remote (.rwimL te c sz a b off sem) te .write c sz a [a, b] [] (sext off) none (fun _ => false) (fun t wo => .wim wo sz (t.val b) (t.pois b) sem) s

/-! ### The target side (R215) -/

/-- A walk for an arrival that reads a poisoned entry counts POISON against the issuing tile, when that is a tile of this device (R108). -/
def State.walkPoison (s : State) (p : Packet) : State :=
  if p.hdr.sdev = s.fabSelf then
    match s.access? p.rid with
    | some (tile, a) => s.count1 (a.issuer tile p.hdr.ctx) Class.psn
    | none => s
  else s

/-- The check of a request against its window: the address and its page, or the code of the first failing check (R215). -/
def State.windowCheck (s : State) (p : Packet) (wo size : Nat) (rd w : Bool) : State × Except (BitVec 8) (Nat × Nat × Nat) :=
  let x := s.window p.hdr.win.toNat
  if x.state != .opened || (p.hdr.gen != 0 && p.hdr.gen != x.gen) then (s, .error Code.revoked)
  else if (s.ctx x.ctx).state.suspended then (s, .error Code.suspended)
  else if x.size.toNat < wo + size then (s, .error Code.winRange)
  else if (rd && !x.rd) || (w && !x.w) then (s, .error Code.winProt)
  else match s.translateIn [] 1 (clusterOf p.hdr.tile.toNat) x.ctx (x.base + BitVec.ofNat 64 wo) with
    | (s1, _, .ok (.mem pa _ lw lr) e, _) =>
      if s1.sramOn pa && (!rd || lr) && (!w || lw) then (s1, .ok (pa, e.base, e.size)) else (s1, .error Code.winFault)
    | (s1, _, _, bad) => (if bad then s1.walkPoison p else s1, .error Code.winFault)

/-- A request that passes its check waits at its bank; one that fails is logged and answered (R215). The error carries generation 0: DESIGN CHOICE (entry 98). -/
def State.acceptRequest (s : State) (p : Packet) (wo size : Nat) (rd w : Bool) : State :=
  match s.windowCheck p wo size rd w with
  | (s1, .ok (pa, page)) =>
    let k := bankOf pa
    (s1.setBank k (s1.bank k ++ [.remote p pa (s1.window p.hdr.win.toNat).ctx page s1.serial])).tickSerial
  | (s1, .error c) =>
    let s2 := s1.logError 0 9 (if p.hdr.sdev = s1.fabSelf then logUnit 7 0 else logUnit 5 p.port) (BitVec.ofNat 48 wo)
      (BitVec.ofNat 60 (p.hdr.sdev.toNat + p.hdr.ctx.toNat * 2 ^ 11 + c.toNat * 2 ^ 17))
    s2.reply p 0 (.error c)

def execRldRequest (p : Packet) (s : State) : Out :=
  match p.body with
  | .load wo sz => .next (s.acceptRequest p wo sz.bytes true false)
  | _ => .next s
def execRstRequest (p : Packet) (s : State) : Out :=
  match p.body with
  | .store wo sz .. => .next (s.acceptRequest p wo sz.bytes false true)
  | _ => .next s
def execRamoRequest (p : Packet) (s : State) : Out :=
  match p.body with
  | .amo wo sz .. => .next (s.acceptRequest p wo sz.bytes true true)
  | _ => .next s
def execRcasRequest (p : Packet) (s : State) : Out :=
  match p.body with
  | .cas wo sz .. => .next (s.acceptRequest p wo sz.bytes true true)
  | _ => .next s
def execRwimRequest (p : Packet) (s : State) : Out :=
  match p.body with
  | .wim wo sz .. => .next (s.acceptRequest p wo sz.bytes false true)
  | _ => .next s

/-- A contender that no thread of this device issued. -/
def strange (sid : BitVec 48) (tag : BitVec 16) : Contender := ⟨sid, tag, 0, 0, none⟩

/-- The contender of a request (R237), with the seat from which a thread of this device has sent it. -/
def State.contenderOf (s : State) (p : Packet) : Contender :=
  if p.hdr.sdev = s.fabSelf then ⟨p.sid, p.tag, p.hdr.stile.toNat, p.slot.toNat, some p.hdr.ctx⟩ else strange p.sid p.tag

/-- Performs a request at its home bank, and answers it (R131, R215). The response carries the window's generation as it then stands: DESIGN CHOICE
(entry 79), where the window has been revoked since the request was accepted. -/
def State.performRequest (s : State) (p : Packet) (pa : Nat) : State :=
  let gen := (s.window p.hdr.win.toNat).gen
  let put (sz : AtSize) (data : Word) (poison : Bool) : State :=
    s.perform (pa / 8 * 8) (BitVec.ofNat 64 (data.toNat % 2 ^ (8 * sz.bytes) * 2 ^ (8 * (pa % 8)))) (byteMask (pa % 8) sz.bytes) poison
  match p.body with
  | .load _ sz => match s.readBytes pa sz.bytes with
    | (s1, bs, bad) => s1.reply p gen (.data (BitVec.ofNat 64 (leNat bs)) bad [])
  | .store _ sz data poison => (put sz data poison).reply p gen .ack
  | .wim _ sz data poison sem => ((put sz data poison).signal (paTile pa) sem.toNat 1).reply p gen .ack
  | .amo _ sz op data poison => let r := s.bankAmo op sz pa data poison
    r.state.reply p gen (.data (BitVec.ofNat 64 r.old) r.poisoned r.classes)
  | .cas _ sz expect data poison _ => let r := s.bankCas sz pa expect data poison
    r.state.reply p gen (.data (BitVec.ofNat 64 r.old) r.poisoned r.classes)
  | _ => s

/-! ### Responses (R210, R216) -/

/-- What a TLB entry learns from the response to an access numbered since: the generation, or that the window is revoked. An entry filled after the
access was made is another one. -/
def State.learn (s : State) (tile : Nat) (ctx : BitVec 6) (page : Option (Nat × Nat)) (since : Nat) (f : TlbEntry → TlbEntry) : State :=
  match page with
  | none => s
  | some b => s.setTile tile { s.tile tile with tlb := (s.tile tile).tlb.map fun e => if e.ctx = ctx && e.base = b.1 && e.filled ≤ since then f e else e }

/-- Path entropy moves on when a class A response carries the congestion mark (R210). -/
def State.congest (s : State) (tile : Nat) (a : Access) (p : Packet) : State :=
  if a.cls = 2 && p.hdr.cm = 1 then
    let e := Tab.get (0 : BitVec 4) (s.tile tile).entropy a.dev.toNat
    s.setTile tile { s.tile tile with entropy := Tab.put (s.tile tile).entropy a.dev.toNat (e + 1) }
  else s

/-- RESPONSE: fills the destination and completes the access, or tells of the acceptance of an HGET that its home answers later; events and poison are counted at the issuing tile (R216, R252, R321). -/
def execResponse (p : Packet) (s : State) : Out :=
  match s.access? p.rid with
  | none => .next s
  | some (tile, a) =>
    let s1 := (s.learn p.hdr.tile.toNat p.hdr.ctx a.page a.since fun e => if e.gen = 0 then { e with gen := p.hdr.gen } else e).congest p.hdr.tile.toNat a p
    match p.body with
    | .data v poison cs =>
      let s2 := s1.settle tile a v (poison || a.poison)
      .next (s2.countAll (a.issuer tile p.hdr.ctx) (if a.entry then cs ++ (if poison then [Class.psn] else []) else []))
    | .status v =>
      let s2 := s1.settle tile a v false
      .next (if a.dst.isSome then s2.brokenTrap tile a.slot a.inst a.handle else s2)
    | .ack => .next (if a.isHget then s1.markTaken tile a.rid else s1.settle tile a 0 false)
    | _ => .next s

/-- ERROR_RESPONSE: fills the destination with its code and counts as rejected; a message comes back as undeliverable (R83, R216). No generation is
learnt from it: DESIGN CHOICE (entry 98). -/
def execErrorResponse (p : Packet) (s : State) : Out :=
  match s.access? p.rid, p.body with
  | some (tile, a), .error c =>
    let s1 := (s.learn p.hdr.tile.toNat p.hdr.ctx a.page a.since fun e => if c = Code.revoked then { e with revoked := true } else e).congest p.hdr.tile.toNat a p
    let s2 := s1.settle tile a (status c) false
    .next (s2.onLosses tile a.slot a.inst fun l => if a.entry then l.reject a.cls else if a.dst.isSome then l else l.undeliver a.dev)
  | _, _ => .next s

/-! ### Windows (R218 to R220) -/

/-- A window's word: generation and id. -/
def windowWord (gen : BitVec 14) (w : Nat) : Word := BitVec.ofNat 64 (gen.toNat * 1024 + w)

/-- WOPEN (R219). A poisoned gb, of size and permissions, raises POISON: DESIGN CHOICE (entry 25). -/
def execWopen (d : GReg) (a b : Src) (s : State) : Out :=
  let i := Instr.wopen d a b
  issue s i false [a, b] [] [d] fun t =>
    let ga := t.val a.reg
    let gb := t.val b.reg
    let size := gb.toNat % 2 ^ 36
    if ga.toNat % 65536 ≠ 0 then trapBefore s t i Cause.align ga
    else if gb.toNat / 2 ^ 36 % 2 ^ 26 ≠ 0 || size = 0 || size % 65536 ≠ 0 || 2 ^ 48 < ga.toNat + size then trapBefore s t i Cause.prot gb
    else poisonCheck s t i [a.reg, b.reg]
      (match leastBelow (fun w => (s.window w).state == .free) 0 1024 with
       | none => done s (t.write d (status Code.noWindow) false) i
       | some w =>
         let x := s.window w
         done (s.setWindow w ⟨.opened, x.gen, t.ctx, ga, BitVec.ofNat 36 size, gb.getLsbD 62, gb.getLsbD 63⟩)
           (t.write d (windowWord x.gen w) false) i)

/-- The generation after a freeing or revocation: 16,383 wraps to 1. -/
def nextGen (g : BitVec 14) : BitVec 14 := if g = 16383 then 1 else g + 1

/-- Requests accepted through a window that have not been performed. -/
def State.windowBusy (s : State) (w : Nat) : Bool :=
  s.banks.any fun b => b.2.any fun r => match r with
    | .remote p .. => p.hdr.win.toNat == w
    | .red _ | .thread .. | .store .. => false

/-- The thread, if any, that waits for a window's revocation. -/
def State.revoker (s : State) (w : Nat) : Option (Nat × Nat × GReg) :=
  s.tiles.findSome? fun (tile, x) => x.threads.findSome? fun (slot, t) => match t.status with
    | .blocked (.wrevoke v d) _ _ => if v = w then some (tile, slot, d) else none
    | _ => none

/-- WREVOKE: the revocation point, after which the thread waits for the requests accepted before it (R220). -/
def execWrevoke (d : GReg) (a : Src) (s : State) : Out :=
  let i := Instr.wrevoke d a
  issue s i false [a] [] [d] fun t =>
    let ga := t.val a.reg
    let w := ga.toNat % 1024
    let x := s.window w
    if ga.toNat / 1024 ≠ 0 then trapBefore s t i Cause.prot ga
    else poisonCheck s t i [a.reg]
      (if x.state == .free || x.ctx != t.ctx then done s (t.write d (status Code.notOwner) false) i
       else if x.state == .revoking then done s (t.write d (status Code.revoked) false) i
       else
         let s1 := s.setWindow w { x with state := .revoking, gen := nextGen x.gen }
         if s1.windowBusy w then block s1 t (.wrevoke w d)
         else done (s1.setWindow w { s1.window w with state := .free }) (t.write d (windowWord (nextGen x.gen) w) false) i)

/-- WREVOKE_COMPLETE: every request accepted before the revocation point has been performed. -/
def execWrevokeComplete (w : Nat) (s : State) : Out :=
  let x := s.window w
  if x.state == .revoking && !s.windowBusy w then
    let s1 := s.setWindow w { x with state := .free }
    match s1.revoker w with
    | some (tile, slot, d) => match s1.thread? tile slot with
      | some t => .next (s1.retireAt tile slot (t.write d (windowWord x.gen w) false) 4)
      | none => .next s1
    | none => .next s1
  else .next s

/-! ### Route table (R206, R207, R211) -/

/-- Abandons every access and message to a device that is no longer reachable (R211). -/
def State.loseDevice (s : State) (dev : BitVec 11) : State :=
  s.tiles.foldl (fun s p => s.abandonAll p.1 fun a => a.dev == dev) s

/-- The unanswered class O requests to a device, which the source sends again in seq order after a route change (R211). -/
def State.resend (s : State) (dev : BitVec 11) : State :=
  s.tiles.foldl (fun s p => (p.2.accs.filter fun a => a.dev == dev && a.cls == 1).foldl (fun s a => s.cause (.packetHop a.pkt)) s) s

/-- The value written to fab.rtdata: reach and port; a port of 12 to 15 clears reach. -/
def State.writeRtdata (s : State) (v : Word) : State :=
  let port : BitVec 4 := v.extractLsb' 0 4
  let reach := v.getLsbD 8 && decide (port.toNat < 12)
  let old := Tab.get (false, (0 : BitVec 4)) s.routes s.rtsel.toNat
  let s1 := { s with routes := Tab.put s.routes s.rtsel.toNat (reach, port) }
  if s.rtsel = s.fabSelf then s1
  else if old.1 && !reach then s1.loseDevice s.rtsel
  else if reach && (!old.1 || old.2 != port) then s1.resend s.rtsel
  else s1

end Sys2Proof.Machine
end

