-- ==== Sys2Proof/Machine/Handles.lean ====
section
/-! DEFINITION. Threads as they are created (R57, R73 to R75), and the home side of handles (R221 to R235). -/

namespace Sys2Proof

/-- The fields of a handle word (R221). -/
def handleDev (h : Word) : BitVec 11 := h.extractLsb' 53 11
def handleTile (h : Word) : Nat := h.toNat / 2 ^ 42 % 2048
def handleSlot (h : Word) : Nat := h.toNat / 2 ^ 30 % 4096
def handleGen (h : Word) : BitVec 14 := h.extractLsb' 16 14
def handleCtx (h : Word) : BitVec 6 := h.extractLsb' 10 6
/-- A null handle stands for a refused invocation, with its cause. -/
def handleNull (h : Word) : Bool := handleSlot h == 4095
def handleCause (h : Word) : BitVec 8 := h.extractLsb' 16 8
def handleWord (dev : BitVec 11) (tile slot : Nat) (gen : BitVec 14) (ctx : BitVec 6) : Word :=
  dev ++ BitVec.ofNat 11 tile ++ BitVec.ofNat 12 slot ++ gen ++ ctx ++ (0 : BitVec 10)

def Payload.none : Payload := ⟨0, 0, 0, 0, false, false, false, false⟩

end Sys2Proof

namespace Sys2Proof.Machine
open Sys2Proof

/-! ### Stream ids (R237) -/

/-- Mix of R237, on 64-bit words. -/
def mix (a b : Nat) : BitVec 48 :=
  let m : Nat := 2 ^ 64
  let h0 := (a % m).xor (b * 0x9E6C63D0876A9A47 % m)
  let h1 := h0.xor (h0 / 2 ^ 31)
  let h2 := h1 * 0xD168AAAD0AB35C1F % m
  let h3 := h2.xor (h2 / 2 ^ 29)
  BitVec.ofNat 48 h3

/-- The sid of the next creation of a thread. -/
def Thread.childSid (t : Thread) : BitVec 48 := mix t.sid.toNat t.spawns

/-! ### Creating a thread -/

/-- A target word: whether it names this device, the device and the tile; none when reserved bits are set (R73). A word that does not say remote and
names a device counts as one with reserved bits set: DESIGN CHOICE (entry 60). -/
def State.target (s : State) (w : Word) : Option (Bool × BitVec 11 × Nat) :=
  let dev : BitVec 11 := w.extractLsb' 11 11
  if w.toNat / 2 ^ 23 ≠ 0 || (!w.getLsbD 22 && dev ≠ 0) then none
  else if !w.getLsbD 22 || dev = s.fabSelf then some (true, s.fabSelf, w.toNat % 2048)
  else some (false, dev, w.toNat % 2048)

/-- The scope that contains a target (R361). -/
def State.scopeTo (s : State) (tile : Nat) (dev : BitVec 11) (target : Nat) : Scope :=
  if dev ≠ s.fabSelf then .dom else if dieOf tile = dieOf target then .die else .dev

/-- The scope of a target word with reserved bits set: its remote bit says whether the target lies on this device (R361). -/
def State.badScope (s : State) (tile : Nat) (w : Word) : Scope :=
  if w.getLsbD 22 then .dom else s.scopeTo tile s.fabSelf (w.toNat % 2048)

/-- The lowest free user slot of a tile (R58). -/
def State.freeSlot (s : State) (tile : Nat) : Option Nat := leastBelow (fun k => (s.thread? tile k).isNone) 0 248

/-- A thread at its creation: registers full, everything else as R57 gives it. -/
def Thread.create (pc : Word) (regs : List Reg) (ctx : BitVec 6) (pri : BitVec 3) (sid : BitVec 48) : Thread :=
  { pc := pc.truncate 48, regs := regs ++ List.replicate (16 - regs.length) Reg.zero, loops := [], rets := [], spill := 0, pri, age := 0,
    ctx, inst := 0, sid, icount := 0, spawns := 0, latch := false, status := .ready, held := [], losses := Losses.none, launch := none,
    crew := 0, handle := none, loopPending := false, owed := none, instr := none, leased := false, pipe := 0, born := 0, fills := (0, []), sampled := none }

/-- A thread takes a slot: the slot's instance count advances (R57). It issues in a later cycle (R75). -/
def State.allocate (s : State) (tile slot : Nat) (t : Thread) : State :=
  let n := Tab.get (0 : BitVec 8) (s.tile tile).insts slot + 1
  (s.tickSerial.setTile tile { s.tile tile with insts := Tab.put (s.tile tile).insts slot n }).setThread tile slot
    { t with inst := n, born := s.serial + 1, pipe := s.cycle + 1 }

def fullReg (v : Word) (p : Bool) : Reg := ⟨v, p, none⟩
def payloadRegs (p : Payload) : List Reg := [fullReg p.g0 p.p0, fullReg p.g1 p.p1, fullReg p.g2 p.p2, fullReg p.g3 p.p3]

/-- CreateLocal of R75: the new thread's slot, or the code of the refusal. -/
def State.createLocal (s : State) (tile : Nat) (ctx : BitVec 6) (pc : Word) (regs : List Reg) (pri : BitVec 3) (sid : BitVec 48)
    (handle : Option Word) : State × Except (BitVec 8) Nat :=
  if !s.tileOn tile || pc.toNat % 4 ≠ 0 then (s, .error Code.badTarget)
  else match s.freeSlot tile with
    | none => (s, .error Code.refused)
    | some slot => (s.allocate tile slot { Thread.create pc regs ctx pri sid with handle }, .ok slot)

/-- The status of a creation: OK with the thread id, or the code (R74). -/
def State.createdStatus (s : State) (tile : Nat) (ctx : BitVec 6) : Except (BitVec 8) Nat → Word
  | .ok slot => s.threadId tile slot ctx (Tab.get (0 : BitVec 8) (s.tile tile).insts slot)
  | .error c => status c

/-! ### Peers and arrivals for a suspended context (R224, R234) -/

/-- The lowest context that accepts a peer id. -/
def State.peerCtx (s : State) (peer : BitVec 17) : Option (BitVec 6) :=
  (leastBelow (fun c => let x := (s.ctx (BitVec.ofNat 6 c)).peer; x.getLsbD 16 && x.toNat % 65536 == peer.toNat % 65536) 0 64).map (BitVec.ofNat 6 ·)

/-- The context in which an arrival acts that its issuer sent from a device and a context. -/
def State.actingCtx (s : State) (dev : BitVec 11) (ctx : BitVec 6) (peer : BitVec 17) : Option (BitVec 6) :=
  if dev = s.fabSelf then some ctx else s.peerCtx peer

/-- The peer rule at the home of a handle. -/
def State.peerOk (s : State) (p : Packet) (home : BitVec 6) : Bool :=
  p.hdr.sdev = s.fabSelf || ((s.ctx home).peer.getLsbD 16 && (s.ctx home).peer.toNat % 65536 == p.peer.toNat % 65536)

/-- A context is dead and no thread runs in it: nothing starts in it any more (R257). An arrival that would start a thread is refused with CTX_DEAD:
DESIGN CHOICE (entry 80). -/
def State.gone (s : State) (ctx : BitVec 6) : Bool := (s.ctx ctx).state.dead && s.tiles.all fun p => p.2.threads.all fun q => q.2.ctx != ctx

/-- Holds an arrival for a suspended context, if fewer than 64 are held, those of its image among them; an arrival that is answered by an
acknowledgement is accepted now. -/
def State.holdArrival (s : State) (ctx : BitVec 6) (p : Packet) (acks : Bool) : Option State :=
  let c := s.ctx ctx
  if c.kept.length + c.arrivals.length < 64 then
    let s1 := if acks then s.accepted p else s.performedO p
    some (s1.setCtx ctx { s1.ctx ctx with arrivals := c.arrivals ++ [{ p with acked := p.acked || acks }] })
  else none

/-! ### Handle resolution tables (R223 to R226) -/

/-- Messages that a tile's own units send: class O, numbered under slot 255. -/
def State.homeSend (s : State) (tile : Nat) (ctx : BitVec 6) (peer : Option (BitVec 17)) (dev : BitVec 11) (target : Nat) (b : Body) : State :=
  let w : Sender := ⟨tile, 256, 255, 0, ctx, 0, 0, 0⟩
  if !s.reach dev then s
  else
    let s1 := match peer with
      | some p => s.setCtx ctx { s.ctx ctx with peer := p }
      | none => s
    let s2 := (s1.post w (s1.header dev target tile ctx 1 b.op) false none none 0 false b).1
    match peer with
    | some _ => s2.setCtx ctx { s2.ctx ctx with peer := (s.ctx ctx).peer }
    | none => s2

def State.freeEntry? (s : State) (tile : Nat) : Option Nat := leastBelow (fun e => (s.hrt tile e).use.isNone) 0 4095

/-- Frees an entry: its generation advances. -/
def State.freeEntry (s : State) (tile e : Nat) : State := s.setHrt tile e { HrtEntry.free with gen := nextGen (s.hrt tile e).gen }

def HrtUse.isHandle : HrtUse → Bool
  | .waiter .. => false
  | _ => true
def HrtUse.ended : HrtUse → Bool
  | .fulfilled .. | .broken _ => true
  | _ => false
def HrtUse.pending : HrtUse → Bool
  | .held | .running => true
  | _ => false

/-- The entry of a handle homed on a tile, unless the handle is null or stale: its generation and its context must be those of the entry (R26,
R223). -/
def State.lookup (s : State) (h : Word) : Option (HrtEntry × HrtUse) :=
  let x := s.hrt (handleTile h) (handleSlot h)
  if handleNull h || x.gen ≠ handleGen h || x.ctx ≠ handleCtx h then none
  else match x.use with
    | some u => if u.isHandle then some (x, u) else none
    | none => none

/-- The status word of R225. -/
def HrtEntry.statusWord (x : HrtEntry) (u : HrtUse) : Word :=
  let loc : BitVec 22 := x.dev ++ x.tile
  match u with
  | .broken c => c ++ BitVec.ofBool x.derived ++ (0 : BitVec 55)
  | .fulfilled .. => (0 : BitVec 42) ++ loc
  | .held => Code.pending ++ (0 : BitVec 33) ++ (1 : BitVec 1) ++ loc
  | .running | .waiter .. => Code.pending ++ (0 : BitVec 34) ++ loc

/-- An entry that is dropped, ended and without a chain becomes free. -/
def State.settleEntry (s : State) (tile e : Nat) : State :=
  let x := s.hrt tile e
  match x.use with
  | some u => if x.dropped && u.ended && x.chain.isEmpty then s.freeEntry tile e else s
  | none => s

/-- The threads of the home tile that wait in an HGET of a handle, with its gd (R230). -/
def State.handleWaiters (s : State) (tile : Nat) (h : Word) : List (Nat × GReg) :=
  (s.tile tile).threads.filterMap fun (slot, t) => match t.status with
    | .blocked (.hget k d) _ _ => if k = h && s.mayRun tile slot t then some (slot, d) else none
    | _ => none

/-- A thread that waits in an HGET receives the result, or the status, which may raise BROKEN_HANDLE, and goes on (R230). -/
def State.fillWaiter (s : State) (tile : Nat) (h v : Word) (poison broken : Bool) (w : Nat × GReg) : State :=
  match s.thread? tile w.1 with
  | none => s
  | some t =>
    let t1 := t.write w.2 v poison
    s.retireAt tile w.1 (if broken && (s.tctx tile t.ctx).hndTrapb then { t1 with held := t1.held ++ [.brokenHandle h] } else t1) 4

/-- The threads of the home tile that wait for a handle go on with its result or status (R230). -/
def State.fillHandle (s : State) (tile : Nat) (h v : Word) (poison broken : Bool) : State :=
  (s.handleWaiters tile h).foldl (fun s w => s.fillWaiter tile h v poison broken w) s

/-- Breaks an entry that is held or running, and every record on its chain; each record breaks the entry it feeds, with the derived flag (R226). -/
def State.breakEntry : Nat → State → Nat → Nat → BitVec 8 → Bool → State
  | 0, s, _, _, _, _ => s
  | fuel + 1, s, tile, e, cause, derived =>
    let x := s.hrt tile e
    match x.use with
    | some u =>
      if !u.pending then s
      else
        let b := HrtUse.broken cause
        let y := { x with use := some b, derived, chain := [] }
        let s1 := s.setHrt tile e y
        let h := handleWord s.fabSelf tile e x.gen x.ctx
        let s2 := x.chain.foldl (fun s r =>
          match (s.hrt tile r).use with
          | some (.waiter p _) =>
            let s1 := s.freeEntry tile r
            match p.body with
            | .waiter _ _ _ _ _ fed =>
              if handleDev fed = s.fabSelf && handleTile fed = tile then
                (match s1.lookup fed with
                 | some _ => State.breakEntry fuel s1 tile (handleSlot fed) cause true
                 | none => s1)
              else s1.homeSend tile x.ctx none (handleDev fed) (handleTile fed) (.broken fed cause true)
            | .hget _ => s1.answer p 0 (.status (y.statusWord b))
            | _ => s1
          | _ => s) s1
        (s2.fillHandle tile h (y.statusWord b) false true).settleEntry tile e
    | none => s

/-- Depth of a chain of handles on one tile. -/
def chainFuel : Nat := 4096

/-- Breaks a handle from this device: at once on the given tile, by a message elsewhere. -/
def State.breakHandle (s : State) (tile : Nat) (ctx : BitVec 6) (h : Word) (cause : BitVec 8) (derived : Bool) : State :=
  if handleDev h = s.fabSelf && handleTile h = tile then
    match s.lookup h with
    | some _ => s.breakEntry chainFuel tile (handleSlot h) cause derived
    | none => s
  else s.homeSend tile ctx none (handleDev h) (handleTile h) (.broken h cause derived)

/-- Forwards a waiter record to the location of a fulfilled entry, or answers a remote HGET (R228, R230, R232). -/
def State.forwardRecord (s : State) (tile r : Nat) (x : HrtEntry) (result : Word) (poison : Bool) : State :=
  match (s.hrt tile r).use with
  | some (.waiter p _) =>
    let s1 := s.freeEntry tile r
    match p.body with
    | .waiter _ pc pl pri sid fed =>
      if !s1.reach x.dev then s1.breakHandle tile x.ctx fed Code.peerLost false
      else s1.homeSend tile x.ctx (some p.peer) x.dev x.tile.toNat (.successor pc result poison pl pri sid fed p.hdr.sdev p.hdr.ctx)
    | .hget _ => s1.answer p 0 (.data result poison [])
    | _ => s1
  | _ => s

/-- Fulfils an entry: its records are forwarded in chain order. -/
def State.fulfilEntry (s : State) (tile e : Nat) (result : Word) (poison : Bool) (dev tl : BitVec 11) : State :=
  let x := s.hrt tile e
  let y := { x with use := some (.fulfilled result poison), dev, tile := tl, chain := [] }
  let s1 := x.chain.foldl (fun s r => s.forwardRecord tile r y result poison) (s.setHrt tile e y)
  (s1.fillHandle tile (handleWord s.fabSelf tile e x.gen x.ctx) result poison false).settleEntry tile e

/-- A waiter record joins the chain of its entry, or meets an entry that has ended (R226). -/
def State.joinChain (s : State) (tile e r : Nat) : State :=
  let x := s.hrt tile e
  match x.use with
  | some (.fulfilled v p) => (s.forwardRecord tile r x v p).settleEntry tile e
  | some (.broken cause) =>
    match (s.hrt tile r).use with
    | some (.waiter p _) =>
      let s1 := s.freeEntry tile r
      match p.body with
      | .waiter _ _ _ _ _ fed => s1.breakHandle tile x.ctx fed cause true
      | .hget _ => s1.answer p 0 (.status (x.statusWord (.broken cause)))
      | _ => s1
    | _ => s
  | _ => s.setHrt tile e { x with chain := x.chain ++ [r] }

/-- The contender of a waiter record, and its site (R232, R236). -/
def State.joinSite (tile e : Nat) : BitVec 34 := siteOf tile e

/-- The entry of a record that waits at its order point: taken, and on no chain. -/
def State.waitingRecord (s : State) (tile : Nat) (p : Packet) : Option Nat :=
  ((s.tile tile).hrt.find? fun (_, x) => match x.use with
    | some (.waiter q _) => q == p
    | _ => false).map (·.1)

/-- Drops an arrival from those that wait at a tile. -/
def State.unhold (s : State) (tile : Nat) (e : Instr) : State :=
  s.setTile tile { s.tile tile with hold2 := (s.tile tile).hold2.erase e }
/-- An arrival waits at a tile; one that waits already keeps its place. -/
def State.keepHeld (s : State) (tile : Nat) (e : Instr) : State :=
  if (s.tile tile).hold2.contains e then s else s.setTile tile { s.tile tile with hold2 := (s.tile tile).hold2 ++ [e] }

/-- An earlier record of the same stream waits at the tile for the same handle (R232). -/
def State.recordsAhead (s : State) (tile : Nat) (p : Packet) (h : Word) : Bool :=
  ((s.tile tile).hold2.takeWhile (· != .waiterRecordArrival p)).any fun x => match x with
    | .waiterRecordArrival q => q.sid == p.sid && (match q.body with
      | .waiter k .. => k == h
      | _ => false)
    | _ => false

/-- A record that has its entry goes through order point 8 onto the chain, or waits there (R232). -/
def State.enterChain (s : State) (tile : Nat) (h : Word) (x : HrtEntry) (p : Packet) (r : Nat) : State :=
  let e := Instr.waiterRecordArrival p
  if s.recordsAhead tile p h then s.keepHeld tile e
  else match s.decideAt x.ctx 8 (siteOf tile (handleSlot h)) (s.contenderOf p) with
  | .go s1 => (s1.unhold tile e).joinChain tile (handleSlot h) r
  | .hold s1 | .room s1 => s1.keepHeld tile e

/-- A record that waits at its order point gives up its entry and its place there (R226, R242). -/
def State.dropRecord (s : State) (tile : Nat) (p : Packet) : State :=
  match s.waitingRecord tile p with
  | some r => ((s.leaveSites (s.hrt tile r).ctx p.sid p.tag).freeEntry tile r).unhold tile (.waiterRecordArrival p)
  | none => s

/-- What a waiter request does at its home: a record, or the break of the entry it feeds (R226, R228). -/
def State.waiterArrives (s : State) (tile : Nat) (p : Packet) (h fed : Word) : State :=
  match s.lookup h with
  | none => (s.dropRecord tile p).breakHandle tile p.hdr.ctx fed Code.stale true
  | some (x, _) =>
    if !s.peerOk p x.ctx then (s.dropRecord tile p).breakHandle tile p.hdr.ctx fed Code.badTarget true
    else match s.waitingRecord tile p with
      | some r => s.enterChain tile h x p r
      | none => match s.freeEntry? tile with
        | none => s.breakHandle tile p.hdr.ctx fed Code.refused false
        | some r => (s.setHrt tile r { s.hrt tile r with ctx := x.ctx, use := some (.waiter p (handleSlot h)) }).enterChain tile h x p r

/-! ### Arrivals -/

/-- An HCANCEL of the handle has come in this cycle and waits for its end (R226). -/
def State.behindCancel (s : State) (h : Word) : Bool := (s.tile (handleTile h)).late.any fun e => match e with
  | .hcancelRequest p => (match p.body with
    | .hcancel k => k == h
    | _ => false)
  | _ => false

/-- An arrival acts at the home of a handle when the cycle is over. -/
def State.later (s : State) (h : Word) (e : Instr) : State :=
  let x := s.tile (handleTile h)
  if x.late.contains e then s else s.setTile (handleTile h) { x with late := x.late ++ [e] }

/-- Arrivals on a handle act in the order in which they come: behind an HCANCEL that waits for the end of the cycle they wait too (R226). -/
def inTurn (s : State) (h : Word) (e : Instr) (k : Out) : Out := if s.behindCancel h then .next (s.later h e) else k

/-- SPAWN_REQUEST: creates the thread in the peer context and answers with the status (R75, R224, R234). -/
def execSpawnRequest (p : Packet) (s : State) : Out :=
  match p.body with
  | .spawn pc pl pri sid =>
    match s.actingCtx p.hdr.sdev p.hdr.ctx p.peer with
    | none => .next (s.reply p 0 (.data (status Code.badTarget) false []))
    | some c =>
      if (s.ctx c).state.suspended then
        .next ((s.holdArrival c p false).getD (s.reply p 0 (.data (status Code.suspended) false [])))
      else if s.gone c then .next (s.reply p 0 (.data (status Code.ctxDead) false []))
      else match s.createLocal p.hdr.tile.toNat c pc (payloadRegs pl) pri sid none with
        | (s1, r) => .next (s1.reply p 0 (.data (s1.createdStatus p.hdr.tile.toNat c r) false []))
  | _ => .next s

/-- INVOKE_REQUEST: creates the invoked thread; a refusal breaks the handle (R228). -/
def execInvokeRequest (p : Packet) (s : State) : Out :=
  match p.body with
  | .invoke pc pl pri sid h _ =>
    let tile := p.hdr.tile.toNat
    let refuse (s : State) (c : BitVec 8) : Out := .next ((s.accepted p).homeSend tile p.hdr.ctx none (handleDev h) (handleTile h) (.broken h c false))
    match s.actingCtx p.hdr.sdev p.hdr.ctx p.peer with
    | none => refuse s Code.badTarget
    | some c =>
      if (s.ctx c).state.suspended then
        match s.holdArrival c p true with
        | some s1 => .next s1
        | none => refuse s Code.suspended
      else if s.gone c then refuse s Code.ctxDead
      else match s.createLocal tile c pc (payloadRegs pl) pri sid (some h) with
        | (s1, .ok _) => .next (s1.accepted p)
        | (s1, .error code) => refuse s1 code
  | _ => .next s

/-- WAITER_RECORD_ARRIVAL: the record of an INVOKEH reaches the home of its handle (R228, R232, R234); a record that waits at its order point stays
there while the context is suspended. -/
def execWaiterRecordArrival (p : Packet) (s : State) : Out :=
  match p.body with
  | .waiter h _ _ _ _ fed =>
    let tile := p.hdr.tile.toNat
    let c := handleCtx h
    inTurn s h (.waiterRecordArrival p) <|
    if (s.ctx c).state.suspended then
      if (s.tile tile).hold2.contains (.waiterRecordArrival p) then .next s
      else match s.holdArrival c p true with
      | some s1 => .next s1
      | none => .next ((s.accepted p).breakHandle tile p.hdr.ctx fed Code.suspended false)
    else .next (((if p.acked then s.performedO p else s.reply p 0 .ack)).waiterArrives tile { p with acked := true } h fed)
  | _ => .next s

/-- FULFILMENT_ARRIVAL: the home entry is fulfilled and its records are forwarded; for a broken or stale handle it is discarded (R226, R229). -/
def execFulfilmentArrival (p : Packet) (s : State) : Out :=
  match p.body with
  | .fulfil h v poison dev tl =>
    let c := handleCtx h
    if (s.ctx c).state.suspended then
      match s.holdArrival c p true with
      | some s1 => .next (s1.unhold p.hdr.tile.toNat (.fulfilmentArrival p))
      | none => .next (s.keepHeld p.hdr.tile.toNat (.fulfilmentArrival p))
    else
      let s1 := (s.accepted p).unhold p.hdr.tile.toNat (.fulfilmentArrival p)
      match s1.lookup h with
      | some (_, u) => .next (if u.pending then s1.fulfilEntry (handleTile h) (handleSlot h) v poison dev tl else s1)
      | none => .next s1
  | _ => .next s

/-- SUCCESSOR_CREATE: the successor starts on the location tile, in the context that its issuer has here; the home learns its place (R228, R232). -/
def execSuccessorCreate (p : Packet) (s : State) : Out :=
  match p.body with
  | .successor pc g0 p0 pl pri sid fed odev octx =>
    let tile := p.hdr.tile.toNat
    let tell (s : State) (b : Body) : Out := .next ((s.accepted p).homeSend tile octx none (handleDev fed) (handleTile fed) b)
    match s.actingCtx odev octx p.peer with
    | none => tell s (.broken fed Code.badTarget false)
    | some c =>
      if (s.ctx c).state.suspended then
        match s.holdArrival c p true with
        | some s1 => .next s1
        | none => tell s (.broken fed Code.suspended false)
      else if s.gone c then tell s (.broken fed Code.ctxDead false)
      else
        let regs := [fullReg g0 p0, fullReg pl.g1 pl.p1, fullReg pl.g2 pl.p2, fullReg pl.g3 pl.p3, fullReg pl.g0 pl.p0]
        match s.createLocal tile c pc regs pri sid (some fed) with
        | (s1, .ok _) => tell s1 (.location fed s.fabSelf (BitVec.ofNat 11 tile))
        | (s1, .error code) => tell s1 (.broken fed code false)
  | _ => .next s

/-- What HGET and HTEST find at a home: an answer, or none while the handle is pending. The flag says whether it is a broken status. -/
inductive Found where
  | value (v : Word) (poison : Bool)
  | broken (v : Word)
  | wait
  deriving DecidableEq, Repr

def State.readHandle (s : State) (h : Word) : Found :=
  if handleNull h then .broken (status (handleCause h))
  else match s.lookup h with
    | none => .broken (status Code.stale)
    | some (_, .fulfilled v p) => .value v p
    | some (x, .broken c) => .broken (x.statusWord (.broken c))
    | some _ => .wait

/-- The status word that HTEST reads at a home. -/
def State.testHandle (s : State) (h : Word) : Word :=
  if handleNull h then status (handleCause h)
  else match s.lookup h with
    | none => status Code.stale
    | some (x, u) => x.statusWord u

/-- The home of a request on a handle: its context, or none when the handle is stale there. -/
def State.homeCtx (s : State) (h : Word) : Option (BitVec 6) := (s.lookup h).map fun p => p.1.ctx

/-- HGET_REQUEST (R230, R234). A request that its home keeps is accepted, which its sender learns (R124, entry 21). A home tile in a disabled or absent cluster holds no handles: the answer is STALE there. DESIGN CHOICE (entry 61), as for
HTEST, HDROP and waiter records. -/
def execHgetRequest (p : Packet) (s : State) : Out :=
  match p.body with
  | .hget h =>
    let tile := p.hdr.tile.toNat
    inTurn s h (.hgetRequest p) <|
    if (s.ctx (handleCtx h)).state.suspended then
      .next ((s.holdArrival (handleCtx h) p true).getD (s.reply p 0 (.data (status Code.suspended) false [])))
    else match s.lookup h with
      | none => .next (s.reply p 0 (.status (match s.readHandle h with | .broken v => v | _ => status Code.stale)))
      | some (x, _) =>
        if !s.peerOk p x.ctx then .next (s.reply p 0 (.status (status Code.badTarget)))
        else match s.readHandle h with
          | .value v poison => .next (s.reply p 0 (.data v poison []))
          | .broken v => .next (s.reply p 0 (.status v))
          | .wait => match s.freeEntry? tile with
            | none => .next (s.reply p 0 (.data (status Code.refused) false []))
            | some r =>
              let s1 := (s.accepted p).setHrt tile r { s.hrt tile r with ctx := x.ctx, use := some (.waiter p (handleSlot h)) }
              .next (s1.joinChain tile (handleSlot h) r)
  | _ => .next s

/-- HTEST_REQUEST (R231, R234). -/
def execHtestRequest (p : Packet) (s : State) : Out :=
  match p.body with
  | .htest h =>
    inTurn s h (.htestRequest p) <|
    if (s.ctx (handleCtx h)).state.suspended then
      .next ((s.holdArrival (handleCtx h) p false).getD (s.reply p 0 (.data (status Code.suspended) false [])))
    else match s.lookup h with
      | some (x, _) => .next (s.reply p 0 (.data (if s.peerOk p x.ctx then s.testHandle h else status Code.badTarget) false []))
      | none => .next (s.reply p 0 (.data (s.testHandle h) false []))
  | _ => .next s

/-- HDROP and HCANCEL as they act at the home tile. -/
def State.dropHandle (s : State) (h : Word) : State :=
  match s.lookup h with
  | some (x, _) => (s.setHrt (handleTile h) (handleSlot h) { x with dropped := true }).settleEntry (handleTile h) (handleSlot h)
  | none => s
def State.cancelHandle (s : State) (h : Word) : State :=
  match s.lookup h with
  | some _ => s.breakEntry chainFuel (handleTile h) (handleSlot h) Code.cancelled false
  | none => s
def State.peerHandle (s : State) (p : Packet) (h : Word) : Bool :=
  match s.lookup h with
  | some (x, _) => s.peerOk p x.ctx
  | none => false

/-- HDROP_REQUEST (R226, R231, R234). -/
def execHdropRequest (p : Packet) (s : State) : Out :=
  match p.body with
  | .hdrop h =>
    inTurn s h (.hdropRequest p) <|
    if (s.ctx (handleCtx h)).state.suspended then
      .next ((s.holdArrival (handleCtx h) p true).getD (s.reply p 0 (.error Code.suspended)))
    else let s1 := s.accepted p
      .next (if s1.peerHandle p h then s1.dropHandle h else s1)
  | _ => .next s

/-- An HCANCEL acts at the home of its handle (R226, R231, R234). -/
def State.cancelArrives (s : State) (p : Packet) (h : Word) : State :=
  if (s.ctx (handleCtx h)).state.suspended then (s.holdArrival (handleCtx h) p true).getD (s.reply p 0 (.error Code.suspended))
  else match s.accepted p with
    | s1 => if s1.peerHandle p h then s1.cancelHandle h else s1

/-- HCANCEL_REQUEST: it acts when its cycle is over, so that a fulfilment of the cycle is applied first (R226, R235). -/
def execHcancelRequest (p : Packet) (s : State) : Out :=
  match p.body with
  | .hcancel h => .next (s.later h (.hcancelRequest p))
  | _ => .next s

/-- LOCATION_UPDATE: the entry runs at a new place (R226, R233). -/
def execLocationUpdate (p : Packet) (s : State) : Out :=
  match p.body with
  | .location h dev tl =>
    let s1 := s.accepted p
    match s1.lookup h with
    | some (x, u) => .next (if u.pending then s1.setHrt (handleTile h) (handleSlot h) { x with use := some .running, dev, tile := tl } else s1)
    | none => .next s1
  | _ => .next s

/-- HANDLE_BREAK_ARRIVAL: the entry breaks with the cause (R226). -/
def execHandleBreakArrival (p : Packet) (s : State) : Out :=
  match p.body with
  | .broken h cause derived =>
    let s1 := s.accepted p
    match s1.lookup h with
    | some _ => .next (s1.breakEntry chainFuel (handleTile h) (handleSlot h) cause derived)
    | none => .next s1
  | _ => .next s

/-- Handles that run on a device which is no longer reachable break with PEER_LOST (R226). -/
def State.breakLost (s : State) (dev : BitVec 11) : State :=
  s.tiles.foldl (fun s p => p.2.hrt.foldl (fun s q =>
    match q.2.use with
    | some .running => if q.2.dev = dev then s.breakEntry chainFuel p.1 q.1 Code.peerLost false else s
    | _ => s) s) s

/-! ### Arrivals that act later (R226, R234) -/

/-- The state after an arrival that has waited acts; one that no handle concerns goes on its way. -/
def State.arrives (s : State) (e : Instr) : State :=
  let r : Out := match e with
    | .spawnRequest p => execSpawnRequest p s
    | .invokeRequest p => execInvokeRequest p s
    | .waiterRecordArrival p => execWaiterRecordArrival p s
    | .successorCreate p => execSuccessorCreate p s
    | .fulfilmentArrival p => execFulfilmentArrival p s
    | .hgetRequest p => execHgetRequest p s
    | .htestRequest p => execHtestRequest p s
    | .hdropRequest p => execHdropRequest p s
    | .hcancelRequest p => (match p.body with
      | .hcancel h => .next (s.cancelArrives p h)
      | _ => .next s)
    | e => .next (s.cause e)
  match r with
  | .next s1 => s1
  | _ => s

/-- The cycle is over: the HCANCELs that came in it act, and the arrivals behind them (R226, R235). -/
def State.settleLate (s : State) : State :=
  s.tiles.foldl (fun s p => if p.2.late.isEmpty then s else p.2.late.foldl State.arrives (s.setTile p.1 { s.tile p.1 with late := [] })) s

end Sys2Proof.Machine
end

