-- ==== Sys2Proof/Machine/Flags.lean ====
section
/-! DEFINITION. Comparison, minimum and maximum with the events they count (R48, R151, R152). -/

namespace Sys2Proof.Machine.Fp
open Sys2Proof Sys2Proof.Machine

/-- The place of a code that is no NaN in numerical order; +0 and -0 share it. -/
def Fmt.key (f : Fmt) (code : Nat) : Int :=
  let c : Int := (code % 2 ^ (f.bits - 1) : Nat)
  if code / 2 ^ (f.bits - 1) % 2 = 1 then -c else c

/-- The order of R151, in which -0 is less than +0. -/
def Fmt.lessMin (f : Fmt) (x y : Nat) : Bool :=
  f.key x < f.key y || (f.key x == f.key y && x / 2 ^ (f.bits - 1) % 2 == 1 && y / 2 ^ (f.bits - 1) % 2 == 0)

/-- FP conditions (R48). -/
def holds (f : Fmt) (c : FpCond) (x y : Nat) : Bool :=
  let un := (f.decode x).isNan || (f.decode y).isNan
  match c with
  | .eq => !un && f.key x == f.key y
  | .ne => un || f.key x != f.key y
  | .lt => !un && f.key x < f.key y
  | .le => !un && f.key x ≤ f.key y
  | .gt => !un && f.key y < f.key x
  | .ge => !un && f.key y ≤ f.key x
  | .un => un
  | .ord => !un

/-- The invalid events of a comparison (R152). -/
def cmpInvalid (f : Fmt) (c : FpCond) (x y : Nat) : Bool :=
  let sig := (f.decode x).isSig || (f.decode y).isSig
  let un := (f.decode x).isNan || (f.decode y).isNan
  match c with
  | .eq | .ne | .un | .ord => sig
  | .lt | .le | .gt | .ge => un

/-- minimumNumber and maximumNumber: R151, left column. -/
def minMaxNum (f : Fmt) (max : Bool) (x y : Nat) : Nat × List Nat :=
  let a := f.decode x
  let b := f.decode y
  let inv := invIf (a.isSig || b.isSig)
  if a.isNan && b.isNan then (f.nanCode, inv)
  else if a.isNan then (y, inv)
  else if b.isNan then (x, inv)
  else (if f.lessMin x y == max then y else x, inv)

/-- minimum and maximum: R151, right column. -/
def minMax (f : Fmt) (max : Bool) (x y : Nat) : Nat × List Nat :=
  let a := f.decode x
  let b := f.decode y
  if a.isNan || b.isNan then (f.nanCode, invIf (a.isSig || b.isSig))
  else (if f.lessMin x y == max then y else x, [])

end Sys2Proof.Machine.Fp
end

