-- ==== Sys2Proof/Machine/Mill.lean ====
section
/-! DEFINITION. The Millstone and its accumulator tiles: innings, chains, commands, their completion, and the Tailrace's turns (R159 to R180, R184, R185). -/

namespace Sys2Proof.Machine
open Sys2Proof

/-! ### Innings and chains -/

def Lease.heldBy (l : Lease) (tile slot : Nat) (t : Thread) : Bool := l.tile == tile && l.slot == slot && l.inst == t.inst && l.ctx == t.ctx

/-- The innings in force, if the thread holds it: acceptance in the cycle of its expiry counts (R177). -/
def State.innings (s : State) (tile slot : Nat) (t : Thread) : Option Lease :=
  match (s.cluster (clusterOf tile)).innings with
  | some l => if l.heldBy tile slot t && s.cycle ≤ l.cycle + l.budget then some l else none
  | none => none

/-- The value of CHAIN_OPEN (R175). -/
def chainValue (sub : Nat) (pc : Pc) : Word := BitVec.ofNat 16 sub ++ pc
/-- The value of NO_OWN (R175). -/
def ownValue (reason : Nat) (t : BitVec 3) : Word := BitVec.ofNat 64 (reason * 256 + t.toNat)

/-- The innings ends, and an open chain is discarded (R163). -/
def State.endInnings (s : State) (cl : Nat) : State := s.setCluster cl { s.cluster cl with innings := none, chain := none }

/-- A counted command is accepted: the innings ends with its n-th (R163). -/
def Cluster.accept (c : Cluster) (l : Lease) : Cluster :=
  { c with innings := if l.cmds ≤ 1 then none else some { l with cmds := l.cmds - 1 } }

/-- Counted commands, which a grant follows in command order (R163, R165). -/
def MillCmd.counted : MillCmd → Bool
  | .asave .. | .aload .. => false
  | _ => true

/-- Grants whose earlier commands have completed take effect: planes and scale memory become empty (R165). -/
def Cluster.settle (c : Cluster) (seen : List MillQueued) : List MillQueued → Cluster
  | [] => { c with queue := seen.reverse }
  | q :: rest =>
    if q.cmd = .grant && !seen.any (·.cmd.counted) then
      { c with planes := [], scale := [], scalePoison := [] }.settle seen rest
    else c.settle (q :: seen) rest
def Cluster.settled (c : Cluster) : Cluster := c.settle [] c.queue

def Cluster.push (c : Cluster) (cmd : MillCmd) (who : Issuer) (pages : List (Nat × Nat)) : Cluster :=
  { c with queue := c.queue ++ [(⟨cmd, who, false, pages⟩ : MillQueued)] }.settled

/-- The format a plane will hold when the commands accepted so far have completed: none when it holds no weights (R172, check 5). -/
def Cluster.planeFmt (c : Cluster) (p : Bool) : Option WFmt :=
  (c.queue.foldl (fun f q => match q.cmd with
    | .wld g pl _ _ _ => if pl = p then some g else f
    | .grant => none
    | _ => f) ((Tab.find c.planes p.toNat).map (·.fmt)))

/-- Place of a request among those of its cycle: tile, then slot (R162). -/
def Lease.key (l : Lease) : Nat := (l.cycle * 2048 + l.tile) * 256 + l.slot

/-- LEASE: a request joins the grant queue; the limit is the one in force since the last grant (R161, R166). -/
def execLease (d : GReg) (nm1 : BitVec 8) (s : State) : Out :=
  let i := Instr.lease d nm1
  issue s i false [] [] [d] fun t =>
    let cl := clusterOf s.cur.1
    let c := s.cluster cl
    let n := nm1.toNat + 1
    if (s.innings s.cur.1 s.cur.2 t).isSome || c.grants.any (·.heldBy s.cur.1 s.cur.2 t) then done s (t.write d (status Code.leaseHeld) false) i
    else if c.cmdsNow < n then done s (t.write d (status Code.overLimit) false) i
    else
      let l : Lease := { tile := s.cur.1, slot := s.cur.2, inst := t.inst, ctx := t.ctx, sid := t.sid, tag := BitVec.ofNat 16 t.icount, d, n, cycle := s.cycle,
                         cmds := n, budget := 0 }
      done (s.setCluster cl { c with grants := insertBy Lease.key l c.grants }) (t.markEmpty d (.lease n)) i

/-- The contender of a LEASE (R237). -/
def Lease.contender (l : Lease) : Contender := ⟨l.sid, l.tag, l.tile, l.slot, some l.ctx⟩

/-- The first request of an earlier cycle that its site admits, and the state after the decisions (R162, R236). A suspended context's requests are passed
over, but not in the cycle of the stop, in which a grant stands (R178). -/
def State.nextGrant (s : State) (cl : Nat) : List Lease → State × Option Lease
  | [] => (s, none)
  | l :: rest =>
    if ((s.ctx l.ctx).state.suspended && (s.ctx l.ctx).stopAt != some s.cycle) || s.cycle ≤ l.cycle then s.nextGrant cl rest
    else match s.decideAt l.ctx 10 (siteOf (tileId cl 0) 0) l.contender with
      | .go s1 => (s1, some l)
      | .hold s1 | .room s1 => s1.nextGrant cl rest

/-- LEASE_GRANT: with no innings in force, the next request is granted, and gd is filled with n; what was written to mill.innings_max takes effect
(R161, R162, R165, R166). -/
def execLeaseGrant (cluster : Nat) (s : State) : Out :=
  let c := s.cluster cluster
  if c.innings.isSome then .next s
  else match s.nextGrant cluster c.grants with
    | (s1, none) => .next s1
    | (s1, some l) =>
      let l1 := { l with cycle := s.cycle, budget := c.inningsCycles }
      let who : Issuer := ⟨l.ctx, l.tile, l.slot, l.inst, 0, 0, l.tile, l.slot, l.inst⟩
      let c1 := { c with grants := c.grants.erase l, innings := some l1, cmdsNow := c.inningsCmds }.push .grant who []
      .next ((s1.setCluster cluster c1).fill l.tile l.slot l.inst l.d (.lease l.n) (BitVec.ofNat 64 l.n) false)

/-- INNINGS_EXPIRY: the cycle in which B cycles have passed since the grant is over (R177); an open chain is discarded and CHAIN_OPEN 1 is held for the holder (R163). -/
def execInningsExpiry (cluster : Nat) (s : State) : Out :=
  let c := s.cluster cluster
  match c.innings with
  | none => .next s
  | some l =>
    if l.cycle + l.budget < s.cycle then
      let s1 := s.endInnings cluster
      match c.chain with
      | none => .next s1
      | some ch => match s1.thread? l.tile l.slot with
        | some t => if t.inst = l.inst then .next (s1.hold l.tile l.slot (.chainOpen (chainValue 1 ch.pc))) else .next s1
        | none => .next s1
    else .next s

/-- What LFREE does to the cluster: the end of the thread's innings, and the PC of a chain that it discards (R164). -/
def State.lfree (s : State) (tile slot : Nat) (t : Thread) : State × Option Pc :=
  match s.innings tile slot t with
  | none => (s, none)
  | some _ => (s.endInnings (clusterOf tile), (s.cluster (clusterOf tile)).chain.map (·.pc))

/-- LFREE (R164). -/
def execLfree (s : State) : Out :=
  issue s .lfree false [] [] [] fun t =>
    match s.lfree s.cur.1 s.cur.2 t with
    | (s1, none) => done s1 t .lfree
    | (s1, some pc) => trapAfter s1 t .lfree Cause.chainOpen (chainValue 1 pc)

/-! ### Accumulator tiles (R167) -/

def Cluster.tileOf (c : Cluster) (t : BitVec 3) : AccTile := Tab.get AccTile.reset c.acc t.toNat
def Cluster.setTile (c : Cluster) (t : BitVec 3) (x : AccTile) : Cluster := { c with acc := Tab.put c.acc t.toNat x }
def AccTile.row (x : AccTile) (r : Nat) : BitVec 8192 := Tab.get 0 x.rows r
def AccTile.setRow (x : AccTile) (r : Nat) (v : BitVec 8192) (p : Bool) : AccTile :=
  { x with rows := Tab.put x.rows r v, poison := if p then x.poison ||| BitVec.ofNat 64 (2 ^ r) else x.poison &&& ~~~BitVec.ofNat 64 (2 ^ r) }

def AccTile.ownedBy (x : AccTile) (tile slot : Nat) (t : Thread) : Bool := x.owner == some (tile, slot, t.inst)

/-- The tile a queued command uses: CHE, ASAVE, ALOAD. -/
def MillCmd.accTile : MillCmd → Option (BitVec 3)
  | .che _ _ _ _ _ _ t _ _ _ | .asave t _ _ | .aload t _ _ => some t
  | _ => none

/-- A CHE, ASAVE or ALOAD on a tile is pending (R177). -/
def Cluster.tilePending (c : Cluster) (t : BitVec 3) : Bool := c.queue.any fun q => q.cmd.accTile == some t
/-- A reduction that reads a tile is pending (R335). -/
def Cluster.vredPending (c : Cluster) (t : BitVec 3) : Bool := c.vreqs.any (fun r => match r with | .vred v => v.tileNo == t | .turn .. => false) || c.vred.any (·.tileNo == t)
def Cluster.tilesFree (c : Cluster) (ts : List (BitVec 3)) : Bool := !ts.any fun t => c.tilePending t || c.vredPending t

/-- AOWN (R167). -/
def execAown (at' : BitVec 3) (ty : TileTy) (s : State) : Out :=
  let i := Instr.aown at' ty
  issue s i false [] [] [] fun t =>
    let cl := clusterOf s.cur.1
    let c := s.cluster cl
    let x := c.tileOf at'
    match x.owner with
    | none => done (s.setCluster cl (c.setTile at' ⟨some (s.cur.1, s.cur.2, t.inst), ty, [], 0⟩)) t i
    | some _ =>
      if !x.ownedBy s.cur.1 s.cur.2 t then trapBefore s t i Cause.noOwn (ownValue 1 at')
      else if !c.tilesFree [at'] then block s t (.tiles [at'])
      else done (s.setCluster cl (c.setTile at' { x with ty })) t i

/-- AFREE (R167). -/
def execAfree (at' : BitVec 3) (s : State) : Out :=
  let i := Instr.afree at'
  issue s i false [] [] [] fun t =>
    let cl := clusterOf s.cur.1
    let c := s.cluster cl
    let x := c.tileOf at'
    if !x.ownedBy s.cur.1 s.cur.2 t then trapBefore s t i Cause.noOwn (ownValue 0 at')
    else if !c.tilesFree [at'] then block s t (.tiles [at'])
    else done (s.setCluster cl (c.setTile at' AccTile.reset)) t i

/-- The accumulator tiles that a thread owns. -/
def State.owned (s : State) (tile slot : Nat) (t : Thread) : List (BitVec 3) :=
  ([0, 1, 2, 3, 4, 5, 6, 7] : List (BitVec 3)).filter fun k => ((s.cluster (clusterOf tile)).tileOf k).ownedBy tile slot t

/-! ### Addresses (R160) -/

/-- Translates n bytes at an address, 64 KiB at a time: the pieces, or the cause and the first address that fails. Translation, permission and the
cluster are checked piece by piece, in ascending order: DESIGN CHOICE (entry 83). -/
def State.span (s : State) (w : Issuer) (k : Access3) : Nat → Word → Nat → State × Except (BitVec 8 × Word) Span
  | 0, _, _ => (s, .ok [])
  | fuel + 1, va, n =>
    if n = 0 then (s, .ok [])
    else
      let len := min n (65536 - va.toNat % 65536)
      match s.access w k false va with
      | (s1, .error c) => (s1, .error (c, va))
      | (s1, .ok pa) =>
        if clusterOf (paTile pa) ≠ clusterOf w.tile then (s1, .error (Cause.prot, va))
        else match s1.span w k fuel (va + BitVec.ofNat 64 len) (n - len) with
          | (s2, .error e) => (s2, .error e)
          | (s2, .ok r) => (s2, .ok ((pa, len) :: r))

/-- The pieces of a range that the current thread's command names, or the trap. -/
def spanMe (s : State) (t : Thread) (i : Instr) (k : Access3) (va : Word) (n : Nat) (f : State → Thread → Span → Out) : Out :=
  match s.span (s.who t) k (n / 65536 + 2) va n with
  | (s1, r) => match s1.me with
    | none => .refused .noThread
    | some t1 => match r with
      | .error (c, v) => trapBefore s1 t1 i c v
      | .ok sp => f s1 t1 sp

/-- The physical address of byte k of a span. -/
def Span.at : Span → Nat → Nat
  | [], _ => 0
  | (pa, len) :: r, k => if k < len then pa + k else Span.at r (k - len)

/-- The addresses at which a range of n bytes enters a page of 64 KiB. -/
def pageStarts (va : Word) (n : Nat) : List Word :=
  va :: (List.range ((va.toNat % 65536 + n - 1) / 65536)).map fun k => BitVec.ofNat 64 ((va.toNat / 65536 + k + 1) * 65536)

/-- The pages through which the current thread has just translated addresses (R111). -/
def State.pagesMe (s : State) (t : Thread) (vas : List Word) : List (Nat × Nat) := (vas.map fun va => s.pageAt s.cur.1 t.ctx va).eraseDups

/-- Reads a span. -/
def State.readSpan (s : State) : Span → State × List Byte × Bool
  | [] => (s, [], false)
  | (pa, len) :: r => match s.readBytes pa len with
    | (s1, bs, p) => match s1.readSpan r with
      | (s2, cs, q) => (s2, bs ++ cs, p || q)

/-- Writes bytes over a span. -/
def State.writeSpan (s : State) : Span → List Byte → State
  | [], _ => s
  | (pa, len) :: r, bs => (s.writeBytes pa (bs.take len) false).writeSpan r (bs.drop len)

/-! ### Commands -/

/-- NO_LEASE for a counted command of a thread that holds no innings (R163). -/
def withInnings (s : State) (t : Thread) (i : Instr) (opcode : Nat) (k : Lease → Out) : Out :=
  match s.innings s.cur.1 s.cur.2 t with
  | none => trapBefore s t i Cause.noLease (BitVec.ofNat 64 opcode)
  | some l => k l

/-- CHAIN_OPEN 8 for an SCLD or WLD that would starve the open chain (R163). -/
def unstarved (s : State) (t : Thread) (i : Instr) (l : Lease) (k : Out) : Out :=
  match (s.cluster (clusterOf s.cur.1)).chain with
  | some ch => if ch.expect - ch.issued + 1 ≤ l.cmds - 1 then k else trapBefore s t i Cause.chainOpen (chainValue 8 ch.pc)
  | none => k

/-- A counted command is accepted and joins the queue. -/
def acceptMill (s : State) (t : Thread) (i : Instr) (l : Lease) (cmd : MillCmd) (vas : List Word) : Out :=
  let cl := clusterOf s.cur.1
  done (s.setCluster cl (((s.cluster cl).accept l).push cmd (s.who t) (s.pagesMe t vas))) t i

/-- SCLD (R169). -/
def execScld (te : Bool) (a b : GReg) (soff : BitVec 10) (k : BitVec 8) (s : State) : Out :=
  let i := Instr.scld te a b soff k
  issue s i false [⟨a, te⟩, ⟨b, te⟩] [] [] fun t =>
    withInnings s t i 0x44 fun l => unstarved s t i l (
      let ga := t.val a
      let gb := t.val b
      if ga.toNat % 64 ≠ 0 then trapBefore s t i Cause.align ga
      else if gb.toNat % 64 ≠ 0 then trapBefore s t i Cause.align gb
      else if gb.toNat < 64 || 65536 < gb.toNat + 64 * soff.toNat then trapBefore s t i Cause.prot gb
      else spanMe s t i .read ga gb.toNat fun s1 t1 sp =>
        poisonCheck s1 t1 i [a, b] (acceptMill s1 t1 i l (.scld sp soff.toNat k) (pageStarts ga gb.toNat)))

/-- Bytes of a weight image (R170). -/
def WFmt.columnBytes : WFmt → Nat
  | .int3 => 48
  | .int4 => 64
  | .e4m3 => 128
  | .bf16 => 256

/-- WLD (R170). -/
def execWld (te : Bool) (f : WFmt) (plane : Bool) (a : GReg) (soff zoff : BitVec 12) (s : State) : Out :=
  let i := Instr.wld te f plane a soff zoff
  issue s i false [⟨a, te⟩] [] [] fun t =>
    withInnings s t i 0x45 fun l => unstarved s t i l (
      let ga := t.val a
      if ga.toNat % 64 ≠ 0 then trapBefore s t i Cause.align ga
      else spanMe s t i .read ga (256 * WFmt.columnBytes f) fun s1 t1 sp =>
        poisonCheck s1 t1 i [a] (acceptMill s1 t1 i l (.wld f plane sp soff.toNat zoff.toNat) (pageStarts ga (256 * WFmt.columnBytes f))))

/-- CHB (R171). -/
def execChb (te : Bool) (nm1 : BitVec 8) (a b : GReg) (s : State) : Out :=
  let i := Instr.chb te nm1 a b
  issue s i false [⟨a, te⟩, ⟨b, te⟩] [] [] fun t =>
    withInnings s t i 0x46 fun l =>
      let cl := clusterOf s.cur.1
      let c := s.cluster cl
      match c.chain with
      | some ch => trapBefore s t i Cause.chainOpen (chainValue 2 ch.pc)
      | none =>
        let n := nm1.toNat + 1
        if l.cmds < n + 2 then trapBefore s t i Cause.chainOpen (chainValue 3 t.pc)
        else poisonCheck s t i [a, b] (
          let ch : Chain := { number := c.chains + 1, pc := t.pc, expect := n, issued := 0, kind := none, bc := 127, mx := false,
                              gta := (t.val a).truncate 32, gtw := (t.val b).truncate 32 }
          done (s.setCluster cl { c.accept l with chain := some ch, chains := c.chains + 1 }) t i)

/-- The format pairs that the Millstone executes (R18). -/
def nativePair (w : WFmt) (a : AFmt) : Bool := w != .bf16 || a == .bf16

/-- K positions per row and the K offset of a k-step (R159). -/
def AFmt.kPerRow : AFmt → Nat
  | .fp4 | .mx4 => 128
  | .e4m3 | .e5m2 => 64
  | .bf16 => 32

/-- The indices of a gather, as read at acceptance: 16-bit values with the poison of their units. -/
def State.readIndices (s : State) (sp : Span) (m : Nat) : State × List (Nat × Bool) :=
  (List.range m).foldl (fun (r : State × List (Nat × Bool)) k =>
    match r.1.readBytes (Span.at sp (2 * k)) 2 with
    | (s1, bs, p) => (s1, r.2 ++ [(leNat bs, p)])) (s, [])

/-- Translates the rows of an MMA in order: an address for each row that is read, none for a zero row (R172). -/
def State.rowAddresses (s : State) (w : Issuer) (base : Word) (stride limit : Nat) : List (Nat × Bool) → State × Except (BitVec 8 × Word) (List (Option Nat × Bool))
  | [] => (s, .ok [])
  | (x, p) :: rest =>
    let next (s1 : State) (r : Option Nat) := match s1.rowAddresses w base stride limit rest with
      | (s2, .error e) => (s2, Except.error e)
      | (s2, .ok l) => (s2, .ok ((r, p) :: l))
    if x = 0xFFFF || limit ≤ x then next s none
    else
      let va := base + BitVec.ofNat 64 (x * stride)
      match s.access w .read false va with
      | (s1, .error c) => (s1, .error (c, va))
      | (s1, .ok pa) => if clusterOf (paTile pa) ≠ clusterOf w.tile then (s1, .error (Cause.prot, va)) else next s1 (some pa)

/-- MMA (R172): the index list is read at acceptance, after the thread's earlier stores have been performed (R127, R176). -/
def execMma (te : Bool) (f : AFmt) (plane : Bool) (mm1 : BitVec 6) (a : GReg) (idx : Option (GReg × GReg)) (soff : BitVec 12) (k b sem : BitVec 8)
    (s : State) : Out :=
  let i := Instr.mma te f plane mm1 a idx soff k b sem
  let gs := [a] ++ (match idx with | some (x, y) => [x, y] | none => [])
  issue s i false (gs.map fun r => ⟨r, te⟩) [] [] fun t =>
    withInnings s t i 0x47 fun l =>
      let cl := clusterOf s.cur.1
      let c := s.cluster cl
      match c.chain with
      | none => trapBefore s t i Cause.chainOpen (chainValue 4 0)
      | some ch =>
        let bf := f == .bf16
        let base := t.val a
        let m := mm1.toNat + 1
        if ch.issued = ch.expect then trapBefore s t i Cause.chainOpen (chainValue 5 ch.pc)
        else if ch.kind = some (!bf) then trapBefore s t i Cause.chainOpen (chainValue 7 ch.pc)
        else match c.planeFmt plane with
        | none => trapBefore s t i Cause.illegal (instrValue i)
        | some w =>
          if !nativePair w f then trapBefore s t i Cause.illegal (instrValue i)
          else if base.toNat % 64 ≠ 0 then trapBefore s t i Cause.align base
          else
            let finish (s1 : State) (rs : List (Nat × Bool)) (stride limit : Nat) : Out :=
              match s1.rowAddresses (s1.who t) base stride limit rs with
              | (s2, r) => match s2.me with
                | none => .refused .noThread
                | some t2 => match r with
                  | .error (code, v) => trapBefore s2 t2 i code v
                  | .ok rows => poisonCheck s2 t2 i gs (
                    let first := f == .mx4 && !ch.mx
                    let ch1 := { ch with issued := ch.issued + 1, kind := some bf, bc := if first then b else ch.bc, mx := ch.mx || f == .mx4 }
                    let beyond := rs.any fun x => x.1 != 0xFFFF && decide (limit ≤ x.1)
                    let cmd := MillCmd.mma ch.number f plane rows soff.toNat k.toNat ch1.bc sem beyond
                    let c2 := s2.cluster cl
                    let vas := (rs.filter fun x => x.1 != 0xFFFF && decide (x.1 < limit)).map fun x => base + BitVec.ofNat 64 (x.1 * stride)
                    done (s2.setCluster cl ({ c2.accept l with chain := some ch1 }.push cmd (s2.who t2) (s2.pagesMe t2 vas))) t2 i)
            match idx with
            | none => finish s ((List.range m).map fun k => (k, false)) 64 0x10000
            | some (x, y) =>
              let gi := t.val x
              let st := t.val y
              if gi.toNat % 2 ≠ 0 then trapBefore s t i Cause.align gi
              else if st.toNat % 64 ≠ 0 then trapBefore s t i Cause.align st
              else if st.toNat / 2 ^ 48 ≠ 0 then trapBefore s t i Cause.prot st
              else spanMe s t i .read gi (2 * m) fun s1 t1 sp => releaseFirst s1 t1 .dev (
                match s1.readIndices sp m with
                | (s2, rs) => finish s2 rs (st.toNat % 2 ^ 32) (st.toNat / 2 ^ 32 % 2 ^ 16))

/-- CHE: the checks, the close of the chain, and the fold as a command (R174). Owner and type of the tile are those of its acceptance, also while an earlier
ALOAD of the tile is pending, for which the fold waits (R177): DESIGN CHOICE (entry 94). -/
def che (i : Instr) (te acc : Bool) (at' : BitVec 3) (mask : Option GReg) (sem : BitVec 8) (ev : Option (BitVec 8)) (s : State) : Out :=
  issue s i false (mask.toList.map fun r => ⟨r, te⟩) [] [] fun t =>
    withInnings s t i 0x48 fun l =>
      let cl := clusterOf s.cur.1
      let c := s.cluster cl
      match c.chain with
      | none => trapBefore s t i Cause.chainOpen (chainValue 4 0)
      | some ch =>
        let x := c.tileOf at'
        if ch.issued < ch.expect then trapBefore s t i Cause.chainOpen (chainValue 6 ch.pc)
        else if !x.ownedBy s.cur.1 s.cur.2 t then trapBefore s t i Cause.noOwn (ownValue 0 at')
        else if x.ty ≠ .fp32 then trapBefore s t i Cause.noOwn (ownValue 2 at')
        else
          let finish (s1 : State) (t1 : Thread) (sp : Option Span) (vas : List Word) : Out :=
            let c1 := s1.cluster cl
            let cmd := MillCmd.che ch.number (ch.kind == some true) ch.bc ch.gta ch.gtw acc at' sp sem ev
            done (s1.setCluster cl ({ c1.accept l with chain := none }.push cmd (s1.who t1) (s1.pagesMe t1 vas))) t1 i
          match mask with
          | none => finish s t none []
          | some m =>
            let gm := t.val m
            if gm.toNat % 64 ≠ 0 then trapBefore s t i Cause.align gm
            else spanMe s t i .read gm 2048 fun s1 t1 sp => poisonCheck s1 t1 i [m] (finish s1 t1 (some sp) (pageStarts gm 2048))

def execCheW (te acc : Bool) (at' : BitVec 3) (mask : Option GReg) (k : BitVec 8) (s : State) : Out :=
  che (.cheW te acc at' mask k) te acc at' mask k none s
def execCheL (te acc : Bool) (at' : BitVec 3) (mask : Option GReg) (k ev : BitVec 8) (s : State) : Out :=
  che (.cheL te acc at' mask k ev) te acc at' mask k (some ev) s

/-- Bytes of a tile image (R168). -/
def imageBytes : Nat := 65600

/-- ASAVE and ALOAD: ownership, alignment, and the whole image (R168). They need no innings. -/
def tileImage (i : Instr) (te : Bool) (at' : BitVec 3) (a : GReg) (k : Access3) (cmd : Span → MillCmd) (s : State) : Out :=
  issue s i false [⟨a, te⟩] [] [] fun t =>
    let cl := clusterOf s.cur.1
    let ga := t.val a
    if !((s.cluster cl).tileOf at').ownedBy s.cur.1 s.cur.2 t then trapBefore s t i Cause.noOwn (ownValue 0 at')
    else if ga.toNat % 64 ≠ 0 then trapBefore s t i Cause.align ga
    else spanMe s t i k ga imageBytes fun s1 t1 sp =>
      poisonCheck s1 t1 i [a] (done (s1.setCluster cl ((s1.cluster cl).push (cmd sp) (s1.who t1) (s1.pagesMe t1 (pageStarts ga imageBytes)))) t1 i)

def execAsave (te : Bool) (at' : BitVec 3) (a : GReg) (k : BitVec 8) (s : State) : Out :=
  tileImage (.asave te at' a k) te at' a .write (fun sp => .asave at' sp k) s
def execAload (te : Bool) (at' : BitVec 3) (a : GReg) (k : BitVec 8) (s : State) : Out :=
  tileImage (.aload te at' a k) te at' a .read (fun sp => .aload at' sp k) s

/-! ### When a command can complete (R127, R173, R176, R177) -/

/-- Whether a command must wait for an earlier one: commands execute in acceptance order but for what R176 relaxes, and CHE, ASAVE and ALOAD are
relaxed against nothing. -/
def MillCmd.after (c e : MillCmd) : Bool :=
  match c, e with
  | _, .grant => c.counted
  | .scld .., .scld .. | .scld .., .scales .. | .scld .., .wld .. | .scld .., .mma .. => true
  | .scales .., .scld .. | .scales .., .scales .. | .scales .., .wld .. | .scales .., .mma .. => true
  | .wld .., .scld .. | .wld .., .scales .. => true
  | .wld _ p .., .wld _ q .. | .wld _ p .., .mma _ _ q .. => p == q
  | .mma .., .scld .. | .mma .., .scales .. => true
  | .mma _ _ p .., .wld _ q .. => p == q
  | .mma n f .., .mma m .. => n != m || f == .bf16
  | .mma n .., .che m .. => n != m
  | .che .., _ | .asave .., _ | .aload .., _ => true
  | _, _ => false

/-- The command at a place of the queue, if nothing before it holds it back and its thread's earlier stores are performed. -/
def State.millReady (s : State) (cl k : Nat) : Option MillQueued :=
  let q := (s.cluster cl).queue
  match q[k]? with
  | some x => if (q.take k).all (fun e => !x.cmd.after e.cmd) && s.storesDone x.who then some x else none
  | none => none

/-- The slots in which the banks serve a command (R101): none for one that reads and writes no bank. -/
def MillCmd.slotClass : MillCmd → Option SlotClass
  | .scld .. | .wld .. => some .millstone
  | .mma _ _ _ rows .. => if rows.any (·.1.isSome) then some .millstone else none
  | .che _ _ _ _ _ _ _ mask _ _ => mask.map fun _ => .tailrace
  | .asave .. | .aload .. => some .tailrace
  | .scales .. | .grant => none

/-- The command at a place of the queue, if it is ready and the slot of the cycle is its class's. What it reads and writes in the slots of many cycles
stands in one: DESIGN CHOICE (entry 17). -/
def State.millNow (s : State) (cl k : Nat) : Option MillQueued :=
  (s.millReady cl k).filter fun x => x.cmd.slotClass.all (· == Machine.slotClass s.cycle)

/-- Removes the command at a place of the queue. -/
def State.popMill (s : State) (cl k : Nat) : State :=
  s.setCluster cl { s.cluster cl with queue := (s.cluster cl).queue.eraseIdx k }.settled

/-- The completion of a command: it leaves the queue, and its semaphore is signalled. -/
def State.endMill (s : State) (cl k : Nat) (who : Issuer) (sem : BitVec 8) (classes : List Nat) : State :=
  ((s.popMill cl k).countAll who classes).signal who.tile sem.toNat 1

/-! ### Scale memory -/

def Cluster.scaleByte (c : Cluster) (b : Nat) : Nat := (Tab.get (0 : BitVec 512) c.scale (b / 64 % 1024)).toNat / 2 ^ (8 * (b % 64)) % 256
def Cluster.scaleBad (c : Cluster) (b : Nat) : Bool := Tab.get false c.scalePoison (b / 64 % 1024)
def Cluster.setLine (c : Cluster) (n : Nat) (v : BitVec 512) (p : Bool) : Cluster :=
  { c with scale := Tab.put c.scale (n % 1024) v, scalePoison := if p then Tab.put c.scalePoison (n % 1024) true else Tab.drop c.scalePoison (n % 1024) }

/-- Copies lines of 64 bytes from memory into scale memory. -/
def State.copyLines (s : State) (cl : Nat) (sp : Span) (line : Nat) : List Nat → State
  | [] => s
  | k :: ks => match s.readBytes (Span.at sp (64 * k)) 64 with
    | (s1, bs, p) => (s1.setCluster cl ((s1.cluster cl).setLine (line + k) (BitVec.ofNat 512 (leNat bs)) p)).copyLines cl sp line ks

def Span.bytes (sp : Span) : Nat := sp.foldl (fun n p => n + p.2) 0

/-- SCLD_COMPLETE: the copy, and Signal(s, 1); or the scale-memory write of a VQNT (R169, R191). -/
def execScldComplete (cluster k : Nat) (s : State) : Out :=
  match s.millNow cluster k with
  | some ⟨.scld sp line sem, who, _, _⟩ =>
    .next ((s.copyLines cluster sp line (List.range (Span.bytes sp / 64))).endMill cluster k who sem [])
  | some ⟨.scales soff b p, _, _, _⟩ =>
    let c := s.cluster cluster
    let old := Tab.get (0 : BitVec 512) c.scale (soff / 4 % 1024)
    let sh := 128 * (soff % 4)
    let v := (old &&& ~~~(BitVec.ofNat 512 ((2 ^ 128 - 1) * 2 ^ sh))) ||| BitVec.ofNat 512 (b.toNat * 2 ^ sh)
    .next ((s.setCluster cluster (c.setLine (soff / 4) v (p || c.scaleBad (16 * soff)))).popMill cluster k)
  | _ => .next s

/-! ### Weights (R136, R137, R139, R170) -/

/-- A finite value as a multiple of 2^u; none for NaN and infinity. -/
def unitsOfV (u : Int) : Fp.V → Option Int
  | .fin neg m e => some (Fp.units neg m e u)
  | _ => none

/-- An E4M3 code as a multiple of 2^-9. -/
def e4m3Units (c : Nat) : Option Int := unitsOfV (-9) (Fp.e4m3.decode c)

/-- Element k of a little-endian string of w-bit elements (R137). -/
def element (w str k : Nat) : Nat := str / 2 ^ (w * k) % 2 ^ w

/-- The zero point of a group (R169). -/
def Cluster.zeroPoint (c : Cluster) (f : WFmt) (zoff g : Nat) : Nat :=
  let n := c.scaleByte (16 * zoff + g / 2) / (if g % 2 = 0 then 1 else 16) % 16
  if f = .int3 then n % 8 else n

/-- One weight of a column, in units of 2^-18. -/
def Cluster.weight (c : Cluster) (f : WFmt) (soff zoff j str k : Nat) : Option Int :=
  let g := 256 * (k / 32) + j
  let sc := e4m3Units (c.scaleByte (16 * soff + g))
  match f with
  | .int3 | .int4 =>
    let q := element (if f = .int3 then 3 else 4) str k
    sc.map fun x => ((q : Int) - (c.zeroPoint f zoff g : Int)) * x * 2 ^ 9
  | .e4m3 => match e4m3Units (element 8 str k), sc with
    | some a, some b => some (a * b)
    | _, _ => none
  | .bf16 => none

/-- The plane that an image gives. -/
def Cluster.loadPlane (c : Cluster) (f : WFmt) (soff zoff : Nat) (bs : List Byte) (poison : Bool) : Plane :=
  let n := WFmt.columnBytes f
  let strs := (List.range 256).map fun j => (j, leNat ((bs.drop (n * j)).take n))
  { fmt := f
    cols := if f = .bf16 then [] else strs.map fun (j, x) => (List.range 128).map (c.weight f soff zoff j x ·)
    bits := if f = .bf16 then strs.map fun (_, x) => (List.range 128).map fun k => BitVec.ofNat 16 (element 16 x k) else []
    poison }

/-- The scale bytes that a WLD reads are poisoned. -/
def Cluster.groupsBad (c : Cluster) (f : WFmt) (soff zoff : Nat) : Bool :=
  (f != .bf16 && (List.range 17).any fun k => c.scaleBad (16 * soff + min (64 * k) 1023)) ||
  ((f == .int3 || f == .int4) && (List.range 9).any fun k => c.scaleBad (16 * zoff + min (64 * k) 511))

/-- WLD_COMPLETE (R170). -/
def execWldComplete (cluster k : Nat) (s : State) : Out :=
  match s.millNow cluster k with
  | some ⟨.wld f plane sp soff zoff, _, _, _⟩ =>
    match s.readSpan sp with
    | (s1, bs, p) =>
      let c := s1.cluster cluster
      let pl := c.loadPlane f soff zoff bs (p || c.groupsBad f soff zoff)
      .next ((s1.setCluster cluster { c with planes := Tab.put c.planes plane.toNat pl }).popMill cluster k)
  | _ => .next s

/-! ### MMA (R139 to R142, R153, R172) -/

/-- What one block scale gives: the value as a multiple of 2^-9 for E4M3 or 2^-8 for MX, and whether FORMAT_RANGE is counted (R140). -/
def blockScale (f : AFmt) (code : Nat) (bc : BitVec 8) : Option Int × Bool :=
  if f = .mx4 then
    if code = 0xFF then (none, false)
    else
      let t : Int := (code : Int) - (bc.toNat : Int)
      if 8 < t then (some (2 ^ 16), true) else if t < -8 then (some 1, true) else (some (2 ^ (t + 8).toNat), false)
  else (e4m3Units code, false)

/-- An activation element in units of 2^-30, or none for NaN and infinity. -/
def activation (f : AFmt) (str k : Nat) (sc : Option Int) : Option Int :=
  let mk (v : Option Int) (sh : Nat) : Option Int := match v, sc with
    | some a, some b => some (a * b * 2 ^ sh)
    | _, _ => none
  match f with
  | .e4m3 => mk (e4m3Units (element 8 str k)) 12
  | .e5m2 => mk (unitsOfV (-16) (Fp.e5m2.decode (element 8 str k))) 5
  | .fp4 => mk (unitsOfV (-1) (Fp.e2m1.decode (element 4 str k))) 20
  | .mx4 => mk (unitsOfV (-1) (Fp.e2m1.decode (element 4 str k))) 21
  | .bf16 => none

/-- The exact sum of the products of a column and a row, over the products that are numbers, and whether some product is not. -/
def dot : List (Option Int) → List (Option Int) → Int × Bool
  | some p :: ps, some a :: as => let r := dot ps as; (p * a + r.1, r.2)
  | _ :: ps, _ :: as => let r := dot ps as; (r.1, true)
  | _, _ => (0, false)

/-- A weight as a value: exact for scaled formats, the BF16 number otherwise. -/
def weightV (x : Option Int) : Fp.V := match x with
  | some k => .fin (k < 0) k.natAbs (-18)
  | none => .nan false

/-- The exact sum of products of a BF16 step, and whether it is invalid (R153). -/
def dotV : List Fp.V → List Fp.V → Fp.V × Bool
  | p :: ps, a :: as =>
    let x := Fp.mulV p a
    let r := dotV ps as
    let y := Fp.addV .rne x.1 r.1
    (y.1, x.2 || r.2 || y.2)
  | _, _ => (.fin false 0 0, false)

/-- One element of a BF16 chain: the rounded sum is added to the running sum. -/
def bf16Step (ws as : List Fp.V) (sum : BitVec 32) : BitVec 32 × List Nat :=
  let x := dotV ws as
  let r := Fp.f32.arith .rne x.1
  let q := Fp.add32 .rne sum (BitVec.ofNat 32 r.1)
  (q.1, r.2 ++ Fp.invIf x.2 ++ q.2)

def Plane.colV (p : Plane) (ko n : Nat) : List (List Fp.V) :=
  if p.fmt = .bf16 then p.bits.map fun c => ((c.drop ko).take n).map fun b => Fp.bf16.decode b.toNat
  else p.cols.map fun c => ((c.drop ko).take n).map weightV

/-- The accumulator as the chain begins (R171). -/
def Cluster.beginChain (c : Cluster) (n : Nat) : Cluster :=
  if c.caChain = n then c else { c with caChain := n, ca := [], caNan := [], caSum := [], caPoison := 0 }

/-- Adds one row of an MMA to row i of the accumulator: the cluster and the classes counted. -/
def Cluster.addRow (c : Cluster) (p : Plane) (f : AFmt) (i ko soff : Nat) (bc : BitVec 8) (row : Nat) : Cluster × List Nat :=
  let n := AFmt.kPerRow f
  if f = .bf16 then
    let acts := (List.range n).map fun k => Fp.bf16.decode (element 16 row k)
    let old := Tab.get (List.replicate 256 0) c.caSum i
    let rs := (p.colV ko n).zipWith (fun w x => bf16Step w acts x) old
    ({ c with caSum := Tab.put c.caSum i (rs.map (·.1)) }, (rs.map (·.2)).flatten)
  else
    let scs := (List.range (n / 32)).map fun b => blockScale f (c.scaleByte (16 * soff + 4 * i + b)) bc
    let acts := (List.range n).map fun k => activation f row k ((scs.map (·.1)).getD (k / 32) none)
    let rs := p.cols.map fun col => dot ((col.drop ko).take n) acts
    let old := Tab.get (List.replicate 256 0) c.ca i
    let oldN := Tab.get (List.replicate 256 false) c.caNan i
    ({ c with ca := Tab.put c.ca i (old.zipWith (fun x r => x + r.1) rs), caNan := Tab.put c.caNan i (oldN.zipWith (fun x r => x || r.2) rs) },
     (if scs.any (·.2) then [Class.fmt] else []) ++ (if rs.any (·.2) then [Class.inv] else []))

/-- Whether the scale lines of an MMA's m rows are poisoned. -/
def Cluster.blocksBad (c : Cluster) (f : AFmt) (soff m : Nat) : Bool :=
  f != .bf16 && (List.range (m / 16 + 2)).any fun k => c.scaleBad (16 * soff + min (64 * k) (4 * m - 1))

/-- Streams the rows of an MMA. -/
def State.streamRows (s : State) (cl : Nat) (p : Plane) (f : AFmt) (ko soff : Nat) (bc : BitVec 8) (allBad : Bool) : Nat → List (Option Nat × Bool) → State × List Nat
  | _, [] => (s, [])
  | i, (r, bad) :: rest =>
    let taint (c : Cluster) (b : Bool) : Cluster := if b then { c with caPoison := c.caPoison ||| BitVec.ofNat 64 (2 ^ i) } else c
    match r with
    | none =>
      let q := (s.setCluster cl (taint (s.cluster cl) (bad || allBad))).streamRows cl p f ko soff bc allBad (i + 1) rest
      (q.1, (if bad || allBad then [Class.psn] else []) ++ q.2)
    | some pa => match s.readBytes pa 64 with
      | (s1, bs, pz) =>
        let x := (s1.cluster cl).addRow p f i ko soff bc (leNat bs)
        let b := bad || allBad || pz
        let q := (s1.setCluster cl (taint x.1 b)).streamRows cl p f ko soff bc allBad (i + 1) rest
        (q.1, x.2 ++ (if b then [Class.psn] else []) ++ q.2)

/-- MMA_COMPLETE: every row has entered, and Signal(s, 1) (R172). -/
def execMmaComplete (cluster k : Nat) (s : State) : Out :=
  match s.millNow cluster k with
  | some ⟨.mma n f plane rows soff kstep bc sem beyond, who, _, _⟩ =>
    let c := (s.cluster cluster).beginChain n
    match Tab.find c.planes plane.toNat with
    | none => .next ((s.setCluster cluster c).endMill cluster k who sem [])
    | some p =>
      let bad := p.poison || c.blocksBad f soff rows.length
      let r := (s.setCluster cluster c).streamRows cluster p f (kstep * AFmt.kPerRow f) soff bc bad 0 rows
      .next (r.1.endMill cluster k who sem (r.2 ++ if beyond then [Class.gth] else []))
  | _ => .next s

/-! ### The end of a chain (R141, R142, R153, R174) -/

/-- The sign of a value. -/
def negV : Fp.V → Bool
  | .fin n _ _ => n
  | .inf n => n
  | .nan _ => false
def infV : Fp.V → Bool
  | .inf _ => true
  | _ => false

/-- An element of a chain that is not BF16, before accumulation and mask. -/
def chainValueOf (ca : Int) (nan : Bool) (bc : BitVec 8) (gta gtw : BitVec 32) : BitVec 32 × List Nat :=
  let a := Fp.dec32 gta
  let w := Fp.dec32 gtw
  if nan || a.isNan || w.isNan then (0x7FC00000, [])
  else if infV a || infV w then
    if ca = 0 then (0x7FC00000, [Class.inv])
    else (if (decide (ca < 0) != negV a) != negV w then 0xFF800000 else 0x7F800000, [])
  else match Fp.mulV a w with
    | (.fin n m e, _) =>
      if ca = 0 || m = 0 then (0, [])
      else
        let r := Fp.f32.arith .rne (.fin (decide (ca < 0) != n) (ca.natAbs * m) (e - 48 + (bc.toNat : Int) - 127))
        (BitVec.ofNat 32 r.1, r.2)
    | _ => (0x7FC00000, [])

/-- An element of a BF16 chain. -/
def bf16ValueOf (sum : BitVec 32) (bc : BitVec 8) (gta gtw : BitVec 32) : BitVec 32 × List Nat :=
  let x := Fp.mulV (Fp.dec32 sum) (Fp.dec32 gta)
  let y := Fp.mulV x.1 (Fp.dec32 gtw)
  let z := Fp.mulV y.1 (.fin false 1 ((bc.toNat : Int) - 127))
  let inv := Fp.invIf (x.2 || y.2)
  match z.1 with
  | .fin n m e => if m = 0 then (0, inv) else let r := Fp.f32.arith .rne (.fin n m e); (BitVec.ofNat 32 r.1, r.2 ++ inv)
  | v => (BitVec.ofNat 32 (Fp.f32.arith .rne v).1, inv)

/-- The results of row i of a chain. -/
def Cluster.foldRow (c : Cluster) (bf : Bool) (bc : BitVec 8) (gta gtw : BitVec 32) (i : Nat) : List (BitVec 32 × List Nat) :=
  if bf then (Tab.get (List.replicate 256 0) c.caSum i).map fun x => bf16ValueOf x bc gta gtw
  else ((Tab.get (List.replicate 256 0) c.ca i).zip (Tab.get (List.replicate 256 false) c.caNan i)).map fun x => chainValueOf x.1 x.2 bc gta gtw

/-- The 32-bit lanes of a row, and back. -/
def lanes32 (r : BitVec 8192) : List (BitVec 32) := (List.range 256).map fun j => r.extractLsb' (32 * j) 32
def ofLanes (w : Nat) (l : List Nat) : BitVec 8192 := BitVec.ofNat 8192 (l.foldr (fun x n => x % 2 ^ w + 2 ^ w * n) 0)

/-- One element written by CHE (R174). -/
def cheElement (acc msk : Bool) (old r : BitVec 32) : BitVec 32 × List Nat :=
  if !acc then (if msk then 0xFF800000 else r, [])
  else if msk then (old, []) else Fp.add32 .rne old r

/-- The rows of a fold. A poisoned unit of the mask poisons the row that it masks: DESIGN CHOICE (entry 32). -/
def State.foldRows (s : State) (cl : Nat) (bf acc : Bool) (bc : BitVec 8) (gta gtw : BitVec 32) (t : BitVec 3) (mask : Option Span) : List Nat → State × List Nat
  | [] => (s, [])
  | i :: is =>
    let (s1, bits, mbad) := match mask with
      | none => (s, (0 : Nat), false)
      | some sp => match s.readBytes (Span.at sp (32 * i)) 32 with
        | (s1, bs, p) => (s1, leNat bs, p)
    let c := s1.cluster cl
    let x := c.tileOf t
    let rs := c.foldRow bf bc gta gtw i
    let out := ((lanes32 (x.row i)).zip rs).zip (List.range 256) |>.map fun ((old, r), j) => cheElement acc (bits.testBit j) old r.1
    let poison := c.caPoison.getLsbD i || mbad || (acc && x.poison.getLsbD i)
    let s2 := s1.setCluster cl (c.setTile t (x.setRow i (ofLanes 32 (out.map (·.1.toNat))) poison))
    let q := s2.foldRows cl bf acc bc gta gtw t mask is
    (q.1, (rs.map (·.2)).flatten ++ (out.map (·.2)).flatten ++ q.2)

def optEvent (ev : Option (BitVec 8)) : BitVec 256 := match ev with
  | some n => eventBit n.toNat
  | none => 0

/-- CHE_FOLD_COMPLETE: the fold, Signal(s, 1), and the event bit of the L form (R174). -/
def execCheFoldComplete (cluster k : Nat) (s : State) : Out :=
  match s.millNow cluster k with
  | some ⟨.che n bf bc gta gtw acc t mask sem ev, who, true, _⟩ =>
    let s0 := s.setCluster cluster ((s.cluster cluster).beginChain n)
    let r := s0.foldRows cluster bf acc bc gta gtw t mask (List.range 64)
    .next ((r.1.endMill cluster k who sem r.2).setEvents who.ctx (optEvent ev))
  | _ => .next s

/-! ### Tile images (R168) -/

def tileCode : TileTy → Nat
  | .fp32 => 0
  | .bf16 => 1
  | .int32 => 2
def tileOfCode : Nat → Option TileTy
  | 0 => some .fp32
  | 1 => some .bf16
  | 2 => some .int32
  | _ => none

/-- The image of a tile. -/
def AccTile.image (x : AccTile) : List Byte :=
  leBytes Config.millstoneVersion 4 ++ leBytes (tileCode x.ty) 4 ++ leBytes x.poison.toNat 8 ++ List.replicate 48 0 ++
    (List.range 64).flatMap fun r => leBytes (x.row r).toNat 1024

/-- The tile that an image gives, for an owner, or none when the header is wrong. -/
def tileFromImage (owner : Option (Nat × Nat × BitVec 8)) (bs : List Byte) : Option AccTile :=
  let field (o n : Nat) : Nat := leNat ((bs.drop o).take n)
  match tileOfCode (field 4 1) with
  | none => none
  | some ty =>
    if field 0 4 ≠ Config.millstoneVersion || field 5 3 ≠ 0 || field 16 48 ≠ 0 then none
    else some { owner, ty, rows := (List.range 64).map fun r => (r, BitVec.ofNat 8192 (leNat ((bs.drop (64 + 1024 * r)).take 1024))), poison := BitVec.ofNat 64 (field 8 8) }

/-- ASAVE_COMPLETE. -/
def execAsaveComplete (cluster k : Nat) (s : State) : Out :=
  match s.millNow cluster k with
  | some ⟨.asave t sp sem, who, true, _⟩ => .next ((s.writeSpan sp ((s.cluster cluster).tileOf t).image).endMill cluster k who sem [])
  | _ => .next s

/-- The poison of the 64 rows of an image, and of its header. -/
def State.imagePoison (s : State) (sp : Span) : Bool × BitVec 64 :=
  let bad (o n : Nat) : Bool := (List.range (n / 8)).any fun k => s.isPoisoned (Span.at sp (o + 8 * k))
  (bad 0 64, BitVec.ofNat 64 ((List.range 64).foldl (fun m r => if bad (64 + 1024 * r) 1024 then m + 2 ^ r else m) 0))

/-- ALOAD_COMPLETE: a wrong header signals an error and leaves the tile unchanged (R168). DESIGN CHOICE (entry 62): a header that lies in a poisoned unit
counts as wrong, and the load of a poisoned row counts POISON. -/
def execAloadComplete (cluster k : Nat) (s : State) : Out :=
  match s.millNow cluster k with
  | some ⟨.aload t sp sem, who, true, _⟩ =>
    match s.readSpan sp with
    | (s1, bs, _) =>
      let c := s1.cluster cluster
      let (hbad, rbad) := s1.imagePoison sp
      match (if hbad then none else tileFromImage (c.tileOf t).owner bs) with
      | none => .next ((s1.popMill cluster k).signalErr who.tile sem.toNat)
      | some x => .next ((s1.setCluster cluster (c.setTile t { x with poison := x.poison ||| rbad })).endMill cluster k who sem (if rbad = 0 then [] else [Class.psn]))
  | _ => .next s

/-! ### The Tailrace's turns (R184) -/

/-- The first CHE, ASAVE or ALOAD of the queue that has not begun, if it can begin. -/
def State.millPresents (s : State) (cl : Nat) : Option Nat :=
  let q := (s.cluster cl).queue
  match q.findIdx? (fun x => x.cmd.accTile.isSome && !x.started) with
  | some k => if (s.millReady cl k).isSome then some k else none
  | none => none

/-- The tile of a waiting vector operation. -/
def TailReq.tile : TailReq → Nat
  | .vred v => v.who.tile
  | .turn tile .. => tile

/-- The cycle in which a waiting vector operation issued. -/
def TailReq.cycle : TailReq → Nat
  | .vred v => v.cycle
  | .turn _ _ _ _ c => c

/-- The oldest vector operation that waits in a tile: within a tile they wait in issue order (R184). -/
def Cluster.tailFirst (c : Cluster) (r : Nat) : Option TailReq := c.vreqs.find? fun v => v.tile % 4 == r

/-- Whether a requester has an operation waiting: tiles 0 to 3, the Millstone 4. An operation competes from the cycle after its issue, beside those of
the other tiles. -/
def State.tailWaits (s : State) (cl r : Nat) : Bool :=
  if r = 4 then (s.millPresents cl).isSome else ((s.cluster cl).tailFirst r).any fun v => v.cycle < s.cycle

/-- The requester whose turn it is, counted from the one after the requester last served. -/
def State.tailNext (s : State) (cl : Nat) : Option Nat :=
  ((List.range 5).map fun k => ((s.cluster cl).lastServed + 1 + k) % 5).find? (s.tailWaits cl)

/-- The lanes of a row by type: 32-bit patterns that VRED combines. -/
def redLanes (ty : TileTy) (row : BitVec 8192) : List Nat :=
  match ty with
  | .fp32 | .int32 => (lanes32 row).map (·.toNat)
  | .bf16 => (List.range 512).map fun j => (row.extractLsb' (16 * j) 16).toNat * 2 ^ 16

/-- One step of a reduction (R154). -/
def redStep (op : RedOp) (ty : TileTy) (x y : Nat) : Nat × List Nat :=
  match ty, op with
  | .int32, .add => ((x + y) % 2 ^ 32, [])
  | .int32, .min => (if signedOf 32 x < signedOf 32 y then x else y, [])
  | .int32, .max => (if signedOf 32 x < signedOf 32 y then y else x, [])
  | _, .add => Fp.f32.add .rne (Fp.f32.decode x) (Fp.f32.decode y)
  | _, .min => Fp.minMaxNum Fp.f32 false x y
  | _, .max => Fp.minMaxNum Fp.f32 true x y

/-- One level of the tree: neighbours are combined. -/
def redLevel (op : RedOp) (ty : TileTy) : List Nat → List Nat × List Nat
  | x :: y :: r =>
    let a := redStep op ty x y
    let b := redLevel op ty r
    (a.1 :: b.1, a.2 ++ b.2)
  | l => (l, [])

/-- The tree of R154. -/
def redTree (op : RedOp) (ty : TileTy) : Nat → List Nat → Nat × List Nat
  | 0, l => (l.headD 0, [])
  | n + 1, l =>
    let a := redLevel op ty l
    let b := redTree op ty n a.1
    (b.1, a.2 ++ b.2)

/-- The result of a reduction as gd receives it, and the classes it counts. -/
def vredResult (op : RedOp) (ty : TileTy) (row : BitVec 8192) : Word × List Nat :=
  let r := redTree op ty (if ty = .bf16 then 9 else 8) (redLanes ty row)
  (if ty = .int32 then sext (BitVec.ofNat 32 r.1) else BitVec.ofNat 64 r.1, r.2)

/-- How long an operation that the Millstone presents occupies the Tailrace (R184). -/
def MillCmd.tailCycles : MillCmd → Nat
  | .che .. => 64
  | _ => 66

/-- The turn of a thread's vector instruction has come: the thread goes on with it. -/
def State.grantTurn (s : State) (tile slot : Nat) (inst : BitVec 8) : State :=
  match s.thread? tile slot with
  | some t => match t.status with
    | .blocked (.tail false) n c => if t.inst = inst then s.setThread tile slot { t with status := .blocked (.tail true) n c } else s
    | _ => s
  | none => s

/-- TAILRACE_START: the next requester's operation begins once the last one has left the Tailrace (R184). -/
def execTailraceStart (cluster : Nat) (s : State) : Out :=
  match s.tailNext cluster with
  | none => .next s
  | some r =>
    let c := { s.cluster cluster with lastServed := r }
    if s.cycle < c.busy then .next s
    else if r = 4 then
      match s.millPresents cluster with
      | some k =>
        let n := ((c.queue[k]?).map fun q => q.cmd.tailCycles).getD 1
        .next (s.setCluster cluster { c with busy := s.cycle + n, queue := c.queue.modify k fun q => { q with started := true } })
      | none => .next s
    else match c.tailFirst r with
      | some (.vred v) =>
        let x := vredResult v.op v.ty v.row
        let o : VredOp := ⟨v.who.tile, v.who.slot, v.who.inst, v.tileNo, v.d, x.1, v.poison⟩
        .next ((s.setCluster cluster { c with busy := s.cycle + 1, vreqs := c.vreqs.erase (.vred v), vred := c.vred ++ [o] }).countAll v.who x.2)
      | some (.turn tile slot inst n k) =>
        .next ((s.setCluster cluster { c with busy := s.cycle + n, vreqs := c.vreqs.erase (.turn tile slot inst n k) }).grantTurn tile slot inst)
      | none => .next s

/-- VRED_FILL: the oldest reduction ends and fills gd (R185). -/
def execVredFill (cluster : Nat) (s : State) : Out :=
  match (s.cluster cluster).vred with
  | [] => .next s
  | o :: os => .next ((s.setCluster cluster { s.cluster cluster with vred := os }).fill o.tile o.slot o.inst o.d .vred o.val o.poison)

end Sys2Proof.Machine
end

