-- ==== Sys2Proof/Machine/Launch.lean ====
section
/-! DEFINITION. Launch records, the admission queue and the dispatcher (R88 to R95). -/

namespace Sys2Proof

/-- Fields of a launch record, held as its sixteen 64-bit words (R90). -/
def recordField (ws : List Word) (word lo n : Nat) : Nat := (ws.getD word 0).toNat / 2 ^ lo % 2 ^ n
def recordEntry (ws : List Word) : Word := ws.getD 0 0
def recordFirst (ws : List Word) : Nat := recordField ws 5 36 9
def recordStages (ws : List Word) : Nat := recordField ws 5 32 4 + 1
def recordCrews (ws : List Word) : Nat := recordField ws 5 16 16
def recordTasks (ws : List Word) : Nat := recordField ws 5 0 16
def recordPri (ws : List Word) : BitVec 3 := BitVec.ofNat 3 (recordField ws 6 0 3)
def recordConsume (ws : List Word) : Bool := recordField ws 6 8 1 == 1
def recordIrq (ws : List Word) : Bool := recordField ws 6 9 1 == 1
def recordWait (ws : List Word) : BitVec 256 := ws.getD 11 0 ++ ws.getD 10 0 ++ ws.getD 9 0 ++ ws.getD 8 0
def recordSet (ws : List Word) : BitVec 256 := ws.getD 15 0 ++ ws.getD 14 0 ++ ws.getD 13 0 ++ ws.getD 12 0
/-- A field is out of range or a reserved bit is set. -/
def recordBad (ws : List Word) : Bool :=
  recordField ws 0 0 2 != 0 || recordField ws 5 45 19 != 0 || 383 < recordFirst ws || recordCrews ws == 0 || 384 < recordCrews ws
    || recordTasks ws == 0 || 992 < recordTasks ws || recordField ws 6 10 54 != 0 || recordField ws 6 3 5 != 0

/-- The words of a byte string, eight bytes each. -/
def wordsOf : Nat → List Byte → List Word
  | 0, _ => []
  | n + 1, bs => (bs.take 8).foldr (fun b w => w * 256 + b.zeroExtend 64) 0 :: wordsOf n (bs.drop 8)

end Sys2Proof

namespace Sys2Proof.Machine
open Sys2Proof

/-- The l-th enabled physical cluster in ascending order (R89). -/
def State.enabledCluster (s : State) (l : Nat) : Option Nat := ((List.range Config.clusters).filter s.clusterOn)[l]?

/-- The physical cluster of a logical one: an empty map is the default map (R89, entry 11). -/
def State.mapped (s : State) (c : Context) (l : Nat) : Option Nat :=
  if c.map.isEmpty then s.enabledCluster l
  else
    let p := (c.map.getD l 0xFFFF).toNat
    if p = 0xFFFF then none else some p

/-- The context's tear-down has begun: a CTXSAVE with discard waits for its stop. -/
def State.tornDown (s : State) (ctx : BitVec 6) : Bool :=
  s.tiles.any fun p => p.2.threads.any fun q => match q.2.status with
    | .blocked (.ctxStop c d _) _ _ => c == ctx && d
    | _ => false

/-- The code of a record: OK, or why it is refused (R90, R92, R95). DESIGN CHOICE (entry 63): where several refusals apply, the first of CTX_DEAD,
BAD_RECORD, TOO_LARGE, QUEUE_FULL. -/
def State.admitCode (s : State) (ctx : BitVec 6) (ws : List Word) : BitVec 8 :=
  let need := recordFirst ws + recordCrews ws * recordStages ws
  if s.tornDown ctx then Code.ctxDead
  else if recordBad ws then Code.badRecord
  else if s.enabled < need || ((List.range (recordCrews ws * recordStages ws)).any fun l => (s.mapped (s.ctx ctx) (recordFirst ws + l)).isNone) then Code.tooLarge
  else if 64 ≤ (s.ctx ctx).queue.length then Code.queueFull
  else Code.ok

/-- A launch joins the admission queue. -/
def State.queueLaunch (s : State) (ctx : BitVec 6) (l : Launch) : State :=
  s.setCtx ctx { s.ctx ctx with queue := (s.ctx ctx).queue ++ [l] }

/-- The two pieces of an aligned range of 128 bytes that the current thread reads. -/
def recordAt (s : State) (t : Thread) (i : Instr) (va : Word) (k : State → Thread → Nat → Nat → Out) : Out :=
  accessMe s t i .read va va fun s1 t1 a => accessMe s1 t1 i .read (va + 64) (va + 64) fun s2 t2 b => k s2 t2 a b

/-- LAUNCH: a snapshot of the record joins the queue, or gd says why not (R92). DESIGN CHOICE (entry 64): poisoned bytes of the record are used as they
stand, and nothing is poisoned by them. -/
def execLaunch (d : GReg) (a : Src) (s : State) : Out :=
  let i := Instr.launch d a
  issue s i false [a] [] [d] fun t =>
    let va := t.val a.reg
    if va.toNat % 64 ≠ 0 then trapBefore s t i Cause.align va
    else recordAt s t i va fun s1 t1 pa pb =>
      poisonCheck s1 t1 i [a.reg] (releaseFirst s1 t1 .dev (
        match s1.readBytes pa 64 with
        | (s2, bs, _) => match s2.readBytes pb 64 with
          | (s3, cs, _) => match s3.me with
            | none => .refused .noThread
            | some t3 =>
              let ws := wordsOf 16 (bs ++ cs)
              let code := s3.admitCode t3.ctx ws
              let t4 := { t3 with spawns := t3.spawns + 1 }.write d (status code) false
              if code = Code.ok then
                let l : Launch := ⟨ws, t3.childSid, (1 : BitVec 20) <<< 19 ++ (s3.threadId s3.cur.1 s3.cur.2 t3.ctx t3.inst).truncate 44, none,
                  s3.cycle, some (s3.cur.1, s3.cur.2, t3.inst, d)⟩
                done (s3.queueLaunch t3.ctx l) t4 i
              else done s3 t4 i))

/-! ### The admission ring (R93) -/

/-- The address of the ring's next record. -/
def Context.ringRecord (c : Context) : Nat := baseOf c.admitBase 7 + c.consumed.toNat % 2 ^ c.admitLog.toNat * 128

/-- The dispatcher has a record of the ring to admit, or, once the tear-down has begun, to refuse (R95). DESIGN CHOICE (entry 65): it admits nothing from a
ring outside populated memory. -/
def State.canAdmit (s : State) (ctx : BitVec 6) : Bool :=
  let c := s.ctx ctx
  (c.state == .live || s.tornDown ctx) && c.consumed != c.target && (unitsOf c.ringRecord 128).all s.populated &&
    (match s.readBytes c.ringRecord 128 with
     | (s1, bs, _) => s1.admitCode ctx (wordsOf 16 bs) != Code.queueFull)

/-- The status word that the dispatcher writes into a record. -/
def recordStatus (code : BitVec 8) : List Byte := leBytes (status (code ||| 0x80)).toNat 8

/-- RING_ADMISSION: the dispatcher takes the next record, queues it or writes why it is refused. -/
def execRingAdmission (ctx : BitVec 6) (s : State) : Out :=
  if s.canAdmit ctx then
    let pa := (s.ctx ctx).ringRecord
    match s.readBytes pa 128 with
    | (s1, bs, _) =>
      let c := s1.ctx ctx
      let ws := wordsOf 16 bs
      let code := s1.admitCode ctx ws
      let s2 := s1.setCtx ctx { c with consumed := c.consumed + 1 }
      if code = Code.ok then
        .next (s2.queueLaunch ctx ⟨ws, (1 : BitVec 48) <<< 47 + c.consumed.zeroExtend 48, c.consumed.zeroExtend 64, some pa, s2.cycle, none⟩)
      else .next (s2.writeBytes (pa + 0x38) (recordStatus code) false)
  else .next s

/-! ### Starting (R88, R91) -/

/-- Places thread (t, c, g) of a launch, or finds no slot; `gc` is g x C + c. -/
def State.placeTask (s : State) (ctx : BitVec 6) (l : Launch) (number gc t : Nat) : Option State :=
  let ws := l.words
  let c := recordCrews ws
  match s.mapped (s.ctx ctx) (recordFirst ws + gc) with
  | none => none
  | some cl =>
    let tile := tileId cl (t % 4)
    match s.freeSlot tile with
    | none => none
    | some slot =>
      let g4 : Word := BitVec.ofNat 64 (t + gc % c * 2 ^ 16 + gc / c * 2 ^ 32)
      let regs := ([ws.getD 1 0, ws.getD 2 0, ws.getD 3 0, ws.getD 4 0, g4, ws.getD 5 0] : List Word).map fun v => fullReg v false
      let th := Thread.create (recordEntry ws) regs ctx (recordPri ws) (mix l.origin.toNat (gc * recordTasks ws + t))
      some (s.allocate tile slot { th with launch := some number, crew := recordTasks ws })

/-- Places threads in order, all or none. -/
def State.placeTasks (s : State) (ctx : BitVec 6) (l : Launch) (number : Nat) : List (Nat × Nat) → Option State
  | [] => some s
  | (gc, t) :: r => match s.placeTask ctx l number gc t with
    | some s1 => s1.placeTasks ctx l number r
    | none => none

/-- The tasks of a launch, stage by stage, crew by crew, task by task. -/
def launchTasks (ws : List Word) : List (Nat × Nat) :=
  (List.range (recordStages ws * recordCrews ws)).flatMap fun gc => (List.range (recordTasks ws)).map fun t => (gc, t)

/-- Starts a launch if it can be placed. -/
def State.startLaunch (s : State) (ctx : BitVec 6) (l : Launch) : Option State :=
  let n := (s.ctx ctx).launches
  match s.placeTasks ctx l n (launchTasks l.words) with
  | none => none
  | some s1 =>
    let c := s1.ctx ctx
    let s2 := { s1 with lastCtx := ctx.toNat }.setCtx ctx { c with
      queue := c.queue.erase l, launches := n + 1, running := c.running ++ [({ number := n, launch := l, left := (launchTasks l.words).length } : Running)] }
    some (if recordConsume l.words then s2.clearEvents ctx (recordWait l.words) else s2)

/-- A launch is ready: it was queued in an earlier cycle (R95), and every bit of its wait mask was set by an earlier one (R91, R94). -/
def Launch.ready (l : Launch) (c : Context) (cycle : Nat) : Bool :=
  l.cycle < cycle && recordWait l.words &&& ~~~(c.evec &&& ~~~(c.eventsAt cycle).2) == 0

/-- The tear-down of a context reaches the dispatcher: the launches that reached it in the same cycle are refused (R95). -/
def State.refuseLaunches (s : State) (ctx : BitVec 6) : State :=
  let late := (s.ctx ctx).queue.filter fun l => l.cycle == s.cycle
  late.foldl (fun s l =>
    let s1 := s.setCtx ctx { s.ctx ctx with queue := (s.ctx ctx).queue.erase l }
    match l.ring, l.by' with
    | some pa, _ => s1.writeBytes (pa + 0x38) (recordStatus Code.ctxDead) false
    | none, some (tile, slot, inst, d) => match s1.thread? tile slot with
      | some t => if t.inst = inst then s1.setThread tile slot (t.write d (status Code.ctxDead) false) else s1
      | none => s1
    | none, none => s1) s

/-- One context's turn: its ready launches in admission order, up to one that cannot be placed. -/
def State.dispatchCtx (s : State) (ctx : BitVec 6) : List Launch → State
  | [] => s
  | l :: r =>
    if l.ready (s.ctx ctx) s.cycle then
      match s.startLaunch ctx l with
      | some s1 => s1.dispatchCtx ctx r
      | none => s
    else s.dispatchCtx ctx r

/-- The contexts in the order in which the dispatcher takes them. -/
def State.ctxOrder (s : State) : List (BitVec 6) := (List.range 64).map fun k => BitVec.ofNat 6 (s.lastCtx + 1 + k)

/-- LAUNCH_START: one pass of the dispatcher over the contexts. -/
def execLaunchStart (s : State) : Out :=
  .next (s.ctxOrder.foldl (fun s c => if (s.ctx c).state == .live && !s.tornDown c then s.dispatchCtx c (s.ctx c).queue else s) s)

/-- A pass would start something. -/
def State.canStart (s : State) : Bool :=
  s.ctxs.any fun p => p.2.state == .live && !p.2.queue.isEmpty && !s.tornDown (BitVec.ofNat 6 p.1) &&
    ((p.2.queue.find? fun l => l.ready p.2 s.cycle).any fun l => (s.startLaunch (BitVec.ofNat 6 p.1) l).isSome)

/-! ### The end of a launch (R91) -/

/-- A thread of a launch has quit; the last one applies the set mask, the status of a ring record, and the interrupt. -/
def State.launchQuit (s : State) (ctx : BitVec 6) (number : Nat) : State :=
  let c := s.ctx ctx
  match c.running.find? fun r => r.number == number with
  | none => s
  | some r =>
    if 1 < r.left then s.setCtx ctx { c with running := c.running.map fun x => if x.number = number then { x with left := x.left - 1 } else x }
    else
      let s1 := s.setCtx ctx { c with running := c.running.erase r }
      let s2 := s1.setEvents ctx (recordSet r.launch.words)
      let s3 := match r.launch.ring with
        | some pa => s2.writeBytes (pa + 0x38) (recordStatus Code.ok) false
        | none => s2
      if recordIrq r.launch.words then s3.irqPush 2 0 ctx r.launch.detail else s3

end Sys2Proof.Machine
end

