-- ==== Sys2Proof/Machine/Life.lean ====
section
/-! DEFINITION. The end of a thread: producers withdrawn, units released, the slot freed (R72, R76, R249). -/

namespace Sys2Proof.Machine
open Sys2Proof

/-- CANCELLED (R72). -/
def cancelled : Word := status Code.cancelled

/-- A thread's LEASE leaves the grant queue, and the order point at which it waits (R72, R242). -/
def State.dropLease (s : State) (tile slot : Nat) (t : Thread) : State :=
  let cl := clusterOf tile
  let c := s.cluster cl
  (c.grants.filter fun l => l.heldBy tile slot t).foldl (fun s l => s.leaveSites l.ctx l.sid l.tag)
    (s.setCluster cl { c with grants := c.grants.filter fun l => !l.heldBy tile slot t })

/-- What withdrawing the producer of a register does elsewhere (R72). -/
def State.withdraw (s : State) (tile slot : Nat) (t : Thread) (d : GReg) : State :=
  let cl := clusterOf tile
  let c := s.cluster cl
  match (t.reg d).prod with
  | some (.access rid) => s.orphan tile rid
  | some (.lease _) => s.dropLease tile slot t
  | some .vred => s.setCluster cl { c with
      vreqs := c.vreqs.map fun r => match r with
        | .vred v => if v.who.tile = tile && v.who.slot = slot && v.d = d then .vred { v with who := { v.who with slot := 256 } } else r
        | .turn .. => r,
      vred := c.vred.map fun v => if v.tile = tile && v.slot = slot && v.d = d then { v with slot := 256 } else v }
  | _ => s

/-- The register, or for a RECV each of its registers, filled with CANCELLED. -/
def Thread.cancel (t : Thread) (d : GReg) : Thread :=
  if (t.reg d).prod = some .recv then { t with regs := t.regs.map fun r => if r.prod = some .recv then fullReg cancelled false else r }
  else if (t.reg d).full then t else t.write d cancelled false

def allRegs : List GReg := (List.range 16).map (BitVec.ofNat 4)

/-- Cancels every outstanding producer of a thread (R76, step 2). -/
def State.withdrawAll (s : State) (tile slot : Nat) (t : Thread) : State := allRegs.foldl (fun s d => s.withdraw tile slot t d) s
def Thread.cancelAll (t : Thread) : Thread := allRegs.foldl Thread.cancel t

/-- Frees accumulator tiles of a thread as AFREE does. -/
def State.freeTiles (s : State) (tile : Nat) (ts : List (BitVec 3)) : State :=
  let cl := clusterOf tile
  s.setCluster cl (ts.foldl (fun c k => c.setTile k AccTile.reset) (s.cluster cl))

/-- Forgets what memory held before the oldest thread was created (R56). -/
def State.prunePast (s : State) : State :=
  if s.past.isEmpty then s
  else
    let born := s.tiles.flatMap fun p => p.2.threads.map fun q => q.2.born
    { s with past := s.past.filter fun x => born.any (· ≤ x.serial) }

/-- The thread leaves its slot and the sites it waits at; its accesses and bridge entries go on without it. -/
def State.vacate (s : State) (tile slot : Nat) : State :=
  let s := match s.thread? tile slot with
    | some t => s.leaveSites t.ctx t.sid (BitVec.ofNat 16 t.icount)
    | none => s
  let x := s.tile tile
  let gone := (s.serial + 1) * 256 + slot
  let s1 := s.tickSerial.setTile tile { x with
    threads := Tab.drop x.threads slot,
    accs := x.accs.map fun a => if a.slot = slot then { a with slot := 256, inst := 0, dst := none } else a }
  ({ s1 with bridge := s1.bridge.map fun b => if b.tile == tile && b.entry.slot == slot then { b with entry := { b.entry with slot := gone } } else b } : State).prunePast

/-- Step 4 of R76: the slot is free. A handle without a DONE breaks, and the thread's launch counts it. -/
def State.leave (s : State) (tile slot : Nat) (t : Thread) (cause : BitVec 8) : State :=
  let s1 := s.vacate tile slot
  let s2 := match t.handle with
    | some h => s1.breakHandle tile t.ctx h cause false
    | none => s1
  match t.launch with
  | some n => s2.launchQuit t.ctx n
  | none => s2

/-- Step 1 of R76 for the current thread: an innings and owned tiles are released; a chain that is discarded traps. -/
def releaseUnits (s : State) (t : Thread) (i : Instr) (k : State → Out) : Out :=
  match s.lfree s.cur.1 s.cur.2 t with
  | (s1, some pc) => trapBefore s1 t i Cause.chainOpen (chainValue 1 pc)
  | (s1, none) =>
    let ts := s1.owned s1.cur.1 s1.cur.2 t
    if (s1.cluster (clusterOf s1.cur.1)).tilesFree ts then k (s1.freeTiles s1.cur.1 ts) else block s1 t (.tiles ts)

/-- Steps 2 to 4 of R76 for the current thread. -/
def endMe (s : State) (t : Thread) : Out :=
  let s1 := s.withdrawAll s.cur.1 s.cur.2 t
  let t1 := t.cancelAll
  if (s1.fifoOf s1.cur.1 s1.cur.2).isEmpty then .next (s1.leave s1.cur.1 s1.cur.2 t1 Code.abandoned) else block s1 t1 .drained

/-- A killed thread can leave: its tiles have no work pending and its stores have drained. -/
def State.canReap (s : State) (tile slot : Nat) (t : Thread) : Bool :=
  (s.fifoOf tile slot).isEmpty && (s.cluster (clusterOf tile)).tilesFree (s.owned tile slot t)

def State.reap (s : State) (tile slot : Nat) (t : Thread) : State :=
  (s.freeTiles tile (s.owned tile slot t)).leave tile slot t Code.abandoned

/-- ERET's kill: steps 1 to 4 of R76 without a trap; the thread leaves at once, or when it can, and its record stays held until there is room
(R246, R249). -/
def State.kill (s : State) (tile slot : Nat) (t : Thread) : State :=
  let s1 := ((s.keepRecord tile slot t).lfree tile slot t).1.withdrawAll tile slot t
  let t1 := { t.cancelAll with status := .blocked .dying s.serial s.cycle, held := [] }
  let s2 := s1.setThread tile slot t1
  if s2.canReap tile slot t1 then s2.reap tile slot t1 else s2

/-- The killed threads that can leave. -/
def State.reapable (s : State) : Option (Nat × Nat × Thread) :=
  s.tiles.findSome? fun (tile, x) => x.threads.findSome? fun (slot, t) => match t.status with
    | .blocked .dying _ _ => if s.canReap tile slot t then some (tile, slot, t) else none
    | _ => none

end Sys2Proof.Machine
end

