-- ==== Sys2Proof/Machine/Threads.lean ====
section
/-! DEFINITION. Instructions on threads: SPAWN, JOIN, QUIT, YIELD, SETPRI, TID, MIGRATE, EVSET, EVCLR, WFE, FETST, FECAN, ERET (R64, R71 to R78, R94, R249, R337). -/

namespace Sys2Proof.Machine
open Sys2Proof

/-- g0 to g3, which SPAWN and its kin read and which always block (R35). -/
def payloadSources : List GReg := [0, 1, 2, 3]
def Thread.payload (t : Thread) : Payload := ⟨t.val 0, t.val 1, t.val 2, t.val 3, t.pois 0, t.pois 1, t.pois 2, t.pois 3⟩
/-- One more creation by a thread (R237). -/
def Thread.spawned (t : Thread) : Thread := { t with spawns := t.spawns + 1 }

/-- SPAWN (R75). -/
def execSpawn (d : GReg) (a b : Src) (pri : BitVec 3) (s : State) : Out :=
  let i := Instr.spawn d a b pri
  issue s i false [a, b] payloadSources [d] fun t =>
    poisonCheck s t i [a.reg, b.reg]
      (match s.target (t.val a.reg) with
       | none => releaseFirst s t (s.badScope s.cur.1 (t.val a.reg)) (done s (t.spawned.write d (status Code.badTarget) false) i)
       | some (true, _, tile) => releaseFirst s t (s.scopeTo s.cur.1 s.fabSelf tile)
         (match s.createLocal tile t.ctx (t.val b.reg) (payloadRegs t.payload) pri t.childSid none with
          | (s1, r) => done s1 (t.spawned.write d (s1.createdStatus tile t.ctx r) false) i)
       | some (false, dev, tile) => releaseFirst s t .dom
         (if !s.reach dev then done s ({ t with losses := t.losses.lose 1 dev }.spawned.write d (status Code.peerLost) false) i
          else oFirst s t dev <|
            let body := Body.spawn (t.val b.reg) t.payload pri t.childSid
            match s.request s.cur.1 s.cur.2 t (s.header dev tile s.cur.1 t.ctx 1 body.op) false (some d) none 0 false body with
            | (s1, rid) => done s1 (t.spawned.markEmpty d (.access rid)) i))

/-- The fields of a thread id (R59). -/
def tidSlot (w : Word) : Nat := w.toNat % 256
def tidTile (w : Word) : Nat := w.toNat / 2 ^ 8 % 2048
def tidDev (w : Word) : BitVec 11 := w.extractLsb' 19 11
def tidCtx (w : Word) : BitVec 6 := w.extractLsb' 30 6
def tidInst (w : Word) : BitVec 8 := w.extractLsb' 36 8

/-- The slot holds the instance. -/
def State.alive (s : State) (tile slot : Nat) (inst : BitVec 8) : Bool :=
  match s.thread? tile slot with
  | some t => t.inst == inst
  | none => false

/-- JOIN (R77). -/
def execJoin (a : Src) (s : State) : Out :=
  let i := Instr.join a
  issue s i false [a] [] [] fun t =>
    let w := t.val a.reg
    if tidTile w ≠ s.cur.1 || tidDev w ≠ s.fabSelf || tidCtx w ≠ t.ctx || (tidSlot w == s.cur.2 && tidInst w == t.inst) then
      trapBefore s t i Cause.prot w
    else poisonCheck s t i [a.reg]
      (if s.alive s.cur.1 (tidSlot w) (tidInst w) then block s t (.join s.cur.1 (tidSlot w) (tidInst w)) else done s t i)

/-- QUIT (R76). -/
def execQuit (s : State) : Out :=
  issue s .quit false [] [] [] fun t => releaseUnits s t .quit fun s1 => endMe s1 t

/-- YIELD (R64). -/
def execYield (s : State) : Out :=
  issue s .yield false [] [] [] fun t =>
    finish (s.setTile s.cur.1 { s.tile s.cur.1 with ptr := (s.cur.2 + 1) % 256 }) .yield fun _ => { t with age := 0 }

/-- SETPRI (R64). -/
def execSetpri (n : BitVec 3) (s : State) : Out :=
  issue s (.setpri n) false [] [] [] fun t => done s { t with pri := n, age := 0 } (.setpri n)

/-- TID (R64). -/
def execTid (d : GReg) (s : State) : Out :=
  issue s (.tid d) false [] [] [d] fun t => done s (t.write d (s.threadId s.cur.1 s.cur.2 t.ctx t.inst) false) (.tid d)

/-! ### MIGRATE (R78, R233) -/

/-- The thread has no store pending and no register empty. -/
def State.settled (s : State) (tile slot : Nat) (t : Thread) : Bool :=
  (s.fifoOf tile slot).isEmpty && (s.bridgeOf tile slot).isEmpty && (t.empties allRegs).isEmpty

/-- MIGRATE: after its checks the thread's state leaves as one message. The target is the tile that holds the address in ga, as R78 says; R73 speaks of
a target word: DESIGN CHOICE (entry 66). -/
def execMigrate (a : Src) (s : State) : Out :=
  let i := Instr.migrate a
  issue s i false [a] [] [] fun t =>
    if !s.settled s.cur.1 s.cur.2 t then block s t .migrating
    else
      let va := t.val a.reg
      accessMe s t i .read va va fun s1 t1 pa =>
        let tile := paTile pa
        let bound := (s1.innings s1.cur.1 s1.cur.2 t1).isSome || !(s1.owned s1.cur.1 s1.cur.2 t1).isEmpty
        if bound && clusterOf tile ≠ clusterOf s1.cur.1 then trapBefore s1 t1 i Cause.prot va
        else poisonCheck s1 t1 i [a.reg]
          (if tile = s1.cur.1 then done s1 t1 i
           else .next ((s1.blockAt s1.cur.1 s1.cur.2 t1 (.moving tile)).cause (.migrateArrival s1.cur.1 s1.cur.2 tile)))

/-- Owned tiles and an innings follow their thread within the cluster (R167). -/
def Cluster.follow (c : Cluster) (tile slot : Nat) (inst : BitVec 8) (newTile newSlot : Nat) (newInst : BitVec 8) : Cluster :=
  { c with
    acc := c.acc.map fun (k, x) => (k, if x.owner = some (tile, slot, inst) then { x with owner := some (newTile, newSlot, newInst) } else x),
    innings := c.innings.map fun l => if l.tile = tile && l.slot = slot && l.inst = inst then { l with tile := newTile, slot := newSlot, inst := newInst } else l }

/-- A command's issuer now stands elsewhere (R158). -/
def Issuer.follow (w : Issuer) (old new : Nat × Nat × BitVec 8) : Issuer := if w.seat = old then { w with seat := new } else w
def RedPart.follow (p : RedPart) (old new : Nat × Nat × BitVec 8) : RedPart := { p with who := p.who.follow old new }
def FRun.follow (r : FRun) (old new : Nat × Nat × BitVec 8) : FRun := { r with cmd := { r.cmd with who := r.cmd.who.follow old new } }
def TailReq.follow (r : TailReq) (old new : Nat × Nat × BitVec 8) : TailReq := match r with
  | .vred v => .vred { v with who := v.who.follow old new }
  | .turn .. => r

/-- Every command of a thread, wherever it stands, names the thread's new place (R158). -/
def State.followIssuer (s : State) (old new : Nat × Nat × BitVec 8) : State :=
  { s with
    clusters := s.clusters.map fun (k, c) => (k, { c with
      queue := c.queue.map fun q => { q with who := q.who.follow old new }, vreqs := c.vreqs.map fun r => r.follow old new }),
    flumes := s.flumes.map fun (k, f) => (k, { f with queue := f.queue.map fun r => r.follow old new, runs := f.runs.map fun r => r.follow old new }),
    banks := s.banks.map fun (k, l) => (k, l.map fun r => match r with
      | .red p => .red (p.follow old new)
      | r => r),
    tiles := s.tiles.map fun (k, x) => (k, { x with
      hold := x.hold.map fun h => { h with parts := h.parts.map fun p => p.follow old new },
      regs := x.regs.map fun (j, r) => (j, { r with now := { r.now with events := r.now.events.map fun e => (e.1, e.2.follow old new) } }) }) }

/-- The thread takes its new slot, and the old one is freed; it may still fetch what it could before (R56). -/
def State.moveThread (s : State) (tile slot : Nat) (t : Thread) (target new : Nat) : State :=
  let moved := (s.tile tile).accs.filter fun a => a.slot == slot
  let s1 := s.allocate target new { t with age := 0 }
  let inst := Tab.get (0 : BitVec 8) (s1.tile target).insts new
  let s2 := s1.setTile tile { s1.tile tile with threads := Tab.drop (s1.tile tile).threads slot, accs := (s1.tile tile).accs.filter fun a => !moved.contains a }
  let s3 := s2.setTile target { s2.tile target with accs := (s2.tile target).accs ++ moved.map fun a => { a with slot := new, inst } }
  let s4 := (match s3.thread? target new with
    | some u => s3.setThread target new { u with born := t.born }
    | none => s3).followIssuer (tile, slot, t.inst) (target, new, inst)
  if clusterOf tile = clusterOf target then
    s4.setCluster (clusterOf tile) ((s4.cluster (clusterOf tile)).follow tile slot t.inst target new inst)
  else s4

/-- The new tile tells the home of the thread's handle; the thread completes MIGRATE when the home has acknowledged it (R233). -/
def State.tellHome (s : State) (tile slot : Nat) (t : Thread) (h : Word) : State :=
  let dev := handleDev h
  if dev = s.fabSelf && handleTile h = tile then
    match s.lookup h with
    | some (x, u) =>
      (if u.pending then s.setHrt tile (handleSlot h) { x with use := some .running, dev := s.fabSelf, tile := BitVec.ofNat 11 tile } else s).retireAt tile slot t 4
    | none => s.retireAt tile slot t 4
  else if !s.reach dev then s.retireAt tile slot t 4
  else
    let body := Body.location h s.fabSelf (BitVec.ofNat 11 tile)
    match s.request tile slot t (s.header dev (handleTile h) tile t.ctx 1 body.op) false none none h false body with
    | (s1, rid) => s1.setThread tile slot { t with status := .blocked (.located rid) s.serial s.cycle }

/-- MIGRATE_ARRIVAL: the thread takes the lowest free user slot of the target, or stays where it is. -/
def execMigrateArrival (tile slot target : Nat) (s : State) : Out :=
  match s.thread? tile slot with
  | none => .next s
  | some t => match t.status with
    | .blocked (.moving k) _ _ =>
      if k ≠ target then .next s
      else match s.freeSlot target with
        | none => .next (s.retireAt tile slot t 4)
        | some new =>
          let s1 := s.moveThread tile slot t target new
          match s1.thread? target new, t.handle with
          | some t1, some h => .next (s1.tellHome target new t1 h)
          | some t1, none => .next (s1.retireAt target new t1 4)
          | none, _ => .next s1
    | _ => .next s

/-! ### Events of the event vector (R94, R337) -/

/-- EVSET: a release at .dev, then the bit is set, which sets the latches of the context. -/
def execEvset (n : BitVec 8) (s : State) : Out :=
  issue s (.evset n) false [] [] [] fun t =>
    releaseFirst s t .dev (finish (s.setEvents t.ctx (eventBit n.toNat)) (.evset n) id)

/-- EVCLR: a set of the same cycle stands (R94). -/
def execEvclr (n : BitVec 8) (s : State) : Out :=
  issue s (.evclr n) false [] [] [] fun t =>
    done (s.clearEvents t.ctx (eventBit n.toNat)) t (.evclr n)

/-- WFE. -/
def execWfe (s : State) : Out :=
  issue s .wfe false [] [] [] fun t => if t.latch then done s { t with latch := false } .wfe else block s t .wfe

/-! ### Full and empty registers (R71, R72) -/

/-- FETST never blocks on ga; gd, as a destination, blocks while it is empty (R70). -/
def execFetst (d a : GReg) (s : State) : Out :=
  issue s (.fetst d a) false [] [] [d] fun t => done s (t.write d (boolWord (t.reg a).full) false) (.fetst d a)

/-- The register was filled by a response in this cycle (R72). -/
def Thread.filledNow (t : Thread) (d : GReg) (cycle : Nat) : Bool := t.fills.1 == cycle && t.fills.2.contains d

/-- FECAN: a response of the same cycle is discarded, and an innings granted in it is released as by LFREE. -/
def execFecan (d : GReg) (s : State) : Out :=
  issue s (.fecan d) false [] [] [] fun t =>
    let granted := match s.innings s.cur.1 s.cur.2 t with
      | some l => l.d == d && l.cycle == s.cycle
      | none => false
    if (t.reg d).full && granted then done (s.lfree s.cur.1 s.cur.2 t).1 (t.write d cancelled false) (.fecan d)
    else if (t.reg d).full && t.filledNow d s.cycle then done s (t.write d cancelled false) (.fecan d)
    else done (s.withdraw s.cur.1 s.cur.2 t d) (t.cancel d) (.fecan d)

/-! ### ERET and the registers of the trap service (R248, R249) -/

/-- The thread of a tile that trap.sel selects. -/
def State.selected (s : State) (tile : Nat) : Option (Nat × Thread) :=
  let w := (s.tile tile).trapSel
  if tidTile w ≠ tile then none
  else match s.thread? tile (tidSlot w) with
    | some t => if t.inst = tidInst w && t.ctx = tidCtx w then some (tidSlot w, t) else none
    | none => none

/-- The selected thread and its trap, if it is stopped for one. -/
def State.selectedTrap (s : State) (tile : Nat) : Option (Nat × Thread × TrapInfo) :=
  match s.selected tile with
  | some (slot, t) => match t.status with
    | .stopped i => some (slot, t, i)
    | _ => none
  | none => none

def trapAction (w : Word) : Nat := w.toNat / 2 ^ 48 % 4
def trapGidx (w : Word) : GReg := w.extractLsb' 44 4

def bit50 : Word := BitVec.ofNat 64 (2 ^ 50)
/-- Bit 50 of trap.sel: whether the last ERET acted. -/
def State.setTrapDone (s : State) (tile : Nat) (b : Bool) : State :=
  let w := (s.tile tile).trapSel
  s.setTile tile { s.tile tile with trapSel := if b then w ||| bit50 else w &&& ~~~bit50 }

/-- A stopped thread goes on at its restart point. -/
def Thread.resume (t : Thread) (i : TrapInfo) (skip : Bool) : Thread :=
  { t with pc := if skip then i.skip else i.resume, loops := if i.popLoop then t.loops.drop 1 else t.loops, status := .ready, instr := none, age := 0 }

/-- Sends the request of an HGET for a register, or fills it when its home cannot be reached (R230). -/
def State.sendHget (s : State) (tile slot : Nat) (t : Thread) (d : GReg) (h : Word) : State :=
  if !s.reach (handleDev h) then s.setThread tile slot (t.write d (status Code.peerLost) false)
  else match s.request tile slot t (s.header (handleDev h) (handleTile h) tile t.ctx 1 (Body.hget h).op) false (some d) none h false (.hget h) with
    | (s1, rid) => match s1.thread? tile slot with
      | some u => s1.setThread tile slot (u.markEmpty d (.access rid))
      | none => s1

/-- A resumed thread executes again an HGET whose register is still empty: its request is sent anew, and no one waits for the old one (R230). -/
def State.hgetAgain (s : State) (tile slot : Nat) (d : GReg) : State :=
  match s.thread? tile slot with
  | some t => match (t.reg d).prod with
    | some (.access rid) => match s.access? rid with
      | some (k, a) => if a.isHget then (s.orphan k rid).sendHget tile slot t d a.handle else s
      | none => s
    | _ => s
  | none => s

/-- ERET with resume or skip: a record that has no room yet stays held, and the thread goes on (R246, R249, R250). -/
def State.resumeThread (s : State) (tile slot : Nat) (t : Thread) (i : TrapInfo) (skip : Bool) : State :=
  allRegs.foldl (fun s d => s.hgetAgain tile slot d) ((s.keepRecord tile slot t).setThread tile slot (t.resume i skip))

/-- ERET. -/
def execEret (s : State) : Out :=
  issue s .eret true [] [] [] fun _ =>
    match s.selectedTrap s.cur.1 with
    | none => finish (s.setTrapDone s.cur.1 false) .eret id
    | some (slot, t, i) =>
      let a := trapAction (s.tile s.cur.1).trapSel
      let s1 := if a = 2 then s.kill s.cur.1 slot t else s.resumeThread s.cur.1 slot t i (a == 1)
      finish (s1.setTrapDone s.cur.1 true) .eret id

/-- A read of trap.gval. -/
def State.readGval (s : State) (tile : Nat) : Word :=
  match s.selectedTrap tile with
  | some (_, t, _) => t.val (trapGidx (s.tile tile).trapSel)
  | none => 0

/-- A write of trap.gval: the producer is withdrawn, and the register is full and clean. -/
def State.writeGval (s : State) (tile : Nat) (v : Word) : State :=
  match s.selectedTrap tile with
  | some (slot, t, _) =>
    let d := trapGidx (s.tile tile).trapSel
    (s.withdraw tile slot t d).setThread tile slot ((t.cancel d).write d v false)
  | none => s

/-- TRAP_GVAL_WRITE. -/
def execTrapGvalWrite (tile : Nat) (_ctx : BitVec 6) (v : Word) (s : State) : Out := .next (s.writeGval tile v)

end Sys2Proof.Machine
end

