-- ==== Sys2Proof/Machine/Comms.lean ====
section
/-! DEFINITION. Semaphores and messages: SWAIT, SSIG, SSET, SREAD, SEND, RECV, RQCNT and the Sluice (R79 to R87). -/

namespace Sys2Proof

/-- The 32 bits of a semaphore (R79). -/
def Machine.Sem.bits (x : Machine.Sem) : BitVec 32 := BitVec.ofBool x.err ++ x.errcnt ++ x.count

/-- The message of a packet. -/
def Packet.toMessage (p : Packet) (ctx : BitVec 6) : Option Machine.Message :=
  match p.body with
  | .message tag sender pl => some ⟨tag, sender, pl.g1, pl.g2, pl.g3, pl.p1, pl.p2, pl.p3, ctx, p.sid, p.tag⟩
  | _ => none

/-- Sorts by a number; equal ones keep their order. -/
def insertOn {α : Type} (key : α → Nat) (x : α) : List α → List α
  | [] => [x]
  | y :: r => if key x ≤ key y then x :: y :: r else y :: insertOn key x r
def sortOn {α : Type} (key : α → Nat) : List α → List α
  | [] => []
  | x :: r => insertOn key x (sortOn key r)

end Sys2Proof

namespace Sys2Proof.Machine
open Sys2Proof

/-! ### Semaphores -/

/-- The test of R81 for a count: the semaphore after it and the word for gd, or none while the waiter waits. -/
def Sem.serve (x : Sem) (n : BitVec 24) : Option (Sem × Word) :=
  let out (y : Sem) (sat : Nat) : Sem × Word := ({ y with err := false, errcnt := 0 }, BitVec.ofNat 64 (sat * 2 ^ 32 + y.bits.toNat))
  if n ≤ x.count then some (out { x with count := x.count - n } 1)
  else if x.err then some (out x 0)
  else none

/-- A thread that waits at a semaphore. -/
structure SemWaiter where
  since : Nat
  slot : Nat
  t : Thread
  n : BitVec 24
  d : GReg

/-- The waiters of a semaphore in the order of their SWAIT issue. -/
def State.semWaiters (s : State) (tile k : Nat) : List SemWaiter :=
  sortOn SemWaiter.since ((s.tile tile).threads.filterMap fun (slot, t) => match t.status with
    | .blocked (.sem j n d) since _ => if j.toNat = k && s.mayRun tile slot t then some ⟨since, slot, t, n, d⟩ else none
    | _ => none)

/-- Serves the first waiter that the test and its order point let go. -/
def State.serveWaiters (s : State) (tile k : Nat) : List SemWaiter → State
  | [] => s
  | w :: rest =>
    let c := s.ctx w.t.ctx
    let site := siteOf tile k
    let cont := w.t.contender (tile, w.slot)
    match (s.sem tile k).serve w.n with
    | some (x, v) => match s.decideAt w.t.ctx 5 site cont with
      | .go s1 => (s1.setSem tile k { x with changed := some s.cycle }).retireAt tile w.slot (w.t.write w.d v false) 4
      | .hold s1 | .room s1 => s1.serveWaiters tile k rest
    | none => if c.mode = 2 && !c.replayAdmits (c.site 5 site) cont then s.serveWaiters tile k rest else s

/-- The head waiter's test of a semaphore, once in a cycle and after the changes of the one before (R81, R82). -/
def State.serveSem (s : State) (tile k : Nat) : State := if s.semReady tile k then s.serveWaiters tile k (s.semWaiters tile k) else s

/-- SEMAPHORE_SERVE: at most one waiter is served (R81). -/
def execSemaphoreServe (tile sem : Nat) (s : State) : Out := .next (s.serveSem tile sem)

/-- SWAIT for a count: at once when no earlier waiter stands before it, the semaphore has not changed in this cycle and the test succeeds; n = 0 in
every case. -/
def swaitFor (s : State) (t : Thread) (i : Instr) (d : GReg) (k : BitVec 8) (n : BitVec 24) : Out :=
  let x := s.sem s.cur.1 k.toNat
  let wait (s : State) : Out := block s t (.sem k n d)
  match x.serve n with
  | none => wait s
  | some (y, v) =>
    let fill (s : State) : Out := done (s.setSem s.cur.1 k.toNat { y with changed := some s.cycle }) (t.write d v false) i
    if n = 0 then fill s
    else if !(s.semWaiters s.cur.1 k.toNat).isEmpty || !s.semReady s.cur.1 k.toNat then wait s
    else match s.decideAt t.ctx 5 (siteOf s.cur.1 k.toNat) (t.contender s.cur) with
      | .go s1 => fill s1
      | .hold s1 | .room s1 => wait s1

def execSwait (d : GReg) (sem : BitVec 8) (n : BitVec 6) (s : State) : Out :=
  let i := Instr.swait d sem n
  issue s i false [] [] [d] fun t => swaitFor s t i d sem (n.zeroExtend 24)
/-- The register form takes ra[23:0] (R80). -/
def execSwaitReg (d : GReg) (sem : BitVec 8) (a : Src) (s : State) : Out :=
  let i := Instr.swaitReg d sem a
  issue s i false [a] [] [d] fun t => poisonCheck s t i [a.reg] (swaitFor s t i d sem ((t.val a.reg).truncate 24))

/-- SSIG: the signal follows the release at .die (R82). -/
def ssigFor (s : State) (t : Thread) (i : Instr) (k : BitVec 8) (n : BitVec 24) : Out :=
  releaseFirst s t .die (done (s.signal s.cur.1 k.toNat n.toNat) t i)
def execSsig (sem : BitVec 8) (n : BitVec 6) (s : State) : Out :=
  let i := Instr.ssig sem n
  issue s i false [] [] [] fun t => ssigFor s t i sem (n.zeroExtend 24)
def execSsigReg (sem : BitVec 8) (a : Src) (s : State) : Out :=
  let i := Instr.ssigReg sem a
  issue s i false [a] [] [] fun t => poisonCheck s t i [a.reg] (ssigFor s t i sem ((t.val a.reg).truncate 24))

/-- SSET sets the count and clears the error fields; it wins over the signals of its cycle (R82). -/
def ssetFor (s : State) (t : Thread) (i : Instr) (k : BitVec 8) (n : BitVec 24) : Out :=
  done (s.setSem s.cur.1 k.toNat ⟨false, 0, n, some s.cycle, some s.cycle⟩) t i
def execSset (sem : BitVec 8) (n : BitVec 6) (s : State) : Out :=
  let i := Instr.sset sem n
  issue s i false [] [] [] fun t => ssetFor s t i sem (n.zeroExtend 24)
def execSsetReg (sem : BitVec 8) (a : Src) (s : State) : Out :=
  let i := Instr.ssetReg sem a
  issue s i false [a] [] [] fun t => poisonCheck s t i [a.reg] (ssetFor s t i sem ((t.val a.reg).truncate 24))

def execSread (d : GReg) (sem : BitVec 8) (s : State) : Out :=
  let i := Instr.sread d sem
  issue s i false [] [] [d] fun t => done s (t.write d ((s.sem s.cur.1 sem.toNat).bits.zeroExtend 64) false) i

/-! ### Receive queues (R83 to R86) -/

/-- The context that receives a message; one without a peer here keeps its own number (entry 30). -/
def State.receiving (s : State) (p : Packet) : BitVec 6 := (s.actingCtx p.hdr.sdev p.hdr.ctx p.peer).getD p.hdr.ctx

/-- The threads of a tile that wait in RECV, in the order of issue. -/
def State.recvWaiters (s : State) (tile : Nat) : List (Nat × Nat × Thread) :=
  sortOn (·.1) ((s.tile tile).threads.filterMap fun (slot, t) => match t.status with
    | .blocked .recv since _ => if s.mayRun tile slot t then some (since, slot, t) else none
    | _ => none)

/-- Fills g0 to g3 with a message (R84). -/
def Thread.receive (t : Thread) (m : Message) : Thread :=
  (((t.write 0 (BitVec.ofNat 64 (m.sender.toNat * 2 ^ 16 + m.tag.toNat)) false).write 1 m.g1 m.p1).write 2 m.g2 m.p2).write 3 m.g3 m.p3

/-- Gives the head message to the first waiter that order point 6 admits. -/
def State.assign (s : State) (tile : Nat) (m : Message) (rest : List Message) : List (Nat × Nat × Thread) → State
  | [] => s
  | (_, slot, t) :: ws => match s.decideAt t.ctx 6 (siteOf tile 0) (t.contender (tile, slot)) with
    | .go s1 => (s1.setTile tile { s1.tile tile with rq := rest }).retireAt tile slot (t.receive m) 4
    | .hold s1 | .room s1 => s1.assign tile m rest ws

/-- One message goes to a waiter, if there are both. -/
def State.serveRecv (s : State) (tile : Nat) : State :=
  match (s.tile tile).rq with
  | [] => s
  | m :: rest => s.assign tile m rest (s.recvWaiters tile)

/-- A message joins the receive queue of a tile. -/
def State.enqueueMessage (s : State) (tile : Nat) (m : Message) : State :=
  (s.setTile tile { s.tile tile with rq := (s.tile tile).rq ++ [m] }).serveRecv tile

/-! ### The Sluice (R86, R87) -/

def Context.sluiceSize (c : Context) : Nat := 2 ^ c.sluiceLog.toNat
/-- The Sluice heap has room for a message. -/
def State.heapRoom (s : State) (ctx : BitVec 6) : Bool :=
  let c := s.ctx ctx
  c.sluiceHeld.toNat < c.sluiceSize && s.populated (baseOf c.sluiceBase 12)
/-- The lowest free entry of the heap. -/
def Context.sluiceFree (c : Context) : Option Nat := leastBelow (fun k => !c.sluice.any (·.1 == k)) 0 c.sluiceSize

/-- The bytes of a held message (R87). -/
def sluiceEntry (tile : Nat) (m : Message) : List Byte :=
  leBytes m.g1.toNat 8 ++ leBytes m.g2.toNat 8 ++ leBytes m.g3.toNat 8 ++ leBytes m.tag.toNat 8 ++ leBytes m.sender.toNat 8 ++ leBytes tile 24

/-- An arrival for the tile goes to the Sluice: the queue is full, or the heap holds a message for the tile. -/
def State.sluices (s : State) (ctx : BitVec 6) (tile : Nat) : Bool :=
  32 ≤ (s.tile tile).rq.length || (s.ctx ctx).sluice.any fun x => x.2.1 == tile

/-- The messages stored less those replayed in a cycle. -/
def Context.sluicedAt (c : Context) (cycle : Nat) : Int := if c.sluiceNow.1 = cycle then c.sluiceNow.2 else 0

/-- The Sluice copies a message to the heap. -/
def State.sluiceStore (s : State) (ctx : BitVec 6) (tile : Nat) (m : Message) : State :=
  let c := s.ctx ctx
  match c.sluiceFree with
  | none => s
  | some k =>
    let s1 := s.writeBytes (baseOf c.sluiceBase 12 + 64 * k) (sluiceEntry tile m) false
    let c1 := s1.ctx ctx
    s1.setCtx ctx { c1 with sluice := c1.sluice ++ [(k, tile, m)], sluiceHeld := c1.sluiceHeld + 1, sluiceNow := (s.cycle, c1.sluicedAt s.cycle + 1) }

/-- The words of a held message as the heap holds them. -/
def State.sluiceRead (s : State) (ctx : BitVec 6) (k : Nat) (m : Message) : State × Message :=
  match s.readBytes (baseOf (s.ctx ctx).sluiceBase 12 + 64 * k) 40 with
  | (s1, bs, _) =>
    let w (j : Nat) : Word := BitVec.ofNat 64 (leNat ((bs.drop (8 * j)).take 8))
    let bad (j : Nat) : Bool := s1.isPoisoned (baseOf (s.ctx ctx).sluiceBase 12 + 64 * k + 8 * j)
    (s1, { m with g1 := w 0, g2 := w 1, g3 := w 2, tag := (w 3).truncate 16, sender := w 4, p1 := m.p1 || bad 0, p2 := m.p2 || bad 1, p3 := m.p3 || bad 2 })

/-- Messages for the context that have waited at the tile for longer. -/
def State.messagesAhead (s : State) (tile : Nat) (ctx : BitVec 6) (e : Instr) : Bool :=
  ((s.tile tile).hold2.takeWhile (· != e)).any fun x => match x with
    | .messageEntry q => s.receiving q == ctx
    | _ => false

/-- MESSAGE_ENTRY: a message enters the queue or the heap, or waits for room or for its turn (R83, R86). -/
def execMessageEntry (p : Packet) (s : State) : Out :=
  let e := Instr.messageEntry p
  let tile := p.hdr.tile.toNat
  let ctx := s.receiving p
  match p.toMessage ctx with
  | none => .next s
  | some m =>
    if !s.tileOn tile then .next ((s.logDiscard p).reply p 0 (.error Code.badTarget))
    else
      let heap := s.sluices ctx tile
      if (heap && !s.heapRoom ctx) || ((s.ctx ctx).mode != 2 && s.messagesAhead tile ctx e) then .next (s.keepHeld tile e)
      else match s.decideAt ctx 3 (siteOf tile 0) (s.contenderOf p) with
        | .go s1 =>
          let s2 := (s1.accepted p).unhold tile e
          .next (if heap then s2.sluiceStore ctx tile m else s2.enqueueMessage tile m)
        | .hold s1 | .room s1 => .next (s1.keepHeld tile e)

/-- The held messages of a tile, in order. -/
def Context.sluiceFor (c : Context) (tile : Nat) : List (Nat × Nat × Message) := c.sluice.filter fun x => x.2.1 == tile

/-- The contender of a held message: its sender, by thread id. -/
def State.senderOf (s : State) (m : Message) : Contender :=
  let v := m.sender.toNat
  if v / 2 ^ 19 % 2 ^ 11 = s.fabSelf.toNat then ⟨m.sid, m.mark, v / 2 ^ 8 % 2 ^ 11, v % 2 ^ 8, some (BitVec.ofNat 6 (v / 2 ^ 30))⟩ else strange m.sid m.mark

/-- Replays the first held message that order point 4 admits. -/
def State.drainSluice (s : State) (ctx : BitVec 6) (tile : Nat) : List (Nat × Nat × Message) → State
  | [] => s
  | x :: rest => match s.decideAt ctx 4 (siteOf tile 0) (s.senderOf x.2.2) with
    | .go s1 => match s1.sluiceRead ctx x.1 x.2.2 with
      | (s2, m) =>
        let c := s2.ctx ctx
        (s2.setCtx ctx { c with sluice := c.sluice.erase x, sluiceHeld := c.sluiceHeld - 1, sluiceNow := (s.cycle, c.sluicedAt s.cycle - 1) }).enqueueMessage tile m
    | .hold s1 | .room s1 => s1.drainSluice ctx tile rest

/-- SLUICE_REPLAY: the queue has room, and the Sluice replays a held message (R86). -/
def execSluiceReplay (ctx : BitVec 6) (tile : Nat) (s : State) : Out :=
  if (s.tile tile).rq.length < 32 then .next (s.drainSluice ctx tile ((s.ctx ctx).sluiceFor tile)) else .next s

/-! ### SEND, RECV, RQCNT -/

/-- SEND (R83). The tag travels sound when gb is poisoned: DESIGN CHOICE (entry 68). -/
def execSend (a b : Src) (s : State) : Out :=
  let i := Instr.send a b
  issue s i false [a, b] [1, 2, 3] [] fun t =>
    let ga := t.val a.reg
    let send (dev : BitVec 11) (tile : Nat) : Out :=
      poisonCheck s t i [a.reg] (releaseFirst s t (s.scopeTo s.cur.1 dev tile)
        (if !s.reach dev then done s { t with losses := t.losses.lose 1 dev } i
         else
           oFirst s t dev <|
           let body := Body.message ((t.val b.reg).truncate 16) (s.threadId s.cur.1 s.cur.2 t.ctx t.inst) { t.payload with g0 := 0, p0 := false }
           done (s.request s.cur.1 s.cur.2 t (s.header dev tile s.cur.1 t.ctx 1 body.op) false none none 0 false body).1 t i))
    match s.target ga with
    | none => trapBefore s t i Cause.prot ga
    | some (here, dev, tile) => if here && !s.tileOn tile then trapBefore s t i Cause.prot ga else send dev tile

/-- The registers that RECV writes and that no RECV has left empty: one that is executed again after a trap finds its own (R84, R250). -/
def State.recvDests (s : State) : List GReg := match s.me with
  | some t => payloadSources.filter fun d => (t.reg d).prod != some .recv
  | none => payloadSources

/-- RECV: g0 to g3 become empty, and the thread waits for a message (R84). -/
def execRecv (s : State) : Out :=
  issue s .recv false [] [] s.recvDests fun t =>
    let t1 := payloadSources.foldl (fun t d => t.markEmpty d .recv) t
    .next ((s.blockAt s.cur.1 s.cur.2 t1 .recv).serveRecv s.cur.1)

/-- The messages of a tile that the Sluice holds. -/
def State.sluicedFor (s : State) (tile : Nat) : Nat := s.ctxs.foldl (fun n p => n + (p.2.sluiceFor tile).length) 0

/-- RQCNT (R85). -/
def execRqcnt (d : GReg) (s : State) : Out :=
  let i := Instr.rqcnt d
  issue s i false [] [] [d] fun t =>
    done s (t.write d (BitVec.ofNat 64 ((s.tile s.cur.1).rq.length % 64 + min 0xFFFF (s.sluicedFor s.cur.1) * 2 ^ 16)) false) i

end Sys2Proof.Machine
end

