-- ==== Sys2Proof/Machine/Control.lean ====
section
/-! DEFINITION. Branches, jumps, calls and returns, hardware loops, ALIGN and TRAP (R66 to R68, R251, R291, R312, R313, R330). -/

namespace Sys2Proof.Machine
open Sys2Proof

/-- A PC lies in the body of a loop. -/
def LoopEntry.contains (e : LoopEntry) (pc : Pc) : Bool := e.start ≤ pc && pc < e.endNext

/-- Loops that a jump to a PC pops: the innermost, and the outer one too if the target lies outside it (R68). -/
def popLoops (pc : Pc) : List LoopEntry → List LoopEntry
  | [] => []
  | e :: es => if e.contains pc then e :: es else popLoops pc es

/-- PC + 4 x offset (R33). -/
def target {n : Nat} (pc : Pc) (off : BitVec n) : Pc := pc + 4 * off.signExtend 48

/-- A taken branch or jump. -/
def branchTo (s : State) (t : Thread) (pc : Pc) : Out := jumpTo s { t with loops := popLoops pc t.loops } pc

/-- B.cond (R291). -/
def execBCond (c : IntCond) (a b : Src) (off : BitVec 10) (s : State) : Out :=
  let i := Instr.bCond c a b off
  issue s i false [a, b] [] [] fun t =>
    poisonCheck s t i [a.reg, b.reg]
      (if c.holds (t.val a.reg) (t.val b.reg) then branchTo s t (target t.pc off) else done s t i)

/-- JMP (R312). -/
def execJmp (off : BitVec 24) (s : State) : Out :=
  issue s (.jmp off) false [] [] [] fun t => branchTo s t (target t.pc off)

/-- The depth and the slot address of thr.spill (R251). -/
def spillDepth (w : Word) : Nat := w.toNat / 2 ^ 48
def spillPtr (w : Word) : Word := BitVec.ofNat 64 (w.toNat % 2 ^ 48 / 8 * 8)
/-- thr.spill with depth and address moved by one entry. -/
def spillMove (w : Word) (up : Bool) : Word :=
  let d : Nat := spillDepth w
  let p : Nat := (spillPtr w).toNat
  if up then BitVec.ofNat 16 (d + 1) ++ BitVec.ofNat 48 (p + 8) else BitVec.ofNat 16 (d - 1) ++ BitVec.ofNat 48 (p + 2 ^ 48 - 8)

/-- Pushes the return address, links g15 and goes to the target (R312). -/
def enterCall (s : State) (t : Thread) (rets : List Pc) (pc : Pc) : Out :=
  jumpTo s ({ t with rets := rets ++ [t.pc + 4] }.write 15 (zext (t.pc + 4)) false) pc

/-- A call: a full return stack spills its oldest entry with the effect of a store at ptr (R251). The poison of the registers that give the target is
checked behind what the spill checks (R253). -/
def callTo (s : State) (t : Thread) (i : Instr) (rs : List GReg) (pc : Pc) : Out :=
  match t.rets with
  | oldest :: rest =>
    if t.rets.length < 4 then poisonCheck s t i rs (enterCall s t t.rets pc)
    else
      let ptr := spillPtr t.spill
      if spillDepth t.spill = 0xFFFF then trapBefore s t i Cause.prot ptr
      else accessMe s t i .write ptr ptr fun s1 t1 pa => poisonCheck s1 t1 i rs (
        if s1.fifoRoom s1.cur.1 s1.cur.2 (t1.since s1) then
          enterCall (s1.enqueue s1.cur.1 s1.cur.2 t1.ctx (s1.pageAt s1.cur.1 t1.ctx ptr) pa (zext oldest) 8 false none)
            { t1 with spill := spillMove t1.spill true } rest pc
        else block s1 t1 .fifo)
  | [] => poisonCheck s t i rs (enterCall s t [] pc)

/-- JAL (R312). -/
def execJal (off : BitVec 24) (s : State) : Out :=
  issue s (.jal off) false [] [] [15] fun t => callTo s t (.jal off) [] (target t.pc off)

/-- JALR: the target must be word-aligned; a PC holds 48 bits (R33, R57, R312). -/
def execJalr (a : Src) (s : State) : Out :=
  let i := Instr.jalr a
  issue s i false [a] [] [15] fun t =>
    if (t.val a.reg).toNat % 4 ≠ 0 then trapBefore s t i Cause.align (t.val a.reg)
    else callTo s t i [a.reg] ((t.val a.reg).truncate 48)

/-- RET goes to the address that its spill slot holds (R251, R253). One whose bits [1:0] are not zero raises nothing, and words are fetched there: DESIGN
CHOICE (entry 90). -/
def refilled (s : State) (t : Thread) (va : Word) (v : Nat) (bad : Bool) : Out :=
  if bad then trapBefore s t .ret Cause.poison va
  else jumpTo s { t with spill := spillMove t.spill false } (BitVec.ofNat 48 v)

/-- The bank reads the spill slot of a RET. -/
def bankRefill (s : State) (t : Thread) (va : Word) (pa : Nat) : Out :=
  match s.readBytes pa 8 with
  | (s1, bs, bad) => refilled s1 t va (leNat bs) bad

/-- RET: pops the return stack, refilled from memory with the effect of a load when it is empty (R251, R313). -/
def execRet (s : State) : Out :=
  let i := Instr.ret
  issue s i false [] [] [] fun t =>
    match t.rets.getLast? with
    | some pc => jumpTo s { t with rets := t.rets.dropLast } pc
    | none =>
      if spillDepth t.spill = 0 then trapBefore s t i Cause.prot 0
      else
        let va := spillPtr t.spill - 8
        accessMe s t i .read va va fun s1 t1 pa =>
          match s1.forward s1.cur.1 s1.cur.2 pa 8 with
          | .wait => block s1 t1 (.unitDrained (pa / 8 * 8))
          | .value v bad => refilled s1 t1 va v bad
          | .bank => inSlot s1 t1 i va pa (.refill va) none fun s2 => bankRefill s2 t1 va pa

/-! ### Hardware loops (R67) -/

/-- The maximum trip count of the loop layout. -/
def loopMax (e : BitVec 4) (m : BitVec 6) : Nat := (m.toNat + 1) * 2 ^ e.toNat
/-- The PC after the body: len words after the LOOP or LOOPN (R46). -/
def loopEnd (pc : Pc) (len : BitVec 9) : Pc := pc + 4 + 4 * len.zeroExtend 48

/-- Opens a loop and goes to its first instruction. -/
def pushLoop (s : State) (t : Thread) (e : LoopEntry) : Out :=
  .next (s.setMe { t.counted with pc := e.start, loops := e :: t.loops })

/-- The nesting trap: the LOOP itself raises it with value 3 (R67). -/
def nestTrap (s : State) (t : Thread) (i : Instr) : Out :=
  .next (s.stopFor s.cur.1 s.cur.2 t { t.before i.size Cause.loopBound 3 with loop := t.pc })

/-- LOOP: the trip count is read once at entry; a count of 0 skips the body, with no end check and no pop of an enclosing loop: DESIGN CHOICE
(entry 92). -/
def execLoop (e : BitVec 4) (m : BitVec 6) (len : BitVec 9) (c : Src) (s : State) : Out :=
  let i := Instr.loop e m len c
  issue s i false [c] [] [] fun t =>
    let n := (t.val c.reg).toNat
    if n ≠ 0 && 2 ≤ t.loops.length then nestTrap s t i
    else poisonCheck s t i [c.reg]
      (if n = 0 then jumpTo s t (loopEnd t.pc len)
       else pushLoop s t ⟨false, t.pc + 4, loopEnd t.pc len, t.pc, 0, loopMax e m, n, c⟩)

/-- LOOPN: the body runs at least once; gc is read at the tests only. -/
def execLoopn (e : BitVec 4) (m : BitVec 6) (len : BitVec 9) (c : Src) (s : State) : Out :=
  let i := Instr.loopn e m len c
  issue s i false [] [] [] fun t =>
    if 2 ≤ t.loops.length then nestTrap s t i
    else pushLoop s t ⟨true, t.pc + 4, loopEnd t.pc len, t.pc, 0, loopMax e m, 0, c⟩

/-! ### ALIGN (R66) -/

def Status.isAlign (pc : Pc) : Status → Bool
  | .blocked (.align p) _ _ => p == pc
  | _ => false

/-- The threads of a cluster that wait at an ALIGN of a context, by tile and slot. -/
def State.aligned (s : State) (cl : Nat) (ctx : BitVec 6) (pc : Pc) : List (Nat × Nat) :=
  (List.range 4).flatMap fun k => ((s.tile (tileId cl k)).threads.filter fun p => p.2.ctx == ctx && p.2.status.isAlign pc).map fun p => (tileId cl k, p.1)

/-- Releases a thread that waits at an ALIGN: the ALIGN completes. -/
def State.completeAt (s : State) (tile slot size : Nat) : State :=
  match s.thread? tile slot with
  | some t => s.retireAt tile slot t size
  | none => s

/-- Releases every thread of an entry and frees the entry. -/
def State.alignRelease (s : State) (cl : Nat) (e : AlignEntry) : State :=
  let s1 := s.setCluster cl { s.cluster cl with align := (s.cluster cl).align.erase e }
  (s.aligned cl e.ctx e.pc).foldl (fun s p => s.completeAt p.1 p.2 4) s1

/-- ALIGN: joins or allocates an entry and blocks; NOP when the table is full or no launch created the thread. The entry counts the threads that wait at
it against the crew of its first arrival: DESIGN CHOICE (entry 91). -/
def execAlign (n : BitVec 15) (s : State) : Out :=
  let i := Instr.align n
  issue s i false [] [] [] fun t =>
    let cl := clusterOf s.cur.1
    let x := s.cluster cl
    if t.launch.isNone then done s t i
    else match x.align.find? fun e => e.ctx == t.ctx && e.pc == t.pc with
      | some e =>
        let s1 := s.blockAt s.cur.1 s.cur.2 t (.align t.pc)
        if (s1.aligned cl e.ctx e.pc).length < e.crew then .next s1 else .next (s1.alignRelease cl e)
      | none =>
        if 8 ≤ x.align.length then done s t i
        else
          let e : AlignEntry := ⟨t.ctx, t.pc, s.cycle, n.toNat, t.crew⟩
          let s1 := (s.setCluster cl { x with align := x.align ++ [e] }).blockAt s.cur.1 s.cur.2 t (.align t.pc)
          if t.crew ≤ 1 then .next (s1.alignRelease cl e) else .next s1

def AlignEntry.due (e : AlignEntry) (cycle : Nat) : Bool := e.first + e.bound ≤ cycle

/-- ALIGN_TIMEOUT: n cycles have passed since the entry's first arrival; threads of a suspended context stay stopped in place (R66, R258). -/
def execAlignTimeout (cluster : Nat) (ctx : BitVec 6) (pc : Pc) (s : State) : Out :=
  if (s.ctx ctx).state.suspended then .next s
  else match (s.cluster cluster).align.find? fun e => e.ctx == ctx && e.pc == pc && e.due s.cycle with
  | some e => .next (s.alignRelease cluster e)
  | none => .next s

/-- TRAP: SOFT, of after kind (R330). -/
def execTrap (n : BitVec 15) (s : State) : Out :=
  issue s (.trap n) false [] [] [] fun t => trapAfter s t (.trap n) Cause.soft (zext n)

end Sys2Proof.Machine
end

