-- ==== Sys2Proof/Machine/Barrier.lean ====
section
/-! DEFINITION. Barrier objects: BINIT, BARR, BEXP, BWAIT and the ends of a wait (R295 to R304). -/

namespace Sys2Proof.Machine
open Sys2Proof

/-- A barrier object (R295); `spare` holds its reserved bits. -/
structure Barrier where
  expected : Nat
  arrived : Nat
  phase : Nat
  overrun : Bool
  addend : BitVec 16
  sem : BitVec 8
  tile : BitVec 11
  en : Bool
  rearm : Nat
  ovarr : Nat
  spare : Bool
  deriving DecidableEq, Repr

def Barrier.ofNat (n : Nat) : Barrier :=
  let f (lo w : Nat) : Nat := n / 2 ^ lo % 2 ^ w
  { expected := f 0 16, arrived := f 16 16, phase := f 32 4, overrun := f 36 1 == 1, addend := BitVec.ofNat 16 (f 48 16),
    sem := BitVec.ofNat 8 (f 64 8), tile := BitVec.ofNat 11 (f 72 11), en := f 83 1 == 1, rearm := f 96 16, ovarr := f 112 16,
    spare := f 37 11 != 0 || f 84 12 != 0 }

def Barrier.toNat (b : Barrier) : Nat :=
  b.expected + b.arrived * 2 ^ 16 + b.phase * 2 ^ 32 + b.overrun.toNat * 2 ^ 36 + b.addend.toNat * 2 ^ 48 + b.sem.toNat * 2 ^ 64
    + b.tile.toNat * 2 ^ 72 + b.en.toNat * 2 ^ 83 + b.rearm * 2 ^ 96 + b.ovarr * 2 ^ 112

def Barrier.valid (b : Barrier) : Bool := 1 ≤ b.expected && 1 ≤ b.rearm && b.arrived < b.expected && !b.spare

/-- Complete() of R300, without the signal. -/
def Barrier.complete (b : Barrier) : Barrier :=
  let r := min 65535 (max 1 ((b.rearm : Int) + b.addend.toInt))
  { b with phase := (b.phase + 1) % 16, arrived := 0, rearm := r.toNat, expected := r.toNat, addend := 0 }

/-- Reads an object: whether it is poisoned, and its fields. -/
def State.readBarrier (s : State) (pa : Nat) : State × Bool × Barrier :=
  match s.readBytes pa 16 with
  | (s1, bs, bad) => (s1, bad, Barrier.ofNat (leNat bs))

def State.writeBarrier (s : State) (pa : Nat) (b : Barrier) : State := s.writeBytes pa (leBytes b.toNat 16) false

/-- The site of an object (R236). -/
def barrierSite (pa : Nat) : BitVec 34 := siteOf (paTile pa) (pa % 2 ^ 21 / 16)

/-- The checks of R296 on the address, in order. -/
def barrierAt (s : State) (t : Thread) (i : Instr) (k : Access3) (va : Word) (rs : List GReg) (f : State → Thread → Nat → Out) : Out :=
  if va.toNat % 16 ≠ 0 then trapBefore s t i Cause.align va
  else accessMe s t i k va va fun s1 t1 pa => poisonCheck s1 t1 i rs (f s1 t1 pa)

/-- BINIT, BARR and BEXP: release at .dev, then their mesh-in slot and their turn at the object (R296). -/
def atBarrier (s : State) (t : Thread) (i : Instr) (va : Word) (pa : Nat) (op : BankOp) (k : State → Out) : Out :=
  releaseFirst s t .dev (inSlot s t i va pa op (some (7, barrierSite pa)) k)

/-- The instruction of a size completes in a state that it has changed. -/
def endedWith (s : State) (size : Nat) (f : Thread → Thread) : Out :=
  match s.me with
  | some t => ended s (f t) size
  | none => .refused .noThread

/-- Threads that watch an object, by tile and slot. -/
def State.watchers (s : State) (pa : Nat) : List (Nat × Nat) :=
  s.tiles.flatMap fun (tile, x) => x.threads.filterMap fun (slot, t) => match t.status with
    | .blocked (.bwait o ..) _ _ => if o = pa then some (tile, slot) else none
    | _ => none

/-- At a BINIT or completion a watcher's object is read again: one whose phase has passed is woken, unless its bound has run out before (R302). -/
def State.wakeOne (s : State) (b : Barrier) (p : Nat × Nat) : State :=
  match s.thread? p.1 p.2 with
  | some t => match t.status with
    | .blocked (.bwait _ ph bound d bad) n c =>
      if b.valid && b.phase ≠ ph.toNat && (bound == 0 || s.cycle ≤ c + bound) then
        (s.setThread p.1 p.2 { t with status := .blocked (.bwoken d bad) n c }).cause (.bwaitWake p.1 p.2) else s
    | _ => s
  | none => s
def State.wakeWatchers (s : State) (pa : Nat) (b : Barrier) : State := (s.watchers pa).foldl (fun s p => s.wakeOne b p) s

/-- BINIT at the bank: both words are written, and the watchers read them again (R298). -/
def bankBinit (s : State) (size pa object : Nat) : Out :=
  endedWith ((s.writeBytes pa (leBytes object 16) false).wakeWatchers pa (Barrier.ofNat object)) size id

/-- BINIT (R298). -/
def execBinit (a b : Src) (c : GReg) (s : State) : Out :=
  let i := Instr.binit a b c
  issue s i false [a, b] [c] [] fun t =>
    let n := (t.val b.reg).toNat
    let gc := t.val c
    if n < 1 || 65535 < n then trapBefore s t i Cause.prot (t.val b.reg)
    else if gc.toNat / 2 ^ 20 ≠ 0 || (gc.getLsbD 19 && !s.tileOn (gc.toNat / 2 ^ 8 % 2048)) then trapBefore s t i Cause.prot gc
    else barrierAt s t i .both (t.val a.reg) [a.reg, b.reg, c] fun s1 t1 pa =>
      let o : Barrier := { expected := n, arrived := 0, phase := 0, overrun := false, addend := 0, sem := gc.truncate 8,
                           tile := gc.extractLsb' 8 11, en := gc.getLsbD 19, rearm := n, ovarr := 0, spare := false }
      atBarrier s1 t1 i (t.val a.reg) pa (.binit o.toNat) fun s2 => bankBinit s2 i.size pa o.toNat

/-- A status word of BARR (R299). -/
def barrStatus (code : BitVec 8) (last : Bool) (phase expected index : Nat) : Word :=
  BitVec.ofNat 64 (code.toNat * 2 ^ 56 + last.toNat * 2 ^ 55 + phase * 2 ^ 48 + expected * 2 ^ 16 + index)

/-- n arrivals at an object that is valid: the state after, and the status. -/
def State.barrArrive (s : State) (pa : Nat) (o : Barrier) (n : Nat) : State × Word :=
  if o.expected < o.arrived + n then
    (s.writeBarrier pa { o with overrun := true, ovarr := min 0xFFFF (o.ovarr + n) }, barrStatus Code.overrun false o.phase o.expected o.arrived)
  else
    let last := o.arrived + n == o.expected
    let o1 := { o with arrived := o.arrived + n }
    let st := barrStatus Code.ok last o.phase o.expected o.arrived
    if last then
      let s1 := (s.writeBarrier pa o1.complete).wakeWatchers pa o1.complete
      (if o.en && s1.tileOn o.tile.toNat then s1.signal o.tile.toNat o.sem.toNat 1 else s1, st)
    else (s.writeBarrier pa o1, st)

/-- The end of BARR and BWAIT on a poisoned object: gd is poisoned, its value is open, and POISON is counted. -/
def poisonedBarrier (s : State) (t : Thread) (size : Nat) (d : GReg) : Out :=
  countMe { s with fresh := s.fresh + 1 } t [Class.psn] fun s1 t1 => ended s1 (t1.write d (Config.freeWord s.fresh) true) size

/-- BARR at the bank (R299). -/
def bankBarr (s : State) (t : Thread) (size pa : Nat) (d : GReg) (n : Nat) : Out :=
  match s.readBarrier pa with
  | (s1, true, _) => poisonedBarrier s1 t size d
  | (s1, false, o) =>
    if !o.valid then ended s1 (t.write d (status Code.badBarrier) false) size
    else match s1.barrArrive pa o n with
      | (s2, st) => endedWith s2 size fun t2 => t2.write d st false

/-- BARR (R299). -/
def execBarr (d : GReg) (a : Src) (n : BitVec 10) (s : State) : Out :=
  let i := Instr.barr d a n
  issue s i false [a] [] [d] fun t =>
    barrierAt s t i .both (t.val a.reg) [a.reg] fun s1 t1 pa =>
      atBarrier s1 t1 i (t.val a.reg) pa (.barr d n.toNat) fun s2 => bankBarr s2 t1 i.size pa d n.toNat

/-- BEXP at the bank (R301). -/
def bankBexp (s : State) (t : Thread) (size pa : Nat) (n : Int) : Out :=
  match s.readBarrier pa with
  | (s1, true, _) => countMe s1 t [Class.psn] fun s2 t1 => ended s2 t1 size
  | (s1, false, o) =>
    ended (if o.valid then s1.writeBarrier pa { o with addend := BitVec.ofInt 16 (min 32767 (max (-32768) (o.addend.toInt + n))) } else s1) t size

/-- BEXP (R301). -/
def execBexp (a b : Src) (s : State) : Out :=
  let i := Instr.bexp a b
  issue s i false [a, b] [] [] fun t =>
    let n := (t.val b.reg).toInt
    if n < -32768 || 32767 < n then trapBefore s t i Cause.prot (t.val b.reg)
    else barrierAt s t i .both (t.val a.reg) [a.reg, b.reg] fun s1 t1 pa =>
      atBarrier s1 t1 i (t.val a.reg) pa (.bexp n) fun s2 => bankBexp s2 t1 i.size pa n

/-- The read of BWAIT, and the watch that begins with it (R302); gd is poisoned with gb (R286). -/
def bankBread (s : State) (t : Thread) (size pa : Nat) (d : GReg) (phase : BitVec 4) (bound : Nat) (poison : Bool) : Out :=
  match s.readBarrier pa with
  | (s1, true, _) => poisonedBarrier s1 t size d
  | (s1, false, o) =>
    if !o.valid then ended s1 (t.write d (status Code.badBarrier) poison) size
    else if o.phase ≠ phase.toNat then ended s1 (t.write d 0 poison) size
    else block s1 t (.bwait pa phase bound d poison)

/-- BWAIT: the read is a load, in the sequencer slot of the own tile or a mesh-in slot of another (R302). -/
def execBwait (d : GReg) (a b : Src) (bound : BitVec 10) (s : State) : Out :=
  let i := Instr.bwait d a b bound
  issue s i false [a, b] [] [d] fun t =>
    let gb := t.val b.reg
    if gb.toNat / 16 ≠ 0 then trapBefore s t i Cause.prot gb
    else barrierAt s t i .read (t.val a.reg) [a.reg] fun s1 t1 pa =>
      if !s1.unitClear s1.cur.1 s1.cur.2 pa then block s1 t1 (.unitDrained pa)
      else if !s1.unitClear s1.cur.1 s1.cur.2 (pa + 8) then block s1 t1 (.unitDrained (pa + 8))
      else
        let n := 64 * bound.toNat
        inSlot s1 t1 i (t.val a.reg) pa (.bread d (gb.truncate 4) n (t1.pois b.reg)) none fun s2 =>
          bankBread s2 t1 i.size pa d (gb.truncate 4) n (t1.pois b.reg)

/-- A thread that waits in BWAIT gets its status; one whose context is suspended executes BWAIT again on resume (R302). -/
def State.endBwait (s : State) (tile slot : Nat) (t : Thread) (d : GReg) (v : Word) (poison : Bool) : State :=
  if s.mayRun tile slot t then s.retireAt tile slot (t.write d v poison) 4 else s.setThread tile slot { t with status := .ready }

/-- BWAIT_WAKE: the woken thread completes with OK. -/
def execBwaitWake (tile slot : Nat) (s : State) : Out :=
  match s.thread? tile slot with
  | some t => match t.status with
    | .blocked (.bwoken d bad) _ _ => .next (s.endBwait tile slot t d 0 bad)
    | _ => .next s
  | none => .next s

/-- The bound of a BWAIT has run out: its last cycle is over, so that a completion in that cycle gives OK (R302). -/
def State.bwaitDue (s : State) : Status → Bool
  | .blocked (.bwait _ _ bound _ _) _ c => bound != 0 && c + bound < s.cycle
  | _ => false

/-- BWAIT_TIMEOUT. -/
def execBwaitTimeout (tile slot : Nat) (s : State) : Out :=
  match s.thread? tile slot with
  | some t => match t.status with
    | .blocked (.bwait _ _ _ d bad) _ _ => .next (if s.bwaitDue t.status then s.endBwait tile slot t d (status Code.timeout) bad else s)
    | _ => .next s
  | none => .next s

end Sys2Proof.Machine
end

