-- ==== Sys2Proof/Machine/Invoke.lean ====
section
/-! DEFINITION. The instructions on handles: INVOKE, INVOKEH, DONE, HGET, HTEST, HCANCEL, HDROP (R221, R222, R227 to R231). -/

namespace Sys2Proof.Machine
open Sys2Proof

/-- The checks of R221 and R222 on a handle, then R253's on the registers read as control. -/
def handleChecks (s : State) (t : Thread) (i : Instr) (a : GReg) (rs : List GReg) (k : Out) : Out :=
  let h := t.val a
  if h.toNat % 1024 ≠ 0 then trapBefore s t i Cause.malformedHandle h
  else if handleDev h = s.fabSelf && handleCtx h ≠ t.ctx then trapBefore s t i Cause.prot h
  else poisonCheck s t i rs k

/-- The home of a handle is a tile of this device. -/
def State.homeHere (s : State) (h : Word) (tile : Nat) : Bool := handleDev h = s.fabSelf && handleTile h == tile

/-- An entry as an invocation allocates it (R228). -/
def State.openEntry (s : State) (tile e : Nat) (ctx : BitVec 6) (u : HrtUse) (dev tl : BitVec 11) : State × Word :=
  let x := s.hrt tile e
  (s.setHrt tile e { x with ctx, use := some u, derived := false, dropped := false, dev, tile := tl, chain := [] },
   handleWord s.fabSelf tile e x.gen ctx)

/-- The null handle of a refused invocation. -/
def State.nullHandle (s : State) (tile : Nat) (ctx : BitVec 6) : Word := handleWord s.fabSelf tile 4095 (Code.refused.zeroExtend 14) ctx

/-- Allocates the entry of an invocation and goes on with its handle; without a free entry gd gets the null handle. -/
def allocateHandle (s : State) (t : Thread) (i : Instr) (d : GReg) (u : HrtUse) (dev tl : BitVec 11) (k : State → Word → State) : Out :=
  match s.freeEntry? s.cur.1 with
  | none => done s (t.spawned.write d (s.nullHandle s.cur.1 t.ctx) false) i
  | some e => match s.openEntry s.cur.1 e t.ctx u dev tl with
    | (s1, h) => finish (k s1 h) i fun t1 => t1.spawned.write d h false

/-- A message of an invocation leaves, or its handle breaks because the device cannot be reached. -/
def State.sendInvocation (s : State) (t : Thread) (dev : BitVec 11) (tile : Nat) (h : Word) (body : Body) : State :=
  if s.reach dev then (s.request s.cur.1 s.cur.2 t (s.header dev tile s.cur.1 t.ctx 1 body.op) false none none h false body).1
  else (s.onLosses s.cur.1 s.cur.2 t.inst (·.lose 1 dev)).breakHandle s.cur.1 t.ctx h Code.peerLost false

/-- INVOKE (R228). -/
def execInvoke (d : GReg) (a b : Src) (s : State) : Out :=
  let i := Instr.invoke d a b
  issue s i false [a, b] payloadSources [d] fun t =>
    poisonCheck s t i [a.reg, b.reg]
      (match s.target (t.val a.reg) with
       | none => releaseFirst s t (s.badScope s.cur.1 (t.val a.reg))
         (allocateHandle s t i d .running 0 0 fun s1 h => s1.breakHandle s1.cur.1 t.ctx h Code.badTarget false)
       | some (_, dev, tile) => releaseFirst s t (s.scopeTo s.cur.1 dev tile) <| oFirst s t dev
         (allocateHandle s t i d .running dev (BitVec.ofNat 11 tile) fun s1 h =>
           s1.sendInvocation t dev tile h (.invoke (t.val b.reg) t.payload t.pri t.childSid h (t.val a.reg))))

/-- The waiter record of an INVOKEH, or an HCANCEL, whose home is the issuing tile. -/
def State.localWaiter (s : State) (t : Thread) (h : Word) (body : Body) : Packet :=
  { hdr := s.header s.fabSelf (handleTile h) s.cur.1 t.ctx 0 body.op, slot := BitVec.ofNat 8 s.cur.2, rid := 0, sid := t.sid,
    tag := BitVec.ofNat 16 t.icount, peer := (s.ctx t.ctx).peer, port := 12, acked := true, body }

/-- INVOKEH (R228). -/
def execInvokeh (d : GReg) (a b : Src) (s : State) : Out :=
  let i := Instr.invokeh d a b
  issue s i false [a, b] payloadSources [d] fun t =>
    let h := t.val a.reg
    handleChecks s t i a.reg [a.reg, b.reg] (releaseFirst s t (s.scopeTo s.cur.1 (handleDev h) (handleTile h)) <| oFirst s t (handleDev h)
      (allocateHandle s t i d .held 0 0 fun s1 fed =>
        let body := Body.waiter h (t.val b.reg) t.payload t.pri t.childSid fed
        if handleNull h then s1.breakHandle s1.cur.1 t.ctx fed (handleCause h) true
        else if s1.homeHere h s1.cur.1 then s1.waiterArrives s1.cur.1 (s1.localWaiter t h body) h fed
        else s1.sendInvocation t (handleDev h) (handleTile h) fed body))

/-- DONE (R229). -/
def execDone (a : Src) (s : State) : Out :=
  let i := Instr.done a
  issue s i false [a] [] [] fun t =>
    match t.handle with
    | none => trapBefore s t i Cause.prot 0
    | some h => releaseUnits s t i fun s1 => releaseFirst s1 t .dom (
        (if s1.reach (handleDev h) then oFirst s1 t (handleDev h) else id) <|
        let body := Body.fulfil h (t.val a.reg) (t.pois a.reg) s1.fabSelf (BitVec.ofNat 11 s1.cur.1)
        let s2 := if s1.reach (handleDev h) then
            (s1.request s1.cur.1 s1.cur.2 t (s1.header (handleDev h) (handleTile h) s1.cur.1 t.ctx 1 body.op) false none none h false body).1
          else s1
        endMe s2 { t with handle := none })

/-- Fills gd with a broken status; hnd.ctl.trapb makes it raise BROKEN_HANDLE at the boundary (R230). -/
def Thread.broken (t : Thread) (d : GReg) (h v : Word) (trapb : Bool) : Thread :=
  let t1 := t.write d v false
  if trapb then { t1 with held := t1.held ++ [.brokenHandle h] } else t1

/-- gd is empty already for a handle of this tile: a local HGET is executed again after a trap or CTXLOAD (R230). -/
def State.waitingHget (s : State) (d : GReg) : Bool := match s.me with
  | some t => match (t.reg d).prod with
    | some (.hget h) => handleNull h || s.homeHere h s.cur.1
    | _ => false
  | none => false

/-- HGET of a handle homed on the issuing tile, or of a null one: while it is pending, gd is empty and the wait stands in the thread, which blocks
(R230; DEDUCED, entry 67). -/
def hgetHere (s : State) (t : Thread) (i : Instr) (d : GReg) (h : Word) : Out :=
  match s.readHandle h with
  | .value v p => done s (t.write d v p) i
  | .broken v => done s (t.broken d h v (s.tctx s.cur.1 t.ctx).hndTrapb) i
  | .wait => block s (t.markEmpty d (.hget h)) (.hget h d)

/-- HGET (R230). -/
def execHget (d : GReg) (a : Src) (s : State) : Out :=
  let i := Instr.hget d a
  let again := s.waitingHget d
  issue s i false (if again && a.reg == d then [] else [a]) [] (if again then [] else [d]) fun t =>
    let h := t.val a.reg
    handleChecks s t i a.reg [a.reg] (
      if handleNull h || s.homeHere h s.cur.1 then hgetHere s t i d h
      else if !s.reach (handleDev h) then done s (t.write d (status Code.peerLost) false) i
      else oFirst s t (handleDev h) <| match s.request s.cur.1 s.cur.2 t (s.header (handleDev h) (handleTile h) s.cur.1 t.ctx 1 (Body.hget h).op) false (some d) none h false (.hget h) with
        | (s1, rid) => done s1 (t.markEmpty d (.access rid)) i)

/-- HTEST (R231). -/
def execHtest (d : GReg) (a : Src) (s : State) : Out :=
  let i := Instr.htest d a
  issue s i false [a] [] [d] fun t =>
    let h := t.val a.reg
    handleChecks s t i a.reg [a.reg] (
      if handleNull h || s.homeHere h s.cur.1 then done s (t.write d (s.testHandle h) false) i
      else if !s.reach (handleDev h) then done s (t.write d (status Code.peerLost) false) i
      else oFirst s t (handleDev h) <| match s.request s.cur.1 s.cur.2 t (s.header (handleDev h) (handleTile h) s.cur.1 t.ctx 1 (Body.htest h).op) false none none h false (.htest h) with
        | (s1, rid) => block s1 t (.htest rid d))

/-- What HDROP and HCANCEL share: the act at the home tile, or the message to it (R231). -/
def handleRequest (s : State) (t : Thread) (i : Instr) (h : Word) (body : Body) (act : State → State) : Out :=
  if handleNull h then done s t i
  else if s.homeHere h s.cur.1 then finish (act s) i id
  else if !s.reach (handleDev h) then done s { t with losses := t.losses.lose 1 (handleDev h) } i
  else oFirst s t (handleDev h) <| done (s.request s.cur.1 s.cur.2 t (s.header (handleDev h) (handleTile h) s.cur.1 t.ctx 1 body.op) false none none h false body).1 t i

/-- HDROP. -/
def execHdrop (a : Src) (s : State) : Out :=
  let i := Instr.hdrop a
  issue s i false [a] [] [] fun t =>
    let h := t.val a.reg
    handleChecks s t i a.reg [a.reg] (handleRequest s t i h (.hdrop h) fun s => s.dropHandle h)

/-- HCANCEL: at its own tile it acts when its cycle is over, so that a fulfilment of the cycle is applied first (R226, R235). -/
def execHcancel (a : Src) (s : State) : Out :=
  let i := Instr.hcancel a
  issue s i false [a] [] [] fun t =>
    let h := t.val a.reg
    handleChecks s t i a.reg [a.reg] (handleRequest s t i h (.hcancel h) fun s => s.later h (.hcancelRequest { s.localWaiter t h (.hcancel h) with acked := true }))

end Sys2Proof.Machine
end

