-- ==== Sys2Proof/Machine/Fence.lean ====
section
/-! DEFINITION. FENCE and the expiry of fence.timeout, TLBINV, CAPR (R111, R124 to R126, R275, R276). -/

namespace Sys2Proof.Machine
open Sys2Proof

/-! ### FENCE -/

/-- A class is named by a FENCE's mask. -/
def inMask (mask : BitVec 3) (cls : BitVec 2) : Bool := cls != 0 && mask.getLsbD (cls.toNat - 1)

/-- What a FENCE waits for is over (R124). -/
def State.fenced (s : State) (tile slot : Nat) (sc : Scope) (mask : BitVec 3) : Bool :=
  (s.fifoOf tile slot).isEmpty &&
  match sc with
  | .die => true
  | .dev => (s.bridgeOf tile slot).isEmpty
  | .dom | .sys => (s.bridgeOf tile slot).isEmpty && !(s.accsOf tile slot).any fun a => inMask mask a.cls

/-- Bits of the classes named in a list. -/
def classBits (cs : List (BitVec 2)) : Nat := ([1, 2, 3] : List (BitVec 2)).foldl (fun n c => if cs.contains c then n + 2 ^ (c.toNat - 1) else n) 0

/-- The losses that a FENCE with a mask reports, and the status it writes (R125). -/
def Losses.report (l : Losses) (mask : BitVec 3) : Losses × Word :=
  let mine (x : BitVec 2 × BitVec 11 × Bool) : Bool := x.2.2 || inMask mask x.1
  let lost := l.lost.filter mine
  let rej := l.rejected.filter (inMask mask)
  let code : BitVec 8 := if !lost.isEmpty then Code.peerLost else if !rej.isEmpty then Code.rejected else Code.ok
  let peer : BitVec 11 := (lost.head?.map fun x => x.2.1).getD 0
  ({ lost := l.lost.filter fun x => !mine x, rejected := l.rejected.filter fun c => !inMask mask c },
   code ++ peer ++ (0 : BitVec 2) ++ BitVec.ofNat 3 (classBits (lost.map (·.1) ++ rej)) ++ BitVec.ofNat 16 (min 0xFFFF rej.length)
     ++ BitVec.ofNat 24 (min 0xFFFFFF lost.length))

/-- fence.timeout in cycles. -/
def State.timeoutCycles (s : State) (ctx : BitVec 6) : Nat := (s.ctx ctx).timeout.toNat * Config.cyclesPerMicrosecond

/-- T of a FENCE: fence.timeout as it stood when the FENCE issued (R124). -/
def State.fenceBound (s : State) (t : Thread) : Nat := match t.status with
  | .blocked (.fence _ _ n) _ _ => n
  | _ => s.timeoutCycles t.ctx

/-- FENCE (R124): at .die and .dev the status is 0. -/
def execFence (sc : Scope) (d : GReg) (mask : BitVec 3) (s : State) : Out :=
  let i := Instr.fence sc d mask
  issue s i false [] [] [d] fun t =>
    if !s.fenced s.cur.1 s.cur.2 sc mask then block s t (.fence sc mask (s.fenceBound t))
    else if sc = .dom || sc = .sys then
      let r := t.losses.report mask
      done s ({ t with losses := r.1 }.write d r.2 false) i
    else done s (t.write d 0 false) i

/-! ### fence.timeout (R122, R124, R126) -/

/-- The accesses that a blocked thread waits for within the bound of fence.timeout. HTEST waits for its answer without a bound (R231). -/
def Status.bounded : Status → Access → Bool
  | .blocked (.fence sc mask _) _ _, a => (sc = .dom || sc = .sys) && a.counted && inMask mask a.cls
  | .blocked (.release sc) _ _, a => (sc = .dom || sc = .sys) && a.counted
  | _, _ => false

/-- A FENCE looks at the bound once the thread's stores have drained and left the bridge buffers (R124). -/
def State.pastStores (s : State) (tile slot : Nat) (st : Status) : Bool := match st with
  | .blocked (.fence ..) _ _ => (s.fifoOf tile slot).isEmpty && (s.bridgeOf tile slot).isEmpty
  | _ => true

/-- The accesses of a slot whose wait has expired: those of a blocked thread, and those of a release at the head of the store FIFO. -/
def State.expired (s : State) (tile slot : Nat) (a : Access) : Bool :=
  a.slot == slot && match s.thread? tile slot with
    | none => false
    | some t =>
      let due (c : Nat) : Bool := c + s.timeoutCycles t.ctx ≤ s.cycle
      (t.issued s + s.fenceBound t ≤ s.cycle && t.status.bounded a && s.pastStores tile slot t.status) ||
      (match (s.tile tile).fifo with
       | e :: _ => e.slot == slot && (e.rel == some .dom || e.rel == some .sys) && (e.relSince.map due).getD false && a.counted && a.since < e.number
       | [] => false)

/-- FENCE_TIMEOUT: the accesses that are still outstanding are abandoned. -/
def execFenceTimeout (tile slot : Nat) (s : State) : Out := .next (s.abandonAll tile (s.expired tile slot))

/-- A tile and slot with an access to abandon. -/
def State.fenceDue (s : State) : Option (Nat × Nat) :=
  s.tiles.findSome? fun (tile, x) => (x.accs.find? fun a => s.expired tile a.slot a).map fun a => (tile, a.slot)

/-! ### TLBINV (R111) -/

/-- A page, by base and size, lies in the set of a TLBINV: of all pages, or of those that hold an address. -/
def inPage (page : Option Word) (b : Nat × Nat) : Bool := match page with
  | none => true
  | some va => b.1 ≤ va.toNat && va.toNat < b.1 + b.2

/-- The TLB entries that a TLBINV names: those of the context, or those that map a page of it. -/
def inSet (ctx : BitVec 6) (page : Option Word) (e : TlbEntry) : Bool := e.ctx == ctx && inPage page (e.base, e.size)

/-- Removes the set from every TLB and walker cache of the device. -/
def State.flush (s : State) (ctx : BitVec 6) (page : Option Word) : State :=
  { s with
    tiles := s.tiles.map fun (k, x) => (k, { x with tlb := x.tlb.filter fun e => !inSet ctx page e }),
    flumes := s.flumes.map fun (k, x) => (k, { x with tlb := x.tlb.filter fun e => !inSet ctx page e }),
    walkers := s.walkers.map fun (k, ws) => (k, ws.filter fun w => !(w.ctx == ctx && inPage page (w.base, w.size))) }

/-- A remote access was made in the context, before a point, through a page of the set. -/
def Access.inSet (a : Access) (ctx : BitVec 6) (page : Option Word) (point : Nat) : Bool :=
  a.entry && a.pkt.hdr.ctx == ctx && a.since < point && (a.page.map (inPage page)).getD false

/-- A store, a part of a CPYRED packet, or a request at a bank, that was translated in the context before a point for a page of the set. -/
def FifoEntry.inSet (e : FifoEntry) (ctx : BitVec 6) (page : Option Word) (point : Nat) : Bool :=
  e.number < point && e.ctx == ctx && inPage page e.page
def RedPart.inSet (p : RedPart) (ctx : BitVec 6) (page : Option Word) (point : Nat) : Bool :=
  p.number < point && p.who.ctx == ctx && p.pages.any (inPage page)
def State.reqInSet (s : State) (ctx : BitVec 6) (page : Option Word) (point : Nat) (q : BankReq) : Bool := match q with
  | .remote _ _ c b n => c == ctx && n < point && inPage page b
  | .red p => p.inSet ctx page point
  | .thread tile slot inst _ _ _ _ b n => n < point && inPage page b && match s.thread? tile slot with
    | some t => t.inst == inst && t.ctx == ctx && (t.status matches .blocked .bank _ _)
    | none => false
  | .store .. => false

/-- Every access of the context for a page of the set that began before a point has completed, but for remote ones. -/
def State.localClear (s : State) (ctx : BitVec 6) (page : Option Word) (point : Nat) : Bool :=
  !(s.tiles.any fun p => p.2.fifo.any (·.inSet ctx page point) || p.2.hold.any fun h => h.parts.any (·.inSet ctx page point)) &&
  !(s.bridge.any fun e => e.entry.inSet ctx page point) &&
  !(s.flumes.any fun p => p.2.runs.any fun r => r.cmd.who.ctx == ctx && r.packets.any fun k => k.number < point && k.pages.any (inPage page)) &&
  !(s.clusters.any fun p => p.2.queue.any fun q => q.who.ctx == ctx && q.who.after ≤ point && q.pages.any (inPage page)) &&
  !(s.banks.any fun p => p.2.any (s.reqInSet ctx page point))

/-- Every remote access of the set has completed. -/
def State.remoteClear (s : State) (ctx : BitVec 6) (page : Option Word) (point : Nat) : Bool :=
  !(s.tiles.any fun p => p.2.accs.any fun a => a.inSet ctx page point)

/-- A TLBINV that began at a point in a cycle is over: everything has completed, or only remote accesses remain and fence.timeout has expired. The
fence.timeout is that of the context whose pages are removed: DESIGN CHOICE (entry 77), where it is not the thread's own. -/
def State.tlbClear (s : State) (ctx : BitVec 6) (page : Option Word) (point cycle : Nat) : Bool :=
  s.localClear ctx page point && (s.remoteClear ctx page point || cycle + s.timeoutCycles ctx ≤ s.cycle)

/-- Abandons the remote accesses that a TLBINV has waited for in vain. -/
def State.abandonSet (s : State) (ctx : BitVec 6) (page : Option Word) (point : Nat) : State :=
  s.tiles.foldl (fun s p => s.abandonAll p.1 fun a => a.inSet ctx page point) s

/-- TLBINV for a set: the removal, then the wait. -/
def tlbinv (s : State) (t : Thread) (i : Instr) (ctx : BitVec 6) (page : Option Word) : Out :=
  let go (s : State) (point cycle : Nat) : Out :=
    if s.tlbClear ctx page point cycle then finish (s.abandonSet ctx page point) i id else block s t (.tlbinv ctx page)
  match t.status with
  | .blocked (.tlbinv _ _) n c => go s n c
  | _ => go (s.flush ctx page) s.serial s.cycle

def execTlbinv (a : Src) (s : State) : Out :=
  let i := Instr.tlbinv a
  issue s i true [a] [] [] fun t => poisonCheck s t i [a.reg] (tlbinv s t i t.ctx (some (t.val a.reg)))
def execTlbinvAll (a : Src) (s : State) : Out :=
  let i := Instr.tlbinvAll a
  issue s i true [a] [] [] fun t =>
    if (t.val a.reg).toNat / 64 ≠ 0 then trapBefore s t i Cause.prot (t.val a.reg)
    else poisonCheck s t i [a.reg] (tlbinv s t i ((t.val a.reg).truncate 6) none)

/-! ### The capability list (R275, R276) -/

/-- Id and payload of each entry. -/
def State.capabilities (s : State) : List (Nat × Nat) :=
  [(1, s.enabled + 4 * 2 ^ 16 + 16 * 2 ^ 32), (2, Config.millstoneVersion + 256 * 2 ^ 32), (3, 0x1FF), (4, 1024 + 64 * 2 ^ 16), (5, 7),
   (6, 256 + 4096 * 2 ^ 16 + 256 * 2 ^ 32), (7, 12 + 2 * 2 ^ 4 + 1 * 2 ^ 8)]

/-- What CAPR reads at an address of the list. -/
def State.capability (s : State) (n : Nat) (payload : Bool) : Word :=
  match s.capabilities[n]? with
  | none => 0
  | some (id, pl) => if payload then BitVec.ofNat 64 pl else BitVec.ofNat 64 (id + 1 * 2 ^ 16 + (if n + 1 = s.capabilities.length then 0 else n + 1) * 2 ^ 32)

/-- CAPR (R275). -/
def execCapr (d : GReg) (a : Src) (s : State) : Out :=
  let i := Instr.capr d a
  issue s i false [a] [] [d] fun t =>
    let ga := t.val a.reg
    if ga.toNat / 2 ^ 17 ≠ 0 then trapBefore s t i Cause.prot ga
    else done s (t.write d (s.capability (ga.toNat % 2 ^ 16) (ga.getLsbD 16)) (t.pois a.reg)) i

end Sys2Proof.Machine
end

