-- ==== Sys2Proof/Machine/Flume.lean ====
section
/-! DEFINITION. The Flume copy engines: commands, reads, packets, reductions at the destination and restart records (R193 to R205, R41). -/

namespace Sys2Proof.Machine
open Sys2Proof

/-! ### What a command moves (R199 to R201) -/

/-- n bytes of the descriptor from an offset, as a number. -/
def FCmd.field (k : FCmd) (off n : Nat) : Nat := leNat ((k.desc.drop off).take n)
def FCmd.stride (k : FCmd) (off : Nat) : Word := BitVec.ofNat 64 (k.field off 8)

/-- Bytes of one run: a command is a sequence of runs of one length. -/
def FCmd.runLen (k : FCmd) : Nat := match k.kind with
  | .cpy | .fill | .red .. => k.len
  | .cpys | .cpysel => k.field 0 4

/-- What progress and remain count: bytes, or rows of a CPYSEL. -/
def FCmd.grain (k : FCmd) : Nat := match k.kind with
  | .cpysel => k.runLen
  | _ => 1

/-- Destination of run j; `sel` are the selected rows of a CPYSEL. -/
def FCmd.dstRun (k : FCmd) (sel : List Nat) (j : Nat) : Word := match k.kind with
  | .cpy | .fill | .red .. => k.dst
  | .cpys => k.dst + BitVec.ofNat 64 (j / k.field 4 4) * k.stride 0x28 + BitVec.ofNat 64 (j % k.field 4 4) * k.stride 0x20
  | .cpysel => k.dst + BitVec.ofNat 64 (if k.field 0x10 4 = 0 then j else sel.getD j 0) * k.stride 0x20

/-- Source of run j, or none where a pattern is laid. -/
def FCmd.srcRun (k : FCmd) (sel : List Nat) (j : Nat) : Option Word := match k.kind with
  | .fill => none
  | .cpy | .red .. => some k.src
  | .cpys => some (k.src + BitVec.ofNat 64 (j / k.field 4 4) * k.stride 0x18 + BitVec.ofNat 64 (j % k.field 4 4) * k.stride 0x10)
  | .cpysel => if k.field 0x10 4 = 2 then none
      else some (k.src + BitVec.ofNat 64 (if k.field 0x10 4 = 0 then sel.getD j 0 else j) * k.stride 0x18)

/-- The pattern that is laid where nothing is read. -/
def FCmd.pattern (k : FCmd) : Word := match k.kind with
  | .cpysel => k.stride 0x28
  | _ => k.src

/-- n bytes of a pattern at an address: byte a receives pattern byte a mod 8. -/
def patternBytes (p a : Word) (n : Nat) : List Byte := (List.range n).map fun i => BitVec.ofNat 8 (p.toNat / 2 ^ (8 * ((a.toNat + i) % 8)))

/-- The bytes that a command moves in all. -/
def FCmd.total (k : FCmd) (sel : List Nat) : Nat := match k.kind with
  | .cpysel => min k.len sel.length * k.runLen
  | _ => k.len

/-! ### Acceptance (R198) -/

/-- The descriptor fields that are out of range (R200, R201). -/
def FCmd.badFields (k : FCmd) : Bool :=
  let multiple (off m : Nat) : Bool := k.field off 8 % m == 0
  match k.kind with
  | .cpys =>
    let n0 := k.field 0 4
    n0 % 8 != 0 || n0 < 8 || 2 ^ 24 < n0 || k.field 4 4 < 1 || 65536 < k.field 4 4 || k.field 8 4 < 1 || 65536 < k.field 8 4 ||
      k.field 0x0C 4 != 0 || !multiple 0x10 8 || !multiple 0x18 8 || !multiple 0x20 8 || !multiple 0x28 8 || k.field 0x30 16 != 0
  | .cpysel =>
    let rb := k.field 0 4
    rb % 64 != 0 || rb < 64 || 65536 < rb || k.field 4 4 < 1 || 65536 < k.field 4 4 || !multiple 8 8 || 2 < k.field 0x10 4 ||
      k.field 0x14 4 != 0 || !multiple 0x18 64 || !multiple 0x20 64 || k.field 0x30 16 != 0
  | _ => false

/-- A command with its descriptor. -/
def FCmd.described (k : FCmd) (bs : List Byte) : FCmd :=
  let d := { k with desc := bs }
  { d with len := match d.kind with | .cpysel => d.field 4 4 | _ => d.field 0 4 * d.field 4 4 * d.field 8 4 }

/-- The semaphore and the event bit of a command's end (R195). -/
def State.flumeSignal (s : State) (k : FCmd) : State :=
  let s1 := s.signal k.who.tile k.s.toNat 1
  match k.ev with
  | some e => s1.setEvents k.who.ctx (eventBit e.toNat)
  | none => s1

/-- A command joins the queue of a Flume; `pos` bytes of it are done. -/
def State.queueFlume (s : State) (f : Nat) (k : FCmd) (pos : Nat) : State :=
  let r : FRun := { number := s.serial, cmd := k, pos, done := false, fault := none, packets := [], sel := none, parts := [], classes := [] }
  (s.setFlume f { s.flume f with queue := (s.flume f).queue ++ [r] }).tickSerial

/-- Check 5: the queue has room; a length of 0 moves nothing and signals at once (R199). A thread that waits for room executes its instruction again,
and a CPYS or CPYSEL reads its descriptor anew: DESIGN CHOICE (entry 88). -/
def acceptFlume (s : State) (t : Thread) (i : Instr) (k : FCmd) : Out :=
  let f := flumeOf s.cur.1
  if 32 ≤ (s.flume f).queue.length then block s t .flumeRoom
  else if k.len = 0 then finish (s.flumeSignal k) i id
  else finish (s.queueFlume f k 0) i id

/-- The first unit of a 64-byte descriptor that fails a test. -/
def firstUnit (pa : Nat) (p : Nat → Bool) : Option Nat := ((List.range 8).map fun j => pa + 8 * j).find? p

/-- The bank reads the descriptor of a command at its address; its fields are checked, and POISON of a register follows. -/
def bankDescriptor (s : State) (t : Thread) (i : Instr) (k : FCmd) (gx : Word) (regs : List GReg) (pa : Nat) : Out :=
  match s.readBytes pa 64 with
  | (s1, bs, _) => match firstUnit pa s1.poison.contains with
    | some u => trapBefore s1 t i Cause.poison (gx + BitVec.ofNat 64 (u - pa))
    | none =>
      let k1 := k.described bs
      if k1.badFields then trapBefore s1 t i Cause.prot gx else poisonCheck s1 t i regs (acceptFlume s1 t i k1)

/-- Check 4: the descriptor is read as a thread load reads it. -/
def readDescriptor (s : State) (t : Thread) (i : Instr) (k : FCmd) (gx : Word) (regs : List GReg) : Out :=
  if gx.toNat % 64 ≠ 0 then trapBefore s t i Cause.align gx
  else accessMe s t i .read gx gx fun s1 t1 pa =>
    match firstUnit pa fun u => !s1.unitClear s1.cur.1 s1.cur.2 u with
    | some u => block s1 t1 (.unitDrained u)
    | none => inSlot s1 t1 i gx pa (.descriptor k i gx regs) none fun s2 => bankDescriptor s2 t1 i k gx regs pa

/-- The mould of R196 and R198. A poisoned length gb raises POISON, as the addresses do: DESIGN CHOICE (entry 95). -/
def flume (i : Instr) (te : Bool) (kind : FKind) (d a b : GReg) (sem : BitVec 8) (ds ev : Option (BitVec 8)) (s : State) : Out :=
  issue s i false [⟨d, te⟩, ⟨a, te⟩, ⟨b, te⟩] [] [] fun t =>
    let gd := t.val d
    let ga := t.val a
    let gb := t.val b
    let even := match kind with | .red _ .bf16 _ => true | _ => false
    let unit := if even then 2 else 8
    let seq := match kind with | .red _ _ q => q | _ => false
    let fill := match kind with | .fill => true | _ => false
    let strided := match kind with | .cpys | .cpysel => true | _ => false
    let q := gb.toNat / 2 ^ 32 % 2 ^ 16
    let g := gb.toNat / 2 ^ 48
    let k : FCmd :=
      { kind, dst := gd, src := ga, len := gb.toNat % 2 ^ 32, desc := [], q := if seq then q else 0, g := if seq then g else 0, s := sem, ds, ev,
        poison := fill && t.pois a, who := s.who t, sid := t.sid, mark := BitVec.ofNat 16 t.icount }
    if gd.toNat % unit ≠ 0 then trapBefore s t i Cause.align gd
    else if !fill && ga.toNat % unit ≠ 0 then trapBefore s t i Cause.align ga
    else if strided then readDescriptor s t i k gb [d, a, b]
    else if gb.toNat % unit ≠ 0 then trapBefore s t i Cause.align gb
    else if (if seq then !(1 ≤ g && q < g) else gb.toNat / 2 ^ 32 ≠ 0) then trapBefore s t i Cause.prot gb
    else poisonCheck s t i (if fill then [d, b] else [d, a, b]) (acceptFlume s t i k)

def execCpyW (te : Bool) (d a b : GReg) (sem : BitVec 8) (ds : Option (BitVec 8)) (s : State) : Out :=
  flume (.cpyW te d a b sem ds) te .cpy d a b sem ds none s
def execCpyL (te : Bool) (d a b : GReg) (sem : BitVec 8) (ds : Option (BitVec 8)) (ev : BitVec 8) (s : State) : Out :=
  flume (.cpyL te d a b sem ds ev) te .cpy d a b sem ds (some ev) s
def execCpysW (te : Bool) (d a b : GReg) (sem : BitVec 8) (ds : Option (BitVec 8)) (s : State) : Out :=
  flume (.cpysW te d a b sem ds) te .cpys d a b sem ds none s
def execCpysL (te : Bool) (d a b : GReg) (sem : BitVec 8) (ds : Option (BitVec 8)) (ev : BitVec 8) (s : State) : Out :=
  flume (.cpysL te d a b sem ds ev) te .cpys d a b sem ds (some ev) s
def execCpyselW (te : Bool) (d a b : GReg) (sem : BitVec 8) (ds : Option (BitVec 8)) (s : State) : Out :=
  flume (.cpyselW te d a b sem ds) te .cpysel d a b sem ds none s
def execCpyselL (te : Bool) (d a b : GReg) (sem : BitVec 8) (ds : Option (BitVec 8)) (ev : BitVec 8) (s : State) : Out :=
  flume (.cpyselL te d a b sem ds ev) te .cpysel d a b sem ds (some ev) s
def execCpyredW (te : Bool) (op : RedOp) (ty : RedTy) (seq : Bool) (d a b : GReg) (sem : BitVec 8) (ds : Option (BitVec 8)) (s : State) : Out :=
  flume (.cpyredW te op ty seq d a b sem ds) te (.red op ty seq) d a b sem ds none s
def execCpyredL (te : Bool) (op : RedOp) (ty : RedTy) (seq : Bool) (d a b : GReg) (sem : BitVec 8) (ds : Option (BitVec 8)) (ev : BitVec 8)
    (s : State) : Out :=
  flume (.cpyredL te op ty seq d a b sem ds ev) te (.red op ty seq) d a b sem ds (some ev) s
def execCpyfillW (te : Bool) (d a b : GReg) (sem : BitVec 8) (ds : Option (BitVec 8)) (s : State) : Out :=
  flume (.cpyfillW te d a b sem ds) te .fill d a b sem ds none s
def execCpyfillL (te : Bool) (d a b : GReg) (sem : BitVec 8) (ds : Option (BitVec 8)) (ev : BitVec 8) (s : State) : Out :=
  flume (.cpyfillL te d a b sem ds ev) te .fill d a b sem ds (some ev) s

/-! ### The command word and restart records (R41, R197, R203) -/

def FKind.opcode : FKind → Nat
  | .cpy => 0x60
  | .cpys => 0x61
  | .cpysel => 0x62
  | .red .. => 0x63
  | .fill => 0x64

def RedTy.code2 : RedTy → Nat
  | .fp32 => 0
  | .bf16 => 1
  | .int32 => 2
def RedOp.code2 : RedOp → Nat
  | .add => 0
  | .min => 1
  | .max => 2

def FCmd.cflags (k : FCmd) : Nat :=
  (match k.kind with | .red op ty seq => RedTy.code2 ty * 16 + RedOp.code2 op * 4 + (if seq then 2 else 0) | _ => 0) + (if k.ds.isSome then 1 else 0)

/-- The command word with progress and remain, low bits first. Counts of 2^32 and more stand modulo 2^32: DESIGN CHOICE (entry 87). -/
def FCmd.word (k : FCmd) (progress remain : Nat) : BitVec 256 :=
  BitVec.ofNat 32 progress ++ BitVec.ofNat 32 remain ++ k.src ++ k.dst ++ (k.ds.getD 0) ++ BitVec.ofBool k.ev.isSome ++ (k.ev.getD 0) ++ k.s
    ++ BitVec.ofNat 8 k.who.slot ++ BitVec.ofNat 11 k.who.tile ++ k.who.ctx ++ BitVec.ofNat 6 k.cflags ++ BitVec.ofNat 8 k.kind.opcode

/-- The 64 bytes of the snapshot. -/
def FCmd.snapshot (k : FCmd) : List Byte := match k.kind with
  | .cpys | .cpysel => k.desc
  | .red _ _ true => leBytes k.q 2 ++ leBytes k.g 2 ++ List.replicate 60 0
  | _ => List.replicate 64 0

/-- The word and snapshot of a command of which so many bytes or rows are done; a CPYSEL that has read its bitmap counts its selected rows. -/
def FCmd.saved (k : FCmd) (sel : Option (List Nat)) (progress : Nat) : List Byte :=
  let all := match sel with | some l => min k.len l.length | none => k.len
  leBytes (k.word progress (all - progress)).toNat 32 ++ k.snapshot

/-- Bytes or rows that a run has completed. -/
def FRun.progress (r : FRun) : Nat := r.pos / r.cmd.grain

/-- Writes a restart record to the context's ring, or counts it as lost (R203). More records unread than the ring has room for count as a full ring, and
a poisoned cons counts as its bytes: DESIGN CHOICE (entries 82 and 86). -/
def State.restartRecord (s : State) (f : Nat) (r : FRun) (cause : BitVec 8) (va : Word) : State :=
  let c := s.ctx r.cmd.who.ctx
  let base := baseOf c.rrBase 7
  let n := 2 ^ c.rrLog.toNat
  let s := if s.populated base then s.touchAll (unitsOf base 8) else s
  let cons := BitVec.ofNat 32 (leNat (memRead s.mem base 8))
  if s.populated base && s.populated (base + 128 * n - 1) && (c.rrProd - cons).toNat < n - 1 then
    let bs := r.cmd.saved r.sel r.progress ++ leBytes cause.toNat 8 ++ leBytes va.toNat 8 ++ leBytes (f / 32 * 256 + f % 32) 8 ++ leBytes 0 8
    let s0 := s.writeBytes (base + 128 * (1 + c.rrProd.toNat % (n - 1))) bs false
    let s1 := s0.setCtx r.cmd.who.ctx { s0.ctx r.cmd.who.ctx with rrProd := c.rrProd + 1 }
    if c.rrIrq then s1.irqPush 3 r.cmd.who.tile r.cmd.who.ctx (zext (c.rrProd + 1)) else s1
  else s.setCtx r.cmd.who.ctx { c with rrLost := if c.rrLost = BitVec.allOnes 16 then c.rrLost else c.rrLost + 1, rrNow := (s.cycle, c.rrLostAt s.cycle + 1) }

/-! ### Runs -/

/-- The command of a number, queued or started. -/
def Flume.run? (x : Flume) (number : Nat) : Option FRun := (x.runs ++ x.queue).find? (·.number == number)

def State.setRun (s : State) (f : Nat) (r : FRun) : State :=
  let put (x : FRun) : FRun := if x.number = r.number then r else x
  s.setFlume f { s.flume f with queue := (s.flume f).queue.map put, runs := (s.flume f).runs.map put }

/-- A command ends when its reads are over, its packets have landed and their parts are applied: the counted events, then Signal and the event
bit, or SignalErr and the restart record (R156, R195, R203). -/
def State.endRun (s : State) (f number : Nat) : State :=
  match (s.flume f).runs.find? (·.number == number) with
  | none => s
  | some r =>
    if r.done && r.packets.isEmpty && r.parts.isEmpty then
      let s1 := (s.setFlume f { s.flume f with runs := (s.flume f).runs.filter (·.number != number) }).countAll r.cmd.who r.classes
      match r.fault with
      | none => s1.flumeSignal r.cmd
      | some (c, va) => (s1.signalErr r.cmd.who.tile r.cmd.s.toNat).restartRecord f r c va
    else s

/-- Translation and permission of a Flume access (R109, R110): the address and its page, or the cause and whether a poisoned table entry gave it. -/
def State.flumeAccess (s : State) (f : Nat) (w : Issuer) (k : Access3) (hbm : Bool) (va : Word) : State × Except (BitVec 8 × Bool) (Nat × Nat × Nat) :=
  match s.translateIn (s.flume f).tlb 256 (clusterOf w.tile) w.ctx va with
  | (s1, es, r, bad) =>
    let s2 := s1.setFlume f { s1.flume f with tlb := es }
    match r with
    | .bad c => (s2, .error (c, bad))
    | .ok (.remote ..) _ => (s2, .error (Cause.prot, false))
    | .ok (.mem pa x wr rd) e =>
      if (s2.sramOn pa || (hbm && inHbm pa)) && k.allowed x wr rd then (s2, .ok (pa, e.base, e.size)) else (s2, .error (Cause.prot, false))

/-- Why a command stops: cause, address, and whether a poisoned table entry counts POISON (R108, R156, R203). -/
abbrev FStop := BitVec 8 × Word × Bool

/-- Reads the n units of a bitmap: its bytes, or what stops the command at the unit that fails (R201). -/
def State.readBitmap (s : State) (f : Nat) (w : Issuer) (va : Word) : Nat → State × Except FStop (List Byte)
  | 0 => (s, .ok [])
  | n + 1 => match s.flumeAccess f w .read false va with
    | (s1, .error (c, bad)) => (s1, .error (c, va, bad))
    | (s1, .ok (pa, _)) => match s1.readBytes pa 8 with
      | (s2, _, true) => (s2, .error (Cause.poison, va, false))
      | (s2, bs, false) => match s2.readBitmap f w (va + 8) n with
        | (s3, .error e) => (s3, .error e)
        | (s3, .ok more) => (s3, .ok (bs ++ more))

/-- The rows that a bitmap of n rows selects, in ascending order. -/
def selectedRows (bs : List Byte) (n : Nat) : List Nat := (List.range n).filter fun i => (bs.getD (i / 8) 0).getLsbD (i % 8)

/-- The threads of a context: tile, slot and thread, in order. -/
def State.threadsOf (s : State) (ctx : BitVec 6) : List (Nat × Nat × Thread) :=
  s.tiles.flatMap fun (tile, x) => x.threads.filterMap fun (slot, t) => if t.ctx = ctx then some (tile, slot, t) else none

/-- A site holds the request of a thread at its bank: its turn has not come, or its record waits for room (R240, R241). -/
def State.heldAtSite (s : State) (t : Thread) : Bool :=
  (s.ctx t.ctx).sites.any fun x => x.held.any fun h => h.sid == t.sid && h.tag == BitVec.ofNat 16 t.icount

/-- Steps 2 and 3 of R258: the thread has stopped. A WREVOKE, a TLBINV, a move, a kill, a request at a bank that no site holds, and a vector
instruction that has issued run to their end. -/
def State.atRest (s : State) (t : Thread) : Bool := match t.status with
  | .blocked (.wrevoke ..) _ _ | .blocked (.tlbinv ..) _ _ | .blocked (.moving _) _ _ | .blocked (.located _) _ _ | .blocked .dying _ _ => false
  | .blocked .bank _ _ => s.heldAtSite t
  | _ => !t.inVector

/-- The context of a waiting reduction. -/
def TailReq.isOf (r : TailReq) (ctx : BitVec 6) : Bool := match r with
  | .vred v => v.who.ctx == ctx
  | .turn .. => false

/-- Steps 2 and 3 of R258 for a context that a CTXSAVE of an earlier cycle stops: threads at rest, no innings, commands of the Millstone and the Tailrace
done. -/
def State.threadsDone (s : State) (ctx : BitVec 6) : Bool :=
  (s.ctx ctx).stopAt != some s.cycle && (s.threadsOf ctx).all (fun x => s.atRest x.2.2) &&
  s.clusters.all (fun p =>
    !(p.2.innings.any fun l => l.ctx == ctx) && !(p.2.queue.any fun q => q.who.ctx == ctx && q.cmd != .grant) &&
      !(p.2.vreqs.any fun v => v.isOf ctx) &&
      !(p.2.vred.any fun v => match s.thread? v.tile v.slot with | some t => t.inst == v.inst && t.ctx == ctx | none => false))

/-- The Flumes have stopped the context's commands: step 4 of R258 follows steps 2 and 3 (R204, R353). -/
def State.flumesStop (s : State) (ctx : BitVec 6) : Bool := match (s.ctx ctx).state with
  | .stalled | .saved => true
  | .stopping => s.threadsDone ctx
  | .free | .live | .lost => false

/-- The start of a command reads its bitmap, in a slot of the Flumes (R101, R201). -/
def FRun.readsBitmap (r : FRun) : Bool := (match r.cmd.kind with | .cpysel => true | _ => false) && r.sel.isNone

/-- The command that a Flume starts next: the first of a context that is not stopped. A started command of a stopped context, whose reads are not over,
keeps every other from its start: DESIGN CHOICE (entry 85). -/
def State.nextFlume (s : State) (f : Nat) : Option FRun :=
  if (s.flume f).runs.all (·.done) then
    ((s.flume f).queue.find? fun r => !s.flumesStop r.cmd.who.ctx).filter fun r => s.storesDone r.cmd.who && (!r.readsBitmap || slotClass s.cycle == .flume)
  else none

/-- A command stops: its reads are over (R203). -/
def FRun.stop (r : FRun) (e : FStop) : FRun :=
  { r with done := true, fault := some (e.1, e.2.1), classes := if e.2.2 then r.classes ++ [Class.psn] else r.classes }

/-- FLUME_COMMAND_START: the first read of a command follows the previous command's last (R193, R127); a CPYSEL reads its bitmap now, once
(R201): one that was saved after its start has the rows it has selected. -/
def execFlumeCommandStart (f : Nat) (s : State) : Out :=
  match s.nextFlume f with
  | none => .next s
  | some r =>
    let k := r.cmd
    let s1 := s.setFlume f { s.flume f with queue := (s.flume f).queue.erase r }
    let start (s : State) (sel : Option (List Nat)) (fault : Option FStop) : Out :=
      let r1 : FRun := { r with done := fault.isSome || decide (k.total (sel.getD []) ≤ r.pos), sel }
      let r2 := (fault.map r1.stop).getD r1
      .next ((s.setFlume f { s.flume f with runs := (s.flume f).runs ++ [r2] }).endRun f r.number)
    match k.kind with
    | .cpysel => if r.sel.isSome then start s1 r.sel none else match s1.readBitmap f k.who (k.stride 8) ((k.field 4 4 + 63) / 64) with
      | (s2, .error e) => start s2 none (some e)
      | (s2, .ok bs) => start s2 (some (selectedRows bs (k.field 4 4))) none
    | _ => start s1 none none

/-! ### Reads (R194, R199) -/

/-- What has been read of a packet: the byte after it, its writes, poison and pages, and the banks that were read. -/
structure FRead where
  pos : Nat
  writes : List (Nat × List Byte)
  poison : Bool
  pages : List (Nat × Nat)
  banks : List Nat

/-- The packet that begins at a byte of a command: consecutive writes that fall in one aligned 256-byte destination block. -/
def State.readPacket (s : State) (f : Nat) (k : FCmd) (sel : List Nat) (first : Word) : Nat → FRead → State × Except FStop FRead
  | 0, x => (s, .ok x)
  | fuel + 1, x =>
    let j := x.pos / k.runLen
    let o := x.pos % k.runLen
    let d := k.dstRun sel j + BitVec.ofNat 64 o
    if k.total sel ≤ x.pos || d.toNat / 256 ≠ first.toNat / 256 then (s, .ok x)
    else
      let n := min (min (k.runLen - o) (256 - d.toNat % 256)) (k.total sel - x.pos)
      let red := match k.kind with | .red .. => true | _ => false
      let put (s : State) (n : Nat) (bs : List Byte) (bad : Bool) (pages : List (Nat × Nat)) (banks : List Nat) :=
        match s.flumeAccess f k.who .write (!red) d with
        | (s1, .error (c, b)) => (s1, .error (c, if red then first else d, b))
        | (s1, .ok (pa, pg)) => s1.readPacket f k sel first fuel ⟨x.pos + n, x.writes ++ [(pa, bs)], x.poison || bad, x.pages ++ pages ++ [pg], x.banks ++ banks⟩
      match k.srcRun sel j with
      | none => put s n (patternBytes k.pattern d n) k.poison [] []
      | some src =>
        let a := src + BitVec.ofNat 64 o
        let m := min n (65536 - a.toNat % 65536)
        match s.flumeAccess f k.who .read true a with
        | (s1, .error (c, b)) => (s1, .error (c, a, b))
        | (s1, .ok (pa, pg)) => match s1.readBytes pa m with
          | (s2, bs, bad) => put s2 m bs bad [pg] (banksOf pa m)

/-- The run whose reads go on, if its context is not stopped (R204). -/
def State.reading (s : State) (f : Nat) : Option FRun :=
  ((s.flume f).runs.find? fun r => !r.done).filter fun r => !s.flumesStop r.cmd.who.ctx

/-- FLUME_READ: the next packet is read, in a slot of the Flumes where it reads SRAM (R101); a failed translation or permission stops the command (R203). -/
def execFlumeRead (f : Nat) (s : State) : Out :=
  match s.reading f with
  | none => .next s
  | some r =>
    let sel := r.sel.getD []
    let first := r.cmd.dstRun sel (r.pos / r.cmd.runLen) + BitVec.ofNat 64 (r.pos % r.cmd.runLen)
    match s.readPacket f r.cmd sel first (r.cmd.total sel - r.pos) ⟨r.pos, [], false, [], []⟩ with
    | (s1, .error e) => .next ((s1.setRun f (r.stop e)).endRun f r.number)
    | (s1, .ok x) =>
      let k : FPacket := ⟨r.pos, first, x.writes, x.poison, s1.serial, x.pages⟩
      if !s.flumeSlot x.banks then .next s
      else .next ((s1.useSlots x.banks).tickSerial.setRun f
        { r with pos := x.pos, done := decide (r.cmd.total sel ≤ x.pos), packets := r.packets ++ [k],
                 classes := if x.poison && !r.cmd.poison then r.classes ++ [Class.psn] else r.classes })

/-! ### Pre-emption (R204) -/

/-- Bytes of a packet. -/
def FPacket.size (p : FPacket) : Nat := (p.writes.map (·.2.length)).sum

/-- The packets of a run that have begun to write when its context is stopped: all but the one that was read last, if that is still to land. The packets of a
command that has failed have all begun (R203, R204, entry 42). -/
def FRun.begun (r : FRun) : List FPacket := match r.packets.getLast? with
  | some p => if r.fault.isNone && p.start + p.size == r.pos then r.packets.dropLast else r.packets
  | none => []

/-- A packet of a run may land: it has begun to write, or its context is not stopped (R204). -/
def State.mayLand (s : State) (r : FRun) (p : FPacket) : Bool := !s.flumesStop r.cmd.who.ctx || r.begun.contains p

/-! ### Landing (R194, R195, R202) -/

/-- The packets of a Flume that have been read and not landed, each with its run. -/
def State.flying (s : State) (f : Nat) : List (FRun × FPacket) := ((s.flume f).runs.map fun r => r.packets.map fun k => (r, k)).flatten

/-- The tile of which a landed packet signals ds (R195). -/
def FPacket.signalTile (p : FPacket) (k : FCmd) : Nat := match p.writes with
  | (pa, _) :: _ => if inSram pa then paTile pa else k.who.tile
  | [] => k.who.tile

def State.signalDs (s : State) (k : FCmd) (tile : Nat) : State := match k.ds with
  | some d => s.signal tile d.toNat 1
  | none => s

/-- The 64-byte parts of a reducing packet. -/
def partsOf (f : Nat) (r : FRun) (p : FPacket) (op : RedOp) (ty : RedTy) (seq : Bool) : List RedPart :=
  let pa := (p.writes.head?.map (·.1)).getD 0
  let bs := (p.writes.map (·.2)).flatten
  let b0 := pa / 64
  (List.range ((pa + bs.length - 1) / 64 - b0 + 1)).map fun j =>
    let lo := max pa ((b0 + j) * 64)
    let hi := min (pa + bs.length) ((b0 + j + 1) * 64)
    { op, ty, pa := lo, bytes := (bs.drop (lo - pa)).take (hi - lo), poison := p.poison, who := r.cmd.who, sid := r.cmd.sid, mark := r.cmd.mark,
      arr := !seq, cmd := r.number, flume := f, number := p.number, pages := p.pages }

/-- Parts reach their banks. -/
def State.toBanks (s : State) (ps : List RedPart) : State :=
  ps.foldl (fun s q => s.setBank (bankOf q.pa) (s.bank (bankOf q.pa) ++ [.red q])) s

/-- A contribution of the expected number goes to its banks, and so do the held ones that it lets pass. -/
def State.passSeq (s : State) (tile : Nat) : Nat → SeqHeld → State
  | 0, _ => s
  | fuel + 1, h =>
    let key := h.block * 65536 + h.g
    let next := (h.q + 1) % h.g
    let x := s.tile tile
    let s1 := (s.setTile tile { x with expq := Tab.put x.expq key next, hold := x.hold.erase h }).toBanks h.parts
    match x.hold.find? fun y => y.block == h.block && y.g == h.g && y.q == next && y != h with
    | some y => s1.passSeq tile fuel y
    | none => s1

/-- A .seq contribution arrives: applied, held, or refused for want of room in the hold buffer. -/
def State.takeSeq (s : State) (tile : Nat) (h : SeqHeld) : Option State :=
  let x := s.tile tile
  if Tab.get 0 x.expq (h.block * 65536 + h.g) = h.q then some (s.passSeq tile (x.hold.length + 1) h)
  else if x.hold.length < 64 then some (s.setTile tile { x with hold := x.hold ++ [h] })
  else none

/-- The units that the pieces of a packet cover together, which it writes whole (R113, R252). -/
def FPacket.covers (p : FPacket) : List Nat :=
  (p.writes.flatMap fun w => unitsOf w.1 w.2.length).filter fun u =>
    (List.range (unitSize u)).all fun j => p.writes.any fun w => w.1 ≤ u + j && u + j < w.1 + w.2.length

/-- The banks to which a packet is written. -/
def FPacket.banks (p : FPacket) : List Nat := (p.writes.flatMap fun w => banksOf w.1 w.2.length).eraseDups

/-- What landing packet k of a Flume does, or none when it cannot land yet: a packet is written in a slot of the Flumes, and a part of a reducing one goes
to its bank (R101, R202). -/
def State.land (s : State) (f k : Nat) : Option State :=
  match (s.flying f)[k]? with
  | none => none
  | some (r, p) =>
    let r1 := { r with packets := r.packets.erase p }
    if !s.mayLand r p then none
    else match r.cmd.kind with
    | .red op ty seq =>
      let ps := partsOf f r p op ty seq
      let tile := p.signalTile r.cmd
      let s1 := s.setRun f { r1 with parts := r1.parts ++ [(p.number, ps.length, tile)] }
      if seq then if r.packets.head? != some p then none else s1.takeSeq tile ⟨(ps.head?.map (·.pa)).getD 0 / 256, r.cmd.q, r.cmd.g, ps⟩
      else if (s.ctx r.cmd.who.ctx).mode != 0 && r.packets.head? != some p then none
      else some (s1.toBanks ps)
    | _ =>
      let ks := p.banks
      let s1 := p.writes.foldl (fun s w => s.writeBytes w.1 w.2 p.poison) (((s.useSlots ks).setRun f r1).renew p.covers)
      if !s.flumeSlot ks then none else some ((s1.signalDs r.cmd (p.signalTile r.cmd)).endRun f r.number)

/-- FLUME_PACKET_LAND. -/
def execFlumePacketLand (f k : Nat) (s : State) : Out := .next ((s.land f k).getD s)

/-! ### Reduction at the destination (R202) -/

/-- One element combined: d := op(d, e), and the classes counted. -/
def combine (op : RedOp) (ty : RedTy) (d e : Nat) : Nat × List Nat :=
  match ty, op with
  | .fp32, _ => redStep op .fp32 d e
  | .int32, _ => redStep op .int32 d e
  | .bf16, .add => Fp.bf16.add .rne (Fp.bf16.decode d) (Fp.bf16.decode e)
  | .bf16, .min => Fp.minMaxNum Fp.bf16 false d e
  | .bf16, .max => Fp.minMaxNum Fp.bf16 true d e

def RedTy.bytes : RedTy → Nat
  | .bf16 => 2
  | _ => 4

/-- Elements of n bytes combined over two byte strings; the first argument bounds their number. -/
def combineAll (op : RedOp) (ty : RedTy) : Nat → List Byte → List Byte → List Byte × List Nat
  | 0, _, _ => ([], [])
  | fuel + 1, ds, es =>
    if es.isEmpty then ([], [])
    else
      let n := RedTy.bytes ty
      let r := combine op ty (leNat (ds.take n)) (leNat (es.take n))
      let q := combineAll op ty fuel (ds.drop n) (es.drop n)
      (leBytes r.1 n ++ q.1, r.2 ++ q.2)

/-- Applies a part at its bank: the poison of the packet and of each destination unit stays with the unit. -/
def State.applyPart (s : State) (q : RedPart) : State × List Nat :=
  match s.readBytes q.pa q.bytes.length with
  | (s1, old, _) =>
    let r := combineAll q.op q.ty q.bytes.length old q.bytes
    let bad := (unitsOf q.pa q.bytes.length).filter s1.poison.contains
    let s2 := s1.writeBytes q.pa r.1 q.poison
    ({ s2 with poison := bad.foldl setAdd s2.poison }, r.2)

/-- A part of a packet has been applied: with its last part the packet has landed. -/
def State.partDone (s : State) (q : RedPart) (classes : List Nat) : State :=
  match (s.flume q.flume).run? q.cmd with
  | none => s
  | some r => match r.parts.find? (·.1 == q.number) with
    | none => s
    | some (n, left, tile) =>
      let r1 := { r with classes := r.classes ++ classes }
      if left ≤ 1 then ((s.setRun q.flume { r1 with parts := r.parts.erase (n, left, tile) }).signalDs r.cmd tile).endRun q.flume q.cmd
      else s.setRun q.flume { r1 with parts := r.parts.map fun x => if x = (n, left, tile) then (n, left - 1, tile) else x }

end Sys2Proof.Machine
end

