-- ==== Sys2Proof/Machine/Bank.lean ====
section
/-! DEFINITION. The sequencer and mesh-in slots of a bank: which request a slot serves, and what it does (R101, R102, R131, R202, R236, R296). -/

namespace Sys2Proof.Machine
open Sys2Proof

/-! ### A bank serves a thread (R101, R296) -/

/-- What a bank does for the current thread. -/
def runOp (s : State) (t : Thread) (op : BankOp) (pa size : Nat) : Out :=
  match op with
  | .load z d => bankLoad s t size z d pa
  | .refill va => bankRefill s t va pa
  | .descriptor k i va regs => bankDescriptor s t i k va regs pa
  | .amo op z d data poison => atomicDone t size d poison (s.bankAmo op z pa data poison)
  | .cas z d expect data poison source => atomicDone t size d source (s.bankCas z pa expect data poison)
  | .binit object => bankBinit s size pa object
  | .barr d n => bankBarr s t size pa d n
  | .bexp n => bankBexp s t size pa n
  | .bread d phase bound poison => bankBread s t size pa d phase bound poison

/-- The order point of a request of a thread (R236). -/
def BankOp.point (op : BankOp) (pa : Nat) : Option (BitVec 6 × BitVec 34) :=
  match op with
  | .load .. | .refill _ | .descriptor .. | .bread .. => none
  | .amo .. | .cas .. => some (1, unitSite pa)
  | .binit _ | .barr .. | .bexp _ => some (7, barrierSite pa)

/-- A request is still wanted: its thread waits for it, or its store still stands in a FIFO or bridge buffer. -/
def State.bankLive (s : State) (r : BankReq) : Bool := match r with
  | .remote .. | .red _ => true
  | .thread tile slot inst .. => match s.thread? tile slot with
    | some t => t.inst == inst && (t.status matches .blocked .bank _ _)
    | none => false
  | .store tile n => (s.tile tile).fifo.any (·.number == n) || s.bridge.any (·.entry.number == n)

/-- A read, AMO or CAS waits until no bridge entry to it is pending (R118). -/
def State.bridgeBars (s : State) (op : BankOp) (pa : Nat) : Bool := match op with
  | .load .. | .refill _ | .amo .. | .cas .. => s.bridge.any fun e => e.entry.unit == pa / 8 * 8
  | .bread .. => s.bridge.any fun e => e.entry.unit / 16 == pa / 16
  | .descriptor .. => s.bridge.any fun e => e.entry.unit / 64 == pa / 64
  | .binit _ | .barr .. | .bexp _ => false

/-- The slot of the cycle can serve a request: it is its class's, and the request has reached the bank, where no store of a bridge buffer to its unit is
pending; a barrier request once every other of its cycle has (R101, R118, R296). -/
def State.bankHere (s : State) (bank : Nat) (r : BankReq) : Bool := slotClass s.cycle == r.slotClass bank && match r with
  | .thread _ _ _ op pa _ c .. => (if op.isBarrier then c < s.cycle else c ≤ s.cycle) && !s.bridgeBars op pa
  | _ => true

/-- The contender of a part: the stream and tag of its command (R237). -/
def RedPart.contender (q : RedPart) : Contender := ⟨q.sid, q.mark, q.who.tile, q.who.slot, some q.who.ctx⟩

/-- The context, order point, site and contender of a request at a bank, if it passes an order point (R236). -/
def State.bankPoint (s : State) (bank : Nat) (r : BankReq) : Option (BitVec 6 × BitVec 6 × BitVec 34 × Contender) := match r with
  | .remote p pa c .. => p.point.map fun k => (c, k, unitSite pa, s.contenderOf p)
  | .red q => if q.arr then some (q.who.ctx, 2, siteOf (bank / 16) (bank % 16), q.contender) else none
  | .thread tile slot _ op pa .. => match s.thread? tile slot with
    | some t => (op.point pa).map fun x => (t.ctx, x.1, x.2, t.contender (tile, slot))
    | none => none
  | .store .. => none

/-- The requests at a bank contend at their sites in the order of their arrival there, served or not, where decisions are recorded or replayed (R238, R241). -/
def State.contend (s : State) (bank : Nat) : List BankReq → State
  | [] => s
  | r :: rest => match if s.bankHere bank r then s.bankPoint bank r else none with
    | some (c, point, site, k) =>
      if (s.ctx c).mode = 0 then s.contend bank rest
      else
        let x := (s.ctx c).site point site
        (s.setCtx c ((s.ctx c).setSite { x with held := x.with k })).contend bank rest
    | none => s.contend bank rest

/-- The oldest request that is admitted, and the state after the decisions (R102, R240, R241). -/
def State.pickBank (s : State) (bank : Nat) : List BankReq → State × Option BankReq
  | [] => (s, none)
  | r :: rest =>
    if !s.bankHere bank r then s.pickBank bank rest
    else match s.bankPoint bank r with
      | none => (s, some r)
      | some x => match s.decideAt x.1 x.2.1 x.2.2.1 x.2.2.2 with
        | .go s1 => (s1, some r)
        | .hold s1 | .room s1 => s1.pickBank bank rest

/-- What the slot of this cycle finds at a bank, once requests that no one wants any more are gone. -/
def State.bankNext (s : State) (bank : Nat) : State × Option BankReq :=
  if (s.slotFree .sequencer bank || s.slotFree .meshIn bank) then
    let q := (s.bank bank).filter s.bankLive
    ((if q == s.bank bank then s else s.setBank bank q).contend bank q).pickBank bank q
  else (s, none)

/-- The slot serves a request: it leaves the queue. -/
def State.takeBank (s : State) (bank : Nat) (r : BankReq) : State := (s.setBank bank ((s.bank bank).erase r)).useSlot bank

/-- A thread that issues no earlier than in the next cycle, so that RDCTL sees what its instruction has counted in this one (R319). -/
def Thread.after (t : Thread) (cycle : Nat) : Thread := { t with pipe := max t.pipe (cycle + 1) }

/-- The bank serves the request of a thread, which goes on in the next cycle. -/
def State.serveThread (s : State) (tile slot : Nat) (op : BankOp) (pa size : Nat) : Out :=
  match s.thread? tile slot with
  | none => .next s
  | some t => match runOp (({ s with cur := (tile, slot) } : State).setMe (t.after s.cycle)) (t.after s.cycle) op pa size with
    | .next s1 => .next { s1 with cur := s.cur }
    | r => r

/-- BANK_SLOT_SERVICE: the slot serves a remote request, a thread of this device, or a store (R101, R102, R131, R296). A part of a CPYRED packet
is the concern of CPYRED_APPLY. -/
def execBankSlotService (tile bank : Nat) (s : State) : Out :=
  let k := tile * 16 + bank
  match s.bankNext k with
  | (s1, none) => .next s1
  | (s1, some r) => match r with
    | .remote p pa _ _ _ => .next ((s1.takeBank k r).performRequest p pa)
    | .thread tile slot _ op pa size .. => (s1.takeBank k r).serveThread tile slot op pa size
    | .store tile n => .next ((s1.takeBank k r).serveStore tile n)
    | .red _ => .next s

/-- CPYRED_APPLY: the mesh-in slot applies a part of a packet (R202). -/
def execCpyredApply (tile bank : Nat) (s : State) : Out :=
  let k := tile * 16 + bank
  match s.bankNext k with
  | (s1, some (.red q)) => match (s1.takeBank k (.red q)).applyPart q with
    | (s2, cs) => .next (s2.partDone q cs)
  | _ => .next s

end Sys2Proof.Machine
end

