-- ==== Sys2Proof/Machine/Links.lean ====
section
/-! DEFINITION. Link security: keys, flits, replay and link events (R280 to R285). -/

namespace Sys2Proof.Machine
open Sys2Proof

/-! ### Slots and events -/

def slotIndex (b : Bool) : Nat := if b then 1 else 0
def Port.tx (q : Port) (b : Bool) : KeySlot := Tab.get KeySlot.empty q.txs (slotIndex b)
def Port.rx (q : Port) (b : Bool) : KeySlot := Tab.get KeySlot.empty q.rxs (slotIndex b)
def Port.setTx (q : Port) (b : Bool) (x : KeySlot) : Port := { q with txs := Tab.put q.txs (slotIndex b) x }
def Port.setRx (q : Port) (b : Bool) (x : KeySlot) : Port := { q with rxs := Tab.put q.rxs (slotIndex b) x }

/-- Performs a link event's signal (R284). -/
def State.linkSignal (s : State) (port : Nat) : State :=
  let q := s.port port
  if s.tileOn q.evTile.toNat then s.signal q.evTile.toNat q.evSem.toNat 1 else s

/-- The events of lnk.evt raised in a cycle: auth, down, rxsw, due. -/
def Port.raisedAt (q : Port) (cycle : Nat) : BitVec 4 := if q.evNow.1 = cycle then q.evNow.2 else 0

/-- A link event, one of the four: its bit, then its signal. -/
def State.linkEvent (s : State) (port : Nat) (ev : BitVec 4) (set : Port → Port) : State :=
  let q := set (s.port port)
  (s.setPort port { q with evNow := (s.cycle, q.raisedAt s.cycle ||| ev) }).linkSignal port

/-- Logs LINK_AUTH (R265). -/
def State.logAuth (s : State) (port : Nat) (slot send : Bool) (counter : Word) : State :=
  s.logError 0 7 (logUnit 5 port) (counter.truncate 48) (BitVec.ofNat 60 (port + slot.toNat * 16 + send.toNat * 32))

/-- Counter limits (R281). -/
def dueLimit : Word := BitVec.ofNat 64 (2 ^ 36 - 2 ^ 24)
def stopLimit : Word := BitVec.ofNat 64 (2 ^ 36)

/-- The IV of R280. -/
def linkIv (slot : Bool) (dev : BitVec 11) (port : Nat) (counter : Word) : BitVec 96 :=
  BitVec.ofNat 8 (slotIndex slot) ++ (0 : BitVec 16) ++ dev ++ BitVec.ofNat 4 port ++ counter.truncate 57

/-- The device at the other end of a port, and the port by which it sends here (R206). -/
def State.neighbour (s : State) (port : Nat) : BitVec 11 :=
  let k := port / 4
  let n := s.dim k
  let c := if port / 2 % 2 = 0 then (coord s.fabSelf k + 1) % n else (coord s.fabSelf k + n - 1) % n
  let x := if k = 0 then c else coord s.fabSelf 0
  let y := if k = 1 then c else coord s.fabSelf 1
  let z := if k = 2 then c else coord s.fabSelf 2
  BitVec.ofNat 11 (x * 128 + y * 8 + z)
def farPort (port : Nat) : Nat := if port / 2 % 2 = 0 then port + 2 else port - 2

/-! ### Sending -/

/-- A flit under the current slot, if it holds a key. -/
def State.newFlit (s : State) (port : Nat) (kind : BitVec 2) (h : Hdr) (pt : BitVec 1792) : Option Flit :=
  let q := s.port port
  let x := q.tx q.txcur
  x.key.map fun key =>
    let hdr := { h with link := kind ++ BitVec.ofBool q.txcur }.bits
    let c := Config.gcmSeal key (linkIv q.txcur s.fabSelf port x.counter) hdr pt
    { hdr, slot := q.txcur, kind, counter := x.counter, ct := c.1, mac := c.2 }

/-- The counter of the current slot advances. -/
def Port.count (q : Port) : Port := q.setTx q.txcur { q.tx q.txcur with counter := (q.tx q.txcur).counter + 1 }

/-- A flit goes onto the link and into the retry buffer. -/
def State.sendFlit (s : State) (port : Nat) (f : Flit) : State :=
  let q := s.port port
  { s.setPort port { q with retry := q.retry ++ [f] } with wire := s.wire ++ [(port, f)] }

/-- A new flit under the current slot, whose counter advances. -/
def State.sealFlit (s : State) (port : Nat) (kind : BitVec 2) (h : Hdr) (pt : BitVec 1792) : State :=
  match s.newFlit port kind h pt with
  | none => s
  | some f => (s.setPort port (s.port port).count).sendFlit port f

/-- The due event: the current slot's counter has reached its first limit (R281). It is raised once for a key. -/
def State.raiseDue (s : State) (port : Nat) : State :=
  let q := s.port port
  let x := q.tx q.txcur
  if x.counter = dueLimit && !x.warned then s.linkEvent port 8 fun q => { q.setTx q.txcur { x with warned := true } with due := true } else s

/-- LINK_DUE. -/
def execLinkDue (port : Nat) (s : State) : Out := .next (s.raiseDue port)

/-- The direction can form flits: a key, and a counter below its limit, and it is up. -/
def Port.live (q : Port) : Bool := (q.tx q.txcur).key.isSome && (q.tx q.txcur).counter < stopLimit && !q.txDown

/-- A new flit can be sent: the direction is live and the retry buffer has room. -/
def Port.open (q : Port) : Bool := q.live && q.retry.length < 128

/-- Flits can be replayed: the direction is up, or stopped by its counter only (R285). -/
def Port.replays (q : Port) : Bool := !q.replay.isEmpty && (!q.txDown || (q.tx q.txcur).counter == stopLimit)

/-- A sealed marker can be sent. -/
def Port.marks (q : Port) : Bool := q.marker.isSome && q.retry.length < 128 && !q.txDown

/-- The port has a flit to send. -/
def Port.sends (q : Port) : Bool :=
  q.replays || (q.replay.isEmpty && (q.marks || (q.marker.isNone && q.open && (!q.ctl.isEmpty || !q.out.isEmpty))))

/-- The channels in which packets wait. -/
def Port.waiting (q : Port) : List (BitVec 4) := (q.out.map fun p => p.hdr.vc).eraseDups

/-- The packet that leaves a port next: the oldest of one of its channels (R208, entry 59). -/
def State.nextOut (s : State) (port : Nat) : Option (State × Packet) :=
  let q := s.port port
  match q.waiting with
  | [] => none
  | [vc] => (q.channel vc).head?.map fun p => (s, p)
  | vcs => (q.channel (vcs.getD (Config.linkPick s.fresh % vcs.length) 0)).head?.map fun p => ({ s with fresh := s.fresh + 1 }, p)

/-- FLIT_SEND: a flit to be replayed, else a marker, a control flit or the oldest packet of a channel (R208, R281 to R283). -/
def execFlitSend (port : Nat) (s : State) : Out :=
  let q := s.port port
  if !q.sends then .next s
  else match q.replay, q.marker, q.ctl with
    | f :: fs, _, _ =>
      let s1 := s.setPort port { q with replay := fs }
      .next { s1 with wire := s1.wire ++ [(port, f)] }
    | [], some f, _ => .next ((s.setPort port { q with marker := none, markerOut := true }).sendFlit port f)
    | [], none, c :: cs => .next (((s.setPort port { q with ctl := cs }).sealFlit port 2 default (Config.packControl c.kind c.slot c.counter)).raiseDue port)
    | [], none, [] => match s.nextOut port with
      | some (s1, p) => .next (((s1.setPort port { q with out := q.out.erase p }).sealFlit port 0 p.hdr (Config.packPayload p)).raiseDue port)
      | none => .next s

/-! ### Receiving -/

/-- Control contents: 0 acknowledgement, 1 NAK, 2 down notice, which the next control flit carries. -/
def Port.tell (q : Port) (kind : Nat) (slot : Bool) (counter : Word) : Port :=
  let c : Control := { kind, slot, counter }
  { q with ctl := if kind = 2 then c :: q.ctl else (if kind = 0 then q.ctl.filter (fun c => c.kind != 0) else q.ctl) ++ [c] }

/-- NAK_RECEIVE: go-back-N from the flit that the other end expects (R283). -/
def execNakReceive (port : Nat) (slot : Bool) (counter : Word) (s : State) : Out :=
  let q := s.port port
  match q.retry.dropWhile fun f => !(f.slot == slot && f.counter == counter) with
  | [] => .next s
  | fs => .next (s.setPort port { q with replay := fs })

/-- The flits after one that is acknowledged, and whether a marker is among those that leave. -/
def acked (slot : Bool) (counter : Word) : List Flit → Option (List Flit × Bool)
  | [] => none
  | f :: fs =>
    if f.slot == slot && f.counter == counter then some (fs, f.kind == 1)
    else (acked slot counter fs).map fun r => (r.1, r.2 || f.kind == 1)

/-- ACK_RECEIVE: flits up to the acknowledged one leave the retry buffer. -/
def execAckReceive (port : Nat) (slot : Bool) (counter : Word) (s : State) : Out :=
  let q := s.port port
  match acked slot counter q.retry with
  | none => .next s
  | some (fs, marker) => .next (s.setPort port { q with retry := fs, replay := q.replay.filter fun f => fs.contains f, markerOut := q.markerOut && !marker })

/-- A sending direction stops: the down event, and LINK_AUTH (R281). -/
def State.stopSending (s : State) (port : Nat) : State :=
  let q := s.port port
  if q.txDown then s
  else (s.linkEvent port 2 fun q => { q with txDown := true, down := true }).logAuth port q.txcur true (q.tx q.txcur).counter

/-- The direction stops where the current slot's counter has reached its limit (R281). -/
def State.exhausted (s : State) (port : Nat) : State :=
  if ((s.port port).tx (s.port port).txcur).counter = stopLimit then s.stopSending port else s

/-- LINK_COUNTER_EXHAUSTED: the direction stops (R281). -/
def execLinkCounterExhausted (port : Nat) (s : State) : Out := .next (s.exhausted port)

/-- DOWN_NOTICE_RECEIVE: the other end accepts no more; this direction stops as for an exhausted counter (R283). -/
def execDownNoticeReceive (port : Nat) (s : State) : Out := .next (s.stopSending port)

/-- LINK_AUTH_DOWN: eight consecutive failures at one counter (R283). -/
def execLinkAuthDown (port : Nat) (s : State) : Out :=
  let q := s.port port
  if 8 ≤ q.fails && !q.rxDown then
    .next (s.linkEvent port 2 fun q => { q with rxDown := true, down := true }.tell 2 q.rxcur (q.rx q.rxcur).counter)
  else .next s

/-- An authentication failure: logged, and a NAK names the slot and counter that are expected. -/
def State.linkFail (s : State) (port : Nat) (f : Flit) : State :=
  let s1 := s.linkEvent port 1 fun q => { q with fails := q.fails + 1, auth := true }.tell 1 q.rxcur (q.rx q.rxcur).counter
  s1.logAuth port (linkSlot f.hdr) false f.counter

/-- A flit was accepted: the expected counter advances, and an acknowledgement goes out, for control flits once in 32. -/
def Port.accept (q : Port) (f : Flit) : Port :=
  let x := q.rx q.rxcur
  let q1 := { q with fails := 0, sinceAck := q.sinceAck + 1 }.setRx q.rxcur { x with counter := x.counter + 1 }
  if linkKind f.hdr != 2 || 32 ≤ q1.sinceAck then { q1 with sinceAck := 0 }.tell 0 (linkSlot f.hdr) f.counter else q1

/-- What an accepted flit does by the kind in its header: a packet goes on with that header, a marker switches slots, a control flit is heard, kind 3 is discarded. -/
def State.takeFlit (s : State) (port : Nat) (f : Flit) (pt : BitVec 1792) : Out :=
  if linkKind f.hdr = 0 then
    .next (s.cause (.packetHop { Config.unpackPayload f.hdr pt with hdr := Hdr.ofBits f.hdr, port, acked := false }))
  else if linkKind f.hdr = 1 then
    let q := s.port port
    if (q.rx (!q.rxcur)).key.isSome then .next (s.linkEvent port 4 fun q => { q with rxcur := !q.rxcur, rxsw := true })
    else .next (s.linkEvent port 2 fun q => { q with rxDown := true, down := true })
  else if linkKind f.hdr = 2 then
    let c := Config.unpackControl pt
    if c.1 = 0 then execAckReceive port c.2.1 c.2.2 s
    else if c.1 = 1 then execNakReceive port c.2.1 c.2.2 s
    else execDownNoticeReceive port s
  else .next (s.logError 0 8 (logUnit 5 port) (f.hdr.extractLsb' 80 48) (f.hdr.extractLsb' 20 60))

/-- FLIT_RECEIVE: tag and counter are checked against the expected slot and counter (R282, R283). -/
def execFlitReceive (port : Nat) (f : Flit) (s : State) : Out :=
  let q := s.port port
  let x := q.rx q.rxcur
  match x.key with
  | none => .next (s.logAuth port (linkSlot f.hdr) false f.counter)
  | some key =>
    if q.rxDown || 8 ≤ q.fails then .next s
    else
      let pt := Config.gcmOpen key (linkIv q.rxcur (s.neighbour port) (farPort port) x.counter) f.hdr f.ct f.mac
      match linkSlot f.hdr == q.rxcur && f.counter == x.counter, pt with
      | true, some p => (s.setPort port (q.accept f)).takeFlit port f p
      | good, _ => if !good && q.fails != 0 then .next s else .next (s.linkFail port f)

/-! ### Keys and the switch (R282, R284) -/

/-- A port as it stood at the end of the cycle before. -/
def State.portBefore (s : State) (port : Nat) : Port := Tab.get Port.reset s.last.ports port

/-- A marker has switched the receiver in this cycle; or it has found no key in the receiver's other slot (R282). -/
def State.markerTook (s : State) (port : Nat) : Bool := ((s.port port).raisedAt s.cycle).getLsbD 2
def State.markerFailed (s : State) (port : Nat) : Bool :=
  let q := s.port port
  (q.raisedAt s.cycle).getLsbD 1 && q.rxDown && !(s.portBefore port).rxDown && q.fails == 0

/-- The current slot of a direction as a write to lnk.keyslot meets it, which comes before what a marker does in its cycle (R339). -/
def State.slotBefore (s : State) (port : Nat) (rx : Bool) : Bool :=
  let q := s.port port
  if rx then q.rxcur != s.markerTook port else q.txcur

/-- A marker of this cycle finds no key, or a key, where it found the other before a write of the cycle (R282, R339). -/
def State.markerTurns (s : State) (port : Nat) (q : Port) (took : Bool) : Port :=
  let q0 := s.portBefore port
  if took then { q with rxcur := !q.rxcur, rxDown := true, down := true, rxsw := q0.rxsw, evNow := (s.cycle, q.raisedAt s.cycle &&& 0xB ||| 2) }
  else
    let stops := q.txDown && !q0.txDown
    { q with rxcur := !q.rxcur, rxDown := false, down := q0.down || stops, rxsw := true,
             evNow := (s.cycle, (if stops then q.raisedAt s.cycle else q.raisedAt s.cycle &&& 0xD) ||| 4) }

/-- Installs the key registers in a slot, unless it is current and holds a key. -/
def State.installKey (s : State) (port : Nat) (rx slot : Bool) : State :=
  let q := s.port port
  let old := if rx then q.rx slot else q.tx slot
  if s.slotBefore port rx == slot && old.key.isSome then s
  else
    let x : KeySlot := ⟨some s.lnkKeys, 0, false⟩
    let q1 := if rx then q.setRx slot x else q.setTx slot x
    { s.setPort port (if rx && s.markerFailed port && slot != q.rxcur then s.markerTurns port q1 false else q1) with lnkKeys := 0 }

/-- Erases the key of a slot that is not current. -/
def State.eraseKey (s : State) (port : Nat) (rx slot : Bool) : State :=
  let q := s.port port
  if s.slotBefore port rx == slot then s
  else
    let q1 := if rx then q.setRx slot KeySlot.empty else q.setTx slot KeySlot.empty
    s.setPort port (if rx && s.markerTook port then s.markerTurns port q1 true else q1)

/-- A switch request, which is ignored while a marker is unacknowledged or the other slot holds no key: a marker is sealed under the current slot, and the
other slot is current at once (R282). A direction that can form no flit switches without a marker: DESIGN CHOICE (entry 70); one whose counter has reached its limit stops as well
(R281). -/
def State.switchKey (s : State) (port : Nat) : State :=
  let q := s.port port
  if q.marker.isSome || q.markerOut || (q.tx (!q.txcur)).key.isNone then s
  else if q.live then s.setPort port { q.count with marker := s.newFlit port 1 default 0, txcur := !q.txcur }
  else
    let s1 := s.exhausted port
    s1.setPort port { s1.port port with txcur := !q.txcur }

def execKeyInstall (port : Nat) (rx : Bool) (slot : Bool) (s : State) : Out := .next (s.installKey port rx slot)
def execKeyErase (port : Nat) (rx : Bool) (slot : Bool) (s : State) : Out := .next (s.eraseKey port rx slot)
def execLnkSwitch (port : Nat) (s : State) : Out := .next (s.switchKey port)

end Sys2Proof.Machine
end

