-- ==== Sys2Proof/Machine/Ctl.lean ====
section
/-! DEFINITION. Control registers: privileges, reads, writes, and the events of single fields (R7, R319, R320, R338). -/

namespace Sys2Proof

/-- Registers that only firmware slots may read (R320). -/
def ctlPrivRead (n : Nat) : Bool :=
  (0x24 ≤ n && n ≤ 0x28) || n == 0x30 || n == 0x32 || n == 0x70 || n == 0x71 || (0xA0 ≤ n && n ≤ 0xA4) || (0xB0 ≤ n && n ≤ 0xB5) || n == 0xBC
    || n == 0xBD || (0xC0 ≤ n && n ≤ 0xC5) || (0xE0 ≤ n && n ≤ 0xE7) || (0xF0 ≤ n && n ≤ 0xF2)
/-- Registers that every slot may write, or whose fields are all RO. -/
def ctlFreeWrite (n : Nat) : Bool := n == 0x11 || (0x41 ≤ n && n ≤ 0x43) || n == 0x61 || n == 0x90 || n == 0x91 || n == 0xB8

/-- n bits of a word from bit lo. -/
def field (v : Word) (lo n : Nat) : Nat := v.toNat / 2 ^ lo % 2 ^ n
/-- The bits hi down to lo of a word, where they stand. -/
def bitsOf (v : Word) (hi lo : Nat) : Word := BitVec.ofNat 64 (v.toNat % 2 ^ (hi + 1) / 2 ^ lo * 2 ^ lo)
/-- A word from fields: value and lowest bit. -/
def pack (fs : List (Nat × Nat)) : Word := BitVec.ofNat 64 (fs.foldl (fun n f => n + f.1 * 2 ^ f.2) 0)
def clampTo (lo hi x : Nat) : Nat := if x < lo then lo else if hi < x then hi else x

end Sys2Proof

namespace Sys2Proof.Machine
open Sys2Proof

/-! ### Reads -/

/-- HRT entries of a tile that a context uses, and those that hold waiter records (R224). -/
def State.hrtCount (s : State) (tile : Nat) (ctx : BitVec 6) (waiters : Bool) : Nat :=
  ((s.tile tile).hrt.filter fun (_, x) => x.ctx == ctx && (match x.use with
    | some u => !waiters || !u.isHandle
    | none => false)).length

/-- seq.slots, mill.status, elog.stat, lnk.keyslot and lnk.evt. -/
def State.readSlots (s : State) (tile : Nat) : Word :=
  let ts := (s.tile tile).threads
  pack [(248 - (ts.filter fun p => p.1 < 248).length, 0), (min 255 ts.length, 8)]
def Cluster.statusWord (c : Cluster) : Word :=
  let l := c.innings
  pack [((l.map (·.tile)).getD 0, 8), ((l.map (·.slot)).getD 0, 19), (l.isSome.toNat, 35), (c.chain.isSome.toNat, 36), ((l.map (·.cmds)).getD 0, 37), (c.grants.length, 46)]
def Die.elogStat (d : Die) : Word := pack [(d.log.length, 0), (d.lost.toNat, 32), (d.ovf.toNat, 63)]
def Die.errWord (d : Die) : Word := pack [(d.corr.toNat, 0), (d.uncorr.toNat, 40), (d.covf.toNat, 60), (d.uovf.toNat, 61)]
def Port.keyslot (q : Port) : Word :=
  pack [(q.slot.toNat, 0), (q.dir.toNat, 1), ((q.tx false).key.isSome.toNat, 6), ((q.tx true).key.isSome.toNat, 7),
    ((q.rx false).key.isSome.toNat, 8), ((q.rx true).key.isSome.toNat, 9), (q.txcur.toNat, 10), (q.rxcur.toNat, 11)]
def Port.evt (q : Port) : Word :=
  pack [(q.evSem.toNat, 0), (q.evTile.toNat, 8), (q.auth.toNat, 60), (q.down.toNat, 61), (q.rxsw.toNat, 62), (q.due.toNat, 63)]

/-- The control registers of a context. -/
def Context.readCtl (c : Context) (n : Nat) : Word :=
  match n with
  | 0x20 => c.evec.extractLsb' 0 64
  | 0x21 => c.evec.extractLsb' 64 64
  | 0x22 => c.evec.extractLsb' 128 64
  | 0x23 => c.evec.extractLsb' 192 64
  | 0x24 => c.admitBase
  | 0x25 => pack [(c.admitLog.toNat, 0), (c.consumed.toNat, 32)]
  | 0x26 => c.bell
  | 0x27 => c.sluiceBase
  | 0x28 => pack [(c.sluiceLog.toNat, 0), (c.sluiceHeld.toNat % 2 ^ 20, 32)]
  | 0x30 => c.ptroot
  | 0x38 => c.timeout.zeroExtend 64
  | 0x40 => c.srseed
  | 0x70 => c.rrBase
  | 0x71 => pack [(c.rrLog.toNat, 0), (c.rrIrq.toNat, 4), (c.rrProd.toNat, 16), (c.rrLost.toNat, 48)]
  | 0x92 => c.peer.zeroExtend 64
  | 0xA0 => c.ordMode
  | 0xA1 => c.ordBase
  | 0xA2 => c.ordProd
  | 0xA3 => c.ordCons
  | 0xA4 => pack [(c.ordLast.toNat, 0), (c.ordEnd.toNat, 62), (c.ordDiv.toNat, 63)]
  | 0xB0 => c.trapRing
  | 0xB1 => c.trapProd
  | 0xB2 => c.trapCons
  | 0xBC => c.saveBase
  | 0xBD => c.saveSize.zeroExtend 64
  | _ => 0

/-- The control registers of a tile and context. Counts are those at the end of the cycle before, so that a window which begins in this cycle has not
cleared them (R319). -/
def State.readTileCtl (s : State) (tile : Nat) (ctx : BitVec 6) (n : Nat) : Word :=
  let x := (s.tctx tile ctx).refresh (s.cycle - 1)
  if 0x50 ≤ n && n ≤ 0x57 then (x.thresh.getD (n - 0x50) 0).zeroExtend 64
  else if 0x58 ≤ n && n ≤ 0x5F then pack [((x.cnt.getD (n - 0x58) 0).toNat, 0), ((x.fired.getD (n - 0x58) false).toNat, 63)]
  else match n with
    | 0x41 => x.srtid.zeroExtend 64
    | 0x42 => x.srpos
    | 0x43 => pack [(x.mxBase.toNat, 0), (x.mxPeak.toNat, 8), (x.mxClamp.toNat, 16)]
    | 0x48 => pack [(x.excIrq.toNat, 0), (x.excWin.toNat, 8)]
    | 0x90 => boolWord x.hndTrapb
    | 0x91 => pack [(s.hrtCount tile ctx false, 0), (s.hrtCount tile ctx true, 16)]
    | _ => 0

/-- The control registers of the device, its dies and its tiles. -/
def State.readUnitCtl (s : State) (tile slot n : Nat) : Word :=
  let d := s.die (dieOf tile)
  let q := s.port s.lnkSel.toNat
  if 0xD1 ≤ n && n ≤ 0xDB then (Tab.get (0 : BitVec 32) d.counts (n - 0xD0)).zeroExtend 64
  else if 0xC1 ≤ n && n ≤ 0xC4 then ((d.log.head?.getD 0).extractLsb' (64 * (n - 0xC1)) 64)
  else match n with
    | 0x10 => (s.tile tile).agestep.zeroExtend 64
    | 0x11 => s.readSlots tile
    | 0x32 => pack [(d.nrrK.toNat, 0), (d.nrrTest.toNat, 7), (d.nrrSeed.toNat, 8)]
    | 0x33 => d.errWord
    | 0x60 => pack [((s.cluster (clusterOf tile)).inningsCmds, 0), ((s.cluster (clusterOf tile)).inningsCycles, 16)]
    | 0x61 => (s.cluster (clusterOf tile)).statusWord
    | 0x80 => s.fabDims.zeroExtend 64
    | 0x81 => s.fabSelf.zeroExtend 64
    | 0x82 => s.rtsel.zeroExtend 64
    | 0x83 => let r := Tab.get (false, (0 : BitVec 4)) s.routes s.rtsel.toNat; pack [(r.2.toNat, 0), (r.1.toNat, 8)]
    | 0xB4 => (s.tile tile).trapSel
    | 0xB5 => s.readGval tile
    | 0xB8 => ((s.thread? tile slot).map (·.spill)).getD 0
    | 0xC0 => d.elogStat
    | 0xE0 => s.lnkSel.zeroExtend 64
    | 0xE1 => q.keyslot
    | 0xE6 => (q.tx q.txcur).counter
    | 0xE7 => q.evt
    | 0xF0 => s.irq.base ||| s.irq.log2n.zeroExtend 64
    | 0xF1 => pack [(s.irq.core.toNat, 0), (s.irq.en.toNat, 4), (s.irq.vec.toNat, 8)]
    | 0xF2 => pack [(s.irq.held.length, 0), (s.irq.lost.toNat, 16), (s.irq.ovf.toNat, 31), (s.irq.prod.toNat, 32)]
    | _ => 0

/-- Registers kept one per context (R320). -/
def ctxRegister (n : Nat) : Bool :=
  (0x20 ≤ n && n ≤ 0x28) || n == 0x30 || n == 0x38 || n == 0x40 || n == 0x70 || n == 0x71 || n == 0x92 || (0xA0 ≤ n && n ≤ 0xA4)
    || (0xB0 ≤ n && n ≤ 0xB2) || n == 0xBC || n == 0xBD
/-- Registers kept one per pair of tile and context. -/
def tileCtxRegister (n : Nat) : Bool := (0x41 ≤ n && n ≤ 0x43) || n == 0x48 || (0x50 ≤ n && n ≤ 0x5F) || n == 0x90 || n == 0x91

/-- The value of a control register as a thread of a tile, slot and context reads it. -/
def State.readCtl (s : State) (tile slot : Nat) (ctx : BitVec 6) (n : Nat) : Word :=
  if ctxRegister n then (s.ctx ctx).readCtl n else if tileCtxRegister n then s.readTileCtl tile ctx n else s.readUnitCtl tile slot n

/-- The control registers as they stood at the end of the cycle before (R319). -/
def State.atLast (s : State) : State :=
  { s with tiles := s.last.tiles, clusters := s.last.clusters, dies := s.last.dies, ctxs := s.last.ctxs, fabDims := s.last.fabDims,
           fabSelf := s.last.fabSelf, rtsel := s.last.rtsel, routes := s.last.routes, ports := s.last.ports, lnkSel := s.last.lnkSel, irq := s.last.irq }

/-- RDCTL (R319). -/
def execRdctl (d : GReg) (ctl : BitVec 14) (s : State) : Out :=
  let i := Instr.rdctl d ctl
  issue s i (ctlPrivRead ctl.toNat) [] [] [d] fun t => done s (t.write d (s.atLast.readCtl s.cur.1 s.cur.2 t.ctx ctl.toNat) false) i

/-! ### Writes of single registers -/

/-- Held trap records of a context go to its ring as room appears (R246). -/
def State.flushTraps (s : State) (ctx : BitVec 6) : State :=
  s.tiles.foldl (fun s p => p.2.threads.foldl (fun s q => if q.2.ctx = ctx then s.flushTrap p.1 q.1 else s) (s.flushRecords p.1 ctx p.2.records)) s

def State.writeTrapCons (s : State) (ctx : BitVec 6) (v : Word) : State := (s.setCtx ctx { s.ctx ctx with trapCons := v }).flushTraps ctx

/-- A write of one word of the event vector clears and sets its bits; it sets the latches when it sets a bit (R94, R336). -/
def State.writeEvec (s : State) (ctx : BitVec 6) (k : Nat) (v : Word) : State :=
  (s.clearEvents ctx (BitVec.ofNat 256 ((2 ^ 64 - 1) * 2 ^ (64 * k)))).setEvents ctx (BitVec.ofNat 256 (v.toNat * 2 ^ (64 * k)))

/-- The hardware random source loads the generators of a die, and the count toward the next reload starts again (R114). -/
def State.reloadGen (s : State) (die k : Nat) : State :=
  match s.draw with
  | (s1, x) => s1.setDie die { s1.die die with gens := Tab.put (s1.die die).gens k x, acts := Tab.put (s1.die die).acts k 0 }

/-- hbm.nrr (R114). -/
def State.writeNrr (s : State) (die : Nat) (v : Word) : State :=
  let d := s.die die
  let seed : BitVec 32 := if field v 8 32 = 0 then 1 else BitVec.ofNat 32 (field v 8 32)
  let test := v.getLsbD 7
  let s1 := s.setDie die { d with nrrSeed := seed, nrrTest := test, nrrK := BitVec.ofNat 5 (min 16 (field v 0 5)) }
  if test && !d.nrrTest then s1.setDie die { s1.die die with gens := [(0, seed), (1, seed)] }
  else if !test && d.nrrTest then (s1.reloadGen die 0).reloadGen die 1
  else s1

/-- hbm.err: clearing an overflow bit zeroes its count, before the reads of its cycle are counted (R115). -/
def State.clearHbmErr (s : State) (die : Nat) (v : Word) : State :=
  let d := s.die die
  let now := d.errBy s.cycle 0 0
  let d1 := if v.getLsbD 61 then { d with uovf := false, uncorr := BitVec.ofNat 20 now.2.2 } else d
  s.setDie die (if v.getLsbD 60 then { d1 with covf := false, corr := BitVec.ofNat 40 now.2.1 } else d1)

def State.clearElog (s : State) (die : Nat) (v : Word) : State :=
  if v.getLsbD 63 then s.setDie die ((s.die die).rewrite s.cycle fun d => { d with ovf := false, lost := 0 }) else s
def State.popElog (s : State) (die : Nat) (v : Word) : State :=
  if v.getLsbD 0 then s.setDie die ((s.die die).rewrite s.cycle fun d => { d with log := d.log.drop 1 }) else s
/-- irq.stat: the records lost in this cycle are counted after the write (R339). -/
def State.clearIrq (s : State) (v : Word) : State :=
  let n := s.irq.lostAt s.cycle
  if v.getLsbD 31 then { s with irq := { s.irq with ovf := n != 0, lost := BitVec.ofNat 15 (min 0x7FFF n) } } else s

/-- fab.rtdata: the route entry, and the handles that run on a device which is lost (R207, R226). -/
def State.writeRoute (s : State) (v : Word) : State :=
  let s1 := s.writeRtdata v
  if s1.reach s1.rtsel then s1 else s1.breakLost s1.rtsel

/-- lnk.keyslot: erasures, then dir and slot, then the install, then the switch (R284). -/
def State.writeKeyslot (s : State) (v : Word) : State :=
  let port := s.lnkSel.toNat
  let erase (s : State) (rx slot : Bool) (bit : Nat) : State := if v.getLsbD bit then s else s.eraseKey port rx slot
  let s1 := erase (erase (erase (erase s false false 6) false true 7) true false 8) true true 9
  let s2 := s1.setPort port { s1.port port with dir := v.getLsbD 1, slot := v.getLsbD 0 }
  let s3 := if v.getLsbD 4 then s2.installKey port (v.getLsbD 1) (v.getLsbD 0) else s2
  if v.getLsbD 5 then s3.switchKey port else s3

/-- lnk.evt: event bits are cleared by ones, before the events of the cycle (R339); tile and semaphore are written. -/
def Port.writeEvt (q : Port) (cycle : Nat) (v : Word) : Port :=
  let keep (old : Bool) (k : Nat) : Bool := old && (!v.getLsbD (60 + k) || (q.raisedAt cycle).getLsbD k)
  { q with due := keep q.due 3, rxsw := keep q.rxsw 2, down := keep q.down 1, auth := keep q.auth 0,
           evTile := BitVec.ofNat 11 (field v 8 11), evSem := BitVec.ofNat 8 (field v 0 8) }

/-! ### Writes -/

/-- A write to a register of a context. What hardware has done to the register in the cycle stands: the write comes before it (R339). -/
def State.writeCtxCtl (s : State) (ctx : BitVec 6) (n : Nat) (v : Word) : State :=
  let c := s.ctx ctx
  let set (c : Context) : State := s.setCtx ctx c
  match n with
  | 0x20 => s.writeEvec ctx 0 v
  | 0x21 => s.writeEvec ctx 1 v
  | 0x22 => s.writeEvec ctx 2 v
  | 0x23 => s.writeEvec ctx 3 v
  | 0x24 => set { c with admitBase := bitsOf v 47 7 }
  | 0x25 => set { c with admitLog := BitVec.ofNat 4 (field v 0 4) }
  | 0x26 => set { c with bell := bitsOf v 47 3 ||| bitsOf v 0 0 }
  | 0x27 => set { c with sluiceBase := bitsOf v 47 12 }
  | 0x28 => set { c with sluiceHeld := BitVec.ofInt 21 ((field v 32 20 : Int) + c.sluicedAt s.cycle), sluiceLog := BitVec.ofNat 5 (clampTo 4 20 (field v 0 5)) }
  | 0x30 => set { c with ptroot := bitsOf v 47 12 }
  | 0x38 => set { c with timeout := BitVec.ofNat 24 (max 1 (field v 0 24)) }
  | 0x40 => set { c with srseed := v }
  | 0x70 => set { c with rrBase := bitsOf v 47 7 }
  | 0x71 => set { c with rrLost := if field v 48 16 = 0 then c.rrLost else BitVec.ofNat 16 (min 0xFFFF (c.rrLostAt s.cycle)), rrIrq := v.getLsbD 4, rrLog := BitVec.ofNat 4 (max 1 (field v 0 4)) }
  | 0x92 => set { c with peer := BitVec.ofNat 17 (field v 0 17) }
  | 0xA0 =>
    let ended := (c.setAt s.cycle).1 || (c.setAt s.cycle).2
    set { c with ordMode := pack [(if field v 0 2 = 3 || (field v 0 2 = 2 && ended) then 0 else field v 0 2, 0), (field v 2 1, 2), (max 1 (field v 8 24), 8)] }
  | 0xA1 => set { c with ordBase := bitsOf v 47 12 ||| BitVec.ofNat 64 (max 8 (field v 0 5)) }
  | 0xA3 => s.writeOrdCons ctx v
  | 0xA4 => set { c with
      ordDiv := c.ordDiv && (!v.getLsbD 63 || (c.setAt s.cycle).1), ordEnd := c.ordEnd && (!v.getLsbD 62 || (c.setAt s.cycle).2) }
  | 0xB0 => (set { c with trapRing := bitsOf v 47 5 ||| BitVec.ofNat 64 (max 4 (field v 0 5)) }).flushTraps ctx
  | 0xB2 => s.writeTrapCons ctx v
  | 0xBC => set { c with saveBase := bitsOf v 47 12 }
  | 0xBD => set { c with saveSize := BitVec.ofNat 40 (field v 0 40) }
  | _ => s

/-- A write to an exception register: it comes before the events of its cycle, which are counted again (R158). -/
def State.rewriteExc (s : State) (tile : Nat) (ctx : BitVec 6) (f : TileCtx → TileCtx) : State :=
  let x := (s.tctx tile ctx).refresh s.cycle
  let l := x.countedAt s.cycle
  let y := f (x.before l)
  s.setTctx tile ctx { (y.counting l.events).1 with now := ⟨s.cycle, y.cnt, y.fired, y.acted, l.events⟩ }

/-- A write to a register of a tile and context. -/
def State.writeTileCtl (s : State) (tile : Nat) (ctx : BitVec 6) (n : Nat) (v : Word) : State :=
  let x := (s.tctx tile ctx).refresh s.cycle
  let set (x : TileCtx) : State := s.setTctx tile ctx x
  if 0x50 ≤ n && n ≤ 0x57 then s.rewriteExc tile ctx fun x => { x with thresh := x.thresh.set (n - 0x50) (BitVec.ofNat 32 (field v 0 32)) }
  else if 0x58 ≤ n && n ≤ 0x5F then s.rewriteExc tile ctx fun x =>
    { x with cnt := x.cnt.set (n - 0x58) (BitVec.ofNat 32 (field v 0 32)), fired := if v.getLsbD 63 then x.fired.set (n - 0x58) false else x.fired }
  else match n with
    | 0x41 => set { x with srtid := BitVec.ofNat 32 (field v 0 32) }
    | 0x42 => set { x with srpos := v }
    | 0x43 => set { x with mxClamp := x.mxClamp && !v.getLsbD 16, mxPeak := BitVec.ofNat 8 (field v 8 8), mxBase := BitVec.ofNat 8 (min 246 (field v 0 8)) }
    | 0x48 => s.rewriteExc tile ctx fun x => { x with excIrq := BitVec.ofNat 8 (field v 0 8), excWin := BitVec.ofNat 32 (max 1 (field v 8 32)), cleared := s.cycle }
    | 0x90 => set { x with hndTrapb := v.getLsbD 0 }
    | _ => s

/-- A write to a register of the device, a die, a tile or a thread. -/
def State.writeUnitCtl (s : State) (tile slot n : Nat) (v : Word) : State :=
  let die := dieOf tile
  let x := s.tile tile
  if 0xD1 ≤ n && n ≤ 0xDB then s.setDie die ((s.die die).rewrite s.cycle fun d => { d with counts := Tab.put d.counts (n - 0xD0) (BitVec.ofNat 32 (field v 0 32)) })
  else if 0xE2 ≤ n && n ≤ 0xE5 then
    let k := 64 * (n - 0xE2)
    { s with lnkKeys := (s.lnkKeys &&& ~~~BitVec.ofNat 256 ((2 ^ 64 - 1) * 2 ^ k)) ||| BitVec.ofNat 256 (v.toNat * 2 ^ k) }
  else match n with
    | 0x10 => s.setTile tile { x with agestep := BitVec.ofNat 16 (max 1 (field v 0 16)) }
    | 0x32 => s.writeNrr die v
    | 0x33 => s.clearHbmErr die v
    | 0x60 => s.setCluster (clusterOf tile) { s.cluster (clusterOf tile) with
        inningsCycles := max 1024 (field v 16 24), inningsCmds := clampTo 1 256 (field v 0 9) }
    | 0x80 => { s with fabDims := BitVec.ofNat 11 (field v 0 11) }
    | 0x81 => { s with fabSelf := BitVec.ofNat 11 (field v 0 11) }
    | 0x82 => { s with rtsel := BitVec.ofNat 11 (field v 0 11) }
    | 0x83 => s.writeRoute v
    | 0xB4 => s.setTile tile { x with trapSel := pack [(field v 0 44, 0), (field v 44 4, 44), (if field v 48 2 = 3 then 0 else field v 48 2, 48), (field x.trapSel 50 1, 50)] }
    | 0xB5 => s.writeGval tile v
    | 0xB8 => match s.thread? tile slot with
      | some t => s.setThread tile slot { t with spill := bitsOf v 63 3 }
      | none => s
    | 0xC0 => s.clearElog die v
    | 0xC5 => s.popElog die v
    | 0xE0 => { s with lnkSel := if 12 ≤ field v 0 4 then 0 else BitVec.ofNat 4 (field v 0 4) }
    | 0xE1 => s.writeKeyslot v
    | 0xE7 => s.setPort s.lnkSel.toNat ((s.port s.lnkSel.toNat).writeEvt s.cycle v)
    | 0xF0 => { s with irq := { s.irq with base := bitsOf v 47 12, log2n := BitVec.ofNat 5 (clampTo 2 16 (field v 0 5)) } }
    | 0xF1 => { s with irq := { s.irq with vec := BitVec.ofNat 8 (field v 8 8), en := v.getLsbD 4, core := BitVec.ofNat 4 (field v 0 4) } }
    | 0xF2 => s.clearIrq v
    | _ => s

/-- The state after a write of a control register from a tile, slot and context. -/
def State.writeCtl (s : State) (tile slot : Nat) (ctx : BitVec 6) (n : Nat) (v : Word) : State :=
  if ctxRegister n then s.writeCtxCtl ctx n v else if tileCtxRegister n then s.writeTileCtl tile ctx n v else s.writeUnitCtl tile slot n v

/-- WRCTL (R338). -/
def execWrctl (ctl : BitVec 14) (a : Src) (s : State) : Out :=
  let i := Instr.wrctl ctl a
  issue s i (!ctlFreeWrite ctl.toNat) [a] [] [] fun t =>
    poisonCheck s t i [a.reg] (finish (s.writeCtl s.cur.1 s.cur.2 t.ctx ctl.toNat (t.val a.reg)) i id)

/-! ### The events of single fields -/

def execFabRtdataWrite (v : Word) (s : State) : Out := .next (s.writeRoute v)
def execElogPop (die : Nat) (v : Word) (s : State) : Out := .next (s.popElog die v)
def execElogStatClear (die : Nat) (v : Word) (s : State) : Out := .next (s.clearElog die v)
def execHbmErrClear (die : Nat) (v : Word) (s : State) : Out := .next (s.clearHbmErr die v)
def execIrqStatClear (v : Word) (s : State) : Out := .next (s.clearIrq v)
def execHbmNrrWrite (die : Nat) (v : Word) (s : State) : Out := .next (s.writeNrr die v)
def execTrapConsWrite (ctx : BitVec 6) (v : Word) (s : State) : Out := .next (s.writeTrapCons ctx v)
def execCtxEvecWrite (ctx : BitVec 6) (k : BitVec 2) (v : Word) (s : State) : Out := .next (s.writeEvec ctx k.toNat v)

/-! ### Exception windows (R158) -/

/-- EXC_WINDOW_BOUNDARY: every count and every fired bit of a tile and context is cleared. -/
def execExcWindowBoundary (tile : Nat) (ctx : BitVec 6) (s : State) : Out :=
  .next (s.setTctx tile ctx ((s.tctx tile ctx).refresh s.cycle))

/-- A tile and context whose window has ended with something to clear. -/
def State.windowEnds (s : State) : Option (Nat × BitVec 6) :=
  s.tiles.findSome? fun (k, x) => x.regs.findSome? fun (c, r) =>
    if r.refresh s.cycle != r && (r.cnt.any (· != 0) || r.fired.any id) then some (k, BitVec.ofNat 6 c) else none

/-! ### System-core interrupts (R278, R279) -/

/-- The oldest record can be written: every record of its cycle has come, and the ring begins in populated memory and has room. -/
def State.irqReady (s : State) : Bool :=
  let q := s.irq
  let n := 2 ^ q.log2n.toNat
  q.recent s.cycle < q.held.length && s.populated q.base.toNat && (q.prod - BitVec.ofNat 32 (leNat (memRead s.mem q.base.toNat 8))).toNat < n - 1

/-- IRQ_RECORD_WRITE: cons is read, the oldest held record goes to the ring, and its interrupt follows. A poisoned cons counts as its bytes: DESIGN
CHOICE (entry 82). -/
def execIrqRecordWrite (s : State) : Out :=
  let q := s.irq
  match q.held with
  | [] => .next s
  | r :: rs =>
    if !s.irqReady then .next s
    else
      let s := s.touchAll (unitsOf q.base.toNat 8)
      let n := 2 ^ q.log2n.toNat
      let a := q.base.toNat + 16 * (1 + r.toNat % 2 ^ 32 % (n - 1))
      let kind := r.toNat / 2 ^ 56 % 256
      let s1 := if s.populated a then s.writeBytes a (leBytes r.toNat 16) false else s
      let sent := if q.en then s1.irq.sent ++ [(q.core, BitVec.ofNat 8 (q.vec.toNat + kind + 255))] else s1.irq.sent
      .next { s1 with irq := { s1.irq with held := rs, prod := q.prod + 1, sent } }

end Sys2Proof.Machine
end

