-- ==== Sys2Proof/Machine/Boot.lean ====
section
/-! DEFINITION. HBM row activates and scrubs (R113, R114), reset, boot, recovery and attestation (R206, R268 to R274). -/

namespace Sys2Proof.Machine
open Sys2Proof

/-! ### HBM controllers -/

/-- HBM_SCRUB_WRITEBACK: the corrected unit is written back; a write accepted before it has dropped it (R113). -/
def execHbmScrubWriteback (unit : Nat) (s : State) : Out :=
  let die := (unit - Config.hbmBase) / 0xC00000000 / 2
  let d := s.die die
  .next (s.setDie die { d with scrubs := d.scrubs.erase unit })

/-- The generator's advance (R114). -/
def nrrNext (x : BitVec 32) : BitVec 32 :=
  let a := x ^^^ (x <<< 13)
  let b := a ^^^ (a >>> 17)
  b ^^^ (b <<< 5)

/-- A reload is due: 2^20 activates in normal operation. -/
def State.nrrDue (s : State) (ctl : Nat) : Bool := !(s.die (ctl / 2)).nrrTest && decide (2 ^ 20 ≤ Tab.get 0 (s.die (ctl / 2)).acts (ctl % 2))

/-- HBM_ROW_ACTIVATE: one draw of a controller, numbered 2 x die + controller; low k bits zero refresh the two adjacent rows. -/
def execHbmRowActivate (ctl : Nat) (s : State) : Out :=
  if s.nrrDue ctl then .next s
  else
    let d := s.die (ctl / 2)
    let j := ctl % 2
    let x := nrrNext (Tab.get (Config.nrrReset ctl) d.gens j)
    let refreshes := if x.toNat % 2 ^ d.nrrK.toNat = 0 then Tab.put d.refreshes j (Tab.get 0 d.refreshes j + 1) else d.refreshes
    .next (s.setDie (ctl / 2) { d with gens := Tab.put d.gens j x, acts := Tab.put d.acts j (Tab.get 0 d.acts j + 1), refreshes })

/-- NRR_RELOAD: the generator is loaded from the random source. -/
def execNrrReload (ctl : Nat) (s : State) : Out :=
  if s.nrrDue ctl then .next (s.reloadGen (ctl / 2) (ctl % 2)) else .next s

/-! ### The manifest (R269, R270) -/

/-- n bytes of the manifest from an offset, as a number. -/
def manifestField (m : List Byte) (off n : Nat) : Nat := leNat ((m.drop off).take n)

/-- The clusters that a manifest disables. -/
def manifestDisabled (m : List Byte) : List Nat := (List.range Config.clusters).filter fun l => (manifestField m 0x60 48).testBit l

/-- The checks of R270, in their order. -/
def manifestOk (m image : List Byte) : Bool :=
  let len := manifestField m 0x10 8
  let entry := manifestField m 0x1C 4
  m.length == 256 && manifestField m 0 4 == 0x4D584852 && manifestField m 4 4 == 1 &&
    Config.rootKeyVerifies (Config.sha512 (m.take 0xC0)) (BitVec.ofNat 512 (manifestField m 0xC0 64)) &&
    (len % 64 == 0 && decide (64 ≤ len) && decide (len ≤ 2 ^ 26) && entry % 4 == 0 && decide (entry < len)) &&
    (manifestField m 0x18 2 == 1500 && manifestField m 0x1A 2 == 2800) &&
    manifestField m 0x90 48 == 0 &&
    ((List.range Config.dies).all fun d => (manifestDisabled m).countP (fun l => l / 96 == d) < 96) &&
    Config.sha512 (image.take len) == BitVec.ofNat 512 (manifestField m 0x20 64)

/-- Steps 4 to 7 of R268: the clocks and the disabled set, the measurement, the entry. -/
def State.runImage (s : State) (m image : List Byte) : State :=
  { s with
    disabled := manifestDisabled m,
    boot := { s.boot with
      phase := .running, manifest := m, imageLen := manifestField m 0x10 8, fwver := BitVec.ofNat 64 (manifestField m 8 8),
      measurement := Config.sha512 (m.take 0xC0 ++ image.take (manifestField m 0x10 8)),
      dclk := BitVec.ofNat 16 (manifestField m 0x18 2), sclk := BitVec.ofNat 16 (manifestField m 0x1A 2),
      entry := BitVec.ofNat 32 (manifestField m 0x1C 4) } }

/-- The controllers' generators are loaded from the random source (R114). -/
def State.loadGens (s : State) : State := (List.range (2 * Config.dies)).foldl (fun s ctl => s.reloadGen (ctl / 2) (ctl % 2)) s

/-- DEVICE_RESET: every unit takes its reset state, the device id is sampled, the PUF is read, and the ROM runs the image or enters the
recovery loader. What the outside world still has to do stays on the agenda. -/
def execDeviceReset (pins : BootPins) (s : State) : Out :=
  let s1 := { State.reset with
    agenda := s.agenda, fresh := s.fresh, fabSelf := pins.devid, boot := { Boot.reset with identity := pins.puf } }.loadGens
  .next (if manifestOk pins.manifest pins.image then s1.runImage pins.manifest pins.image else { s1 with boot := { s1.boot with phase := .recovery } })

/-! ### Recovery (R272) -/

def State.recovering (s : State) : Bool := s.boot.phase == .recovery

/-- The cycle that ends the 10 s in which a lease can be granted; the device counts its cycles from reset (R14, R272). -/
def dhcpEnd : Nat := 10 * 10 ^ 6 * Config.cyclesPerMicrosecond

/-- DHCP_LEASE: a lease within 10 s gives the address. -/
def execDhcpLease (ip : BitVec 32) (s : State) : Out :=
  if s.recovering && s.boot.ip.isNone && decide (s.cycle ≤ dhcpEnd) then .next { s with boot := { s.boot with ip := some ip } } else .next s

/-- No lease has been granted within 10 s. -/
def State.dhcpOver (s : State) : Bool := s.recovering && s.boot.ip.isNone && decide (dhcpEnd < s.cycle)

/-- DHCP_TIMEOUT: 169.254.x.y with x = 1 + device id [10:8] and y = device id [7:0]. -/
def execDhcpTimeout (s : State) : Out :=
  if s.dhcpOver then
    let x : BitVec 8 := 1 + (s.fabSelf.extractLsb' 8 3).zeroExtend 8
    .next { s with boot := { s.boot with ip := some ((169 : BitVec 8) ++ (254 : BitVec 8) ++ x ++ s.fabSelf.extractLsb' 0 8) } }
  else .next s

/-- The loader answers on the management port. -/
def State.answerMgmt (s : State) (m : MgmtOut) : State := { s with mgmt := s.mgmt ++ [m] }
def State.serving (s : State) : Bool := s.recovering && s.boot.ip.isSome

def execTftpWriteManifest (bytes : List Byte) (s : State) : Out :=
  if !s.serving then .next s
  else if bytes.length = 256 then .next ({ s with boot := { s.boot with manifest := bytes } }.answerMgmt .tftpAck)
  else .next (s.answerMgmt (.tftpError 2))

/-- TFTP_WRITE_IMAGE: the pair is verified and run from memory, or answered with error 0; then a new pair is awaited. -/
def execTftpWriteImage (bytes : List Byte) (s : State) : Out :=
  let m := s.boot.manifest
  if !s.serving then .next s
  else if m.isEmpty || bytes.length ≠ manifestField m 0x10 8 then .next (s.answerMgmt (.tftpError 2))
  else if manifestOk m bytes then .next ((s.runImage m bytes).answerMgmt .tftpAck)
  else .next ({ s with boot := { s.boot with manifest := [] } }.answerMgmt (.tftpError 0))

def execTftpOtherRequest (s : State) : Out := if s.serving then .next (s.answerMgmt (.tftpError 2)) else .next s

/-! ### Attestation (R273, R274) -/

/-- The bytes of the report that are signed. -/
def State.report (s : State) (nonce : BitVec 256) : List Byte :=
  leBytes nonce.toNat 32 ++ leBytes s.boot.measurement.toNat 64 ++ leBytes s.boot.fwver.toNat 8
    ++ leBytes (s.fabSelf.toNat + s.enabled * 2 ^ 16) 8 ++ leBytes (s.disabled.foldl (fun n l => n + 2 ^ l) 0) 48 ++ List.replicate 32 0

/-- ATTESTATION_REQUEST: a signed report, or the status NO_IDENTITY. -/
def execAttestationRequest (nonce : BitVec 256) (s : State) : Out :=
  match s.boot.identity with
  | none => .next (s.answerMgmt (.status (status Code.noIdentity)))
  | some key =>
    let r := s.report nonce
    .next (s.answerMgmt (.report (r ++ leBytes (Config.identitySign key (Config.sha512 r)).toNat 64)))

end Sys2Proof.Machine
end

