-- ==== Sys2Proof/Machine/Contexts.lean ====
section
/-! DEFINITION. Context save and load: CTXSAVE, tear-down, the sections of the save area, CTXLOAD (R178, R204, R234, R255 to R263, R362). -/

namespace Sys2Proof.Machine
open Sys2Proof

/-! ### The threads and accesses of a context -/

/-- The tiles on which a context has threads. -/
def State.tilesOf (s : State) (ctx : BitVec 6) : List Nat := (s.tiles.filter fun p => p.2.threads.any fun q => q.2.ctx = ctx).map (·.1)

/-- Step 4: no packet of the run can land any more. -/
def State.runStopped (s : State) (f : Nat) (r : FRun) : Bool :=
  (List.range (s.flying f).length).all fun k => match (s.flying f)[k]? with
    | some (q, _) => q.number != r.number || (s.land f k).isNone
    | none => true

/-- The site of a bank holds a part of a CPYRED.arr packet: its turn in replay, or a record, must wait (R240, R241). -/
def State.partHeld (s : State) (bank : Nat) (q : RedPart) : Bool :=
  let x := (s.ctx q.who.ctx).site 2 (siteOf (bank / 16) (bank % 16))
  q.arr && x.held.any q.contender.same && ((s.ctx q.who.ctx).mode == 2 || x.room.isSome)

/-- A part of a CPYRED packet of a context waits at a bank, and no site holds it there. -/
def State.partsWait (s : State) (ctx : BitVec 6) : Bool := s.banks.any fun b => b.2.any fun r => match r with
  | .red q => q.who.ctx == ctx && !s.partHeld b.1 q
  | _ => false

/-- Steps 2 to 4: threads at rest, no innings, engine commands done. -/
def State.enginesDone (s : State) (ctx : BitVec 6) : Bool :=
  s.threadsDone ctx && s.flumes.all (fun p => p.2.runs.all fun r => r.cmd.who.ctx != ctx || s.runStopped p.1 r) && !s.partsWait ctx

/-- Step 5: the stores of the context's threads have drained, and their accesses are over, or fence.timeout has expired since a cycle. -/
def State.accessesDone (s : State) (ctx : BitVec 6) (cycle : Nat) : Bool :=
  (s.threadsOf ctx).all fun (tile, slot, _) =>
    (s.fifoOf tile slot).isEmpty && (s.bridgeOf tile slot).isEmpty &&
      ((s.accsOf tile slot).isEmpty || decide (cycle + s.timeoutCycles ctx ≤ s.cycle))

/-- The cycle in which step 5 began, or begins now (R258): fence.timeout counts from it. -/
def State.step5 (s : State) (ctx : BitVec 6) (since : Option Nat) : Option Nat :=
  if since.isSome || !s.enginesDone ctx then since else some s.cycle

/-- Steps 2 to 5 are over, the last begun in a cycle. -/
def State.stopped (s : State) (ctx : BitVec 6) (since : Option Nat) : Bool := match s.step5 ctx since with
  | some c => s.enginesDone ctx && s.accessesDone ctx c
  | none => false

/-! ### Steps 5 and 6: what has not completed (R126, R234) -/

/-- A register that waits for an HGET keeps the handle; other pending accesses are over. -/
def State.recordHget (s : State) (r : Reg) : Reg := match r.prod with
  | some (.access rid) => match s.access? rid with
    | some (_, a) => if a.isHget then { r with prod := some (.hget a.handle) } else r
    | none => r
  | _ => r

/-- The request of a thread that a site holds at its bank is given up: the thread executes its instruction again on resume (R241). -/
def State.dropRequest (s : State) (tile slot : Nat) (t : Thread) : State := match t.status with
  | .blocked .bank _ _ =>
    let s1 := s.leaveSites t.ctx t.sid (BitVec.ofNat 16 t.icount)
    { s1 with banks := s1.banks.map fun (k, q) => (k, q.filter fun r => match r with
      | .thread a b n .. => !(a == tile && b == slot && n == t.inst)
      | _ => true) }
  | _ => s

/-- Withdraws the producers of one thread, which stay recorded in its registers. -/
def State.withdrawn (s : State) (tile slot : Nat) (t : Thread) : State :=
  let t1 := { t with regs := t.regs.map s.recordHget }
  let s1 := ((s.tile tile).accs.filter fun a => a.slot == slot && !a.counted).foldl (fun s a => s.orphan tile a.rid) s
  ((s1.dropLease tile slot t).dropRequest tile slot t).setThread tile slot t1

/-- Abandons what fence.timeout has left, then withdraws. What the context's counted events do is done before (R158). -/
def State.quiet (s : State) (ctx : BitVec 6) : State :=
  let s1 := (s.threadsOf ctx).foldl (fun s (tile, slot, _) => s.abandonAll tile fun a => a.slot == slot && a.counted) (s.settleCtx ctx)
  (s1.threadsOf ctx).foldl (fun s (tile, slot, t) => s.withdrawn tile slot t) s1

/-! ### Freeing -/

/-- The contenders of a context that replay holds at a tile (R241). -/
def State.heldAt (s : State) (ctx : BitVec 6) (tile : Nat) : List Instr :=
  if (s.ctx ctx).mode ≠ 2 then [] else (s.tile tile).hold2.filter fun e => match e with
    | .messageEntry p => s.receiving p == ctx
    | .waiterRecordArrival p => (match p.body with
      | .waiter h .. => handleCtx h == ctx
      | _ => false)
    | _ => false

/-- A site without what waits at it. -/
def Site.emptied (x : Site) : Site := { x with queue := [], held := [], since := none, room := none }

/-- Removes what a context holds in the units: threads, owned tiles, queue entries and hold buffers (R258, step 10). -/
def State.freeUnits (s : State) (ctx : BitVec 6) : State :=
  let ts := s.threadsOf ctx
  let s1 : State := ts.foldl (fun s (tile, slot, t) => (s.freeTiles tile (s.owned tile slot t)).vacate tile slot) s
  let s2 : State := { s1 with
    tiles := s1.tiles.map fun (k, x) => (k, { x with
      rq := x.rq.filter (·.ctx != ctx), hold := x.hold.filter fun h => !h.parts.any (·.who.ctx == ctx), hold2 := x.hold2.filter fun e => !(s1.heldAt ctx k).contains e }),
    flumes := s1.flumes.map fun (k, x) => (k, { x with queue := x.queue.filter (·.cmd.who.ctx != ctx), runs := x.runs.filter (·.cmd.who.ctx != ctx) }),
    banks := s1.banks.map fun (k, q) => (k, q.filter fun r => match r with | .red p => p.who.ctx != ctx | _ => true),
    clusters := s1.clusters.map fun (k, c) => (k, { c with align := c.align.filter (·.ctx != ctx) }) }
  s2.setCtx ctx { s2.ctx ctx with queue := [], sluice := [], sites := (s2.ctx ctx).sites.map fun x => x.emptied }

/-- A window of a context that is torn down is revoked as by WREVOKE (R218). -/
def State.revokeAll (s : State) (ctx : BitVec 6) : State :=
  (s.windows.filter fun p => p.2.state == .opened && p.2.ctx == ctx).foldl (fun s p =>
    let s1 := s.setWindow p.1 { p.2 with state := .revoking, gen := nextGen p.2.gen }
    if s1.windowBusy p.1 then s1 else s1.setWindow p.1 { s1.window p.1 with state := .free }) s

/-- Entries homed in the context break with CTX_DEAD and are freed (R226). -/
def State.breakHomed (s : State) (ctx : BitVec 6) : State :=
  let mine := s.tiles.flatMap fun (k, x) => x.hrt.filterMap fun (e, y) =>
    if y.ctx = ctx && (y.use.map HrtUse.isHandle).getD false then some (k, e, y.gen) else none
  mine.foldl (fun s (k, e, gen) =>
    let s1 := s.breakEntry chainFuel k e Code.ctxDead false
    let y := s1.hrt k e
    if y.gen = gen && y.use.isSome then s1.freeEntry k e else s1) s

/-- Records of a context that have joined no chain give up their entries, and break the entries they feed, derived (R226). -/
def State.breakRecords (s : State) (ctx : BitVec 6) : State :=
  let mine := s.tiles.flatMap fun (k, x) => x.hrt.filterMap fun (e, y) => match y.use with
    | some (.waiter p _) => if y.ctx = ctx then some (k, e, p) else none
    | _ => none
  mine.foldl (fun s (k, e, p) => match p.body with
    | .waiter _ _ _ _ _ fed => ((s.freeEntry k e).unhold k (.waiterRecordArrival p)).breakHandle k p.hdr.ctx fed Code.ctxDead true
    | _ => s) s

/-- Applies an arrival that was held for a suspended context (R234). -/
def State.applyArrival (s : State) (p : Packet) : State := s.arrives p.event

/-- The handles that the threads of a context run, each with the tile of its thread. -/
def State.handlesOf (s : State) (ctx : BitVec 6) : List (Nat × Word) :=
  (s.threadsOf ctx).filterMap fun (tile, _, t) => t.handle.map fun h => (tile, h)

/-- Tear-down (R261): its effects, after which the context is in the given state; held arrivals act on it as it then is. A saved context has its
threads' handles on record. -/
def State.tearDown (s : State) (ctx : BitVec 6) (left : CtxState) : State :=
  let handles := s.handlesOf ctx ++ (s.ctx ctx).ran
  let s1 := (s.freeUnits ctx).revokeAll ctx
  let s2 := handles.foldl (fun s (tile, h) => s.breakHandle tile ctx h Code.ctxDead false) s1
  let s3 := ((s2.breakHomed ctx).breakRecords ctx).flush ctx none
  let c := s3.ctx ctx
  let s4 := { s3.setCtx ctx { Context.reset with state := left, saveBase := c.saveBase, saveSize := c.saveSize } with
    tiles := s3.tiles.map fun (k, x) => (k, { x with regs := Tab.drop x.regs ctx.toNat, records := x.records.filter (·.1 != ctx) }) }
  (c.kept ++ c.arrivals).foldl State.applyArrival s4

/-! ### The sections of the save area (R259, R362) -/

structure Section where
  ty : Nat
  tile : Nat
  body : List Byte

def Section.bytes (x : Section) : List Byte := leBytes x.ty 2 ++ leBytes x.tile 2 ++ leBytes x.body.length 4 ++ leBytes 0 8 ++ x.body

/-- The bytes of the n-th record of the archive. -/
def savedBytes (id n : Nat) : List Byte := (List.range n).map (Config.savedByte id)

def State.remember (s : State) (x : Saved) : State := { s with archive := s.archive ++ [x] }

/-- What earlier saves have put into the archive of a context's commands and launches is no longer of use. -/
def State.forget (s : State) (ctx : BitVec 6) : State :=
  { s with archive := s.archive.map fun x => match x with
    | .cmd _ r => if r.cmd.who.ctx = ctx then .gone else x
    | .launch c _ => if c = ctx then .gone else x
    | _ => x }

/-- The first entry of the archive that a function takes, with its place. -/
def State.inArchive {α : Type} (s : State) (f : Saved → Option α) : Option (Nat × α) :=
  (s.archive.zip (List.range s.archive.length)).findSome? fun x => (f x.1).map fun a => (x.2, a)

/-- An entry of the archive is taken out. -/
def State.taken (s : State) (id : Nat) : State := { s with archive := s.archive.set id .gone }

/-- Puts a record of n bytes into the archive: its bytes. -/
def State.keep (s : State) (x : Saved) (n : Nat) : State × List Byte := (s.remember x, savedBytes s.archive.length n)

/-- Puts records of n bytes each into the archive. -/
def State.keepAll (s : State) (n : Nat) : List Saved → State × List Byte
  | [] => (s, [])
  | x :: r => match s.keep x n with
    | (s1, a) => match s1.keepAll n r with
      | (s2, b) => (s2, a ++ b)

/-- One section for each tile that has records of its own. -/
def State.keepByTile (s : State) (ty n : Nat) : List (Nat × List Saved) → State × List Section
  | [] => (s, [])
  | (tile, xs) :: r =>
    if xs.isEmpty then s.keepByTile ty n r
    else match s.keepAll n xs with
      | (s1, b) => match s1.keepByTile ty n r with
        | (s2, q) => (s2, ⟨ty, tile, b⟩ :: q)

/-- What happened to a store-FIFO loss in step 5: the thread is saved stopped for STORE_LOST, with its record held (R263). -/
def Thread.stopLost (t : Thread) : Thread := match t.status with
  | .stopped _ => t
  | _ => match t.held.find? Held.isLost with
    | some h => { t with held := t.held.erase h, status := .stopped (h.trap t) }
    | none => t

/-- A thread as it is saved: stopped for a trap, ready, or to execute the instruction at which it is blocked again. -/
def Thread.asSaved (t : Thread) : Thread :=
  match t.stopLost with
  | t1 => match t1.status with
    | .stopped _ | .blocked (.ctxStop ..) _ _ => { t1 with age := 0 }
    | _ => { t1 with status := .ready, age := 0 }

/-- Section 5: the owned tiles of a thread. -/
def State.tileSections (s : State) (tile slot : Nat) (t : Thread) : List Section :=
  (s.owned tile slot t).map fun k =>
    ⟨5, tile, leBytes (s.threadId tile slot t.ctx t.inst).toNat 8 ++ leBytes k.toNat 8 ++ ((s.cluster (clusterOf tile)).tileOf k).image⟩

/-- A run as it is saved: its undelivered packets are to be read again (R204). -/
def FRun.asSaved (r : FRun) : FRun :=
  { r with pos := (r.packets.head?.map (·.start)).getD r.pos, done := false, fault := none, packets := [] }

/-- The Flume commands of a context in tile order. -/
def State.savedRuns (s : State) (ctx : BitVec 6) : List (Nat × FRun) :=
  sortOn (fun x => x.2.cmd.who.tile) (s.flumes.flatMap fun (f, x) =>
    ((x.runs ++ x.queue).filter fun r => r.cmd.who.ctx == ctx).map fun r => (f, r.asSaved))

/-- The word and snapshot of a run; a started CPYSEL counts the rows it has selected (R41, R197). -/
def FRun.savedBytes (r : FRun) : List Byte := r.cmd.saved r.sel r.progress

def State.keepRuns (s : State) : List (Nat × FRun) → State × List Section
  | [] => (s, [])
  | (f, r) :: rest => match (s.remember (.cmd f r)).keepRuns rest with
    | (s1, q) => (s1, ⟨7, r.cmd.who.tile, r.savedBytes⟩ :: q)

/-- Section 8: a queued launch. -/
def Launch.savedBytes (l : Launch) : List Byte := (l.words.flatMap fun w => leBytes w.toNat 8) ++ leBytes l.origin.toNat 8

def State.keepLaunches (s : State) (ctx : BitVec 6) : List Launch → State × List Section
  | [] => (s, [])
  | l :: r => match (s.remember (.launch ctx l)).keepLaunches ctx r with
    | (s1, q) => (s1, ⟨8, 0, l.savedBytes⟩ :: q)

/-- The numbers of the registers kept per context that are saved, and of those kept per tile and context. -/
def savedCtxNumbers : List Nat := (List.range 0xBC).filter ctxRegister
def savedTileNumbers : List Nat := (List.range 0xBC).filter tileCtxRegister

def registerEntry (n : Nat) (v : Word) : List Byte := leBytes n 8 ++ leBytes v.toNat 8

/-- Section 9: the context's registers, then those of each tile whose copies differ from their reset values. -/
def State.registerSections (s : State) (ctx : BitVec 6) : List Section :=
  ⟨9, 0, savedCtxNumbers.flatMap fun n => registerEntry n ((s.ctx ctx).readCtl n)⟩ ::
    (s.tiles.filter fun p => { (s.tctx p.1 ctx).refresh s.cycle with cleared := 0, now := Counted.none } != TileCtx.reset || s.hrtCount p.1 ctx false != 0).map fun p =>
      ⟨9, p.1, savedTileNumbers.flatMap fun n => registerEntry n (s.readTileCtl p.1 ctx n)⟩

/-- The parts of CPYRED packets of a context that replay holds at the banks of a tile. -/
def State.heldParts (s : State) (ctx : BitVec 6) (tile : Nat) : List Saved :=
  (List.range 16).flatMap fun b => (s.bank (tile * 16 + b)).filterMap fun r => match r with
    | .red q => if q.who.ctx = ctx then some (.part (tile * 16 + b) q) else none
    | _ => none

/-- Section 10 by tile: a record of a site for each record that it has queued, and the held contenders. -/
def State.orderRecords (s : State) (ctx : BitVec 6) : List (Nat × List Saved) :=
  (List.range 2048).map fun tile =>
    (tile, ((s.ctx ctx).sites.filter fun x => x.site.toNat / 2 ^ 23 == tile).flatMap (fun x => x.queue.map fun q => Saved.site { x with queue := [q] })
      ++ (s.heldAt ctx tile).map (Saved.held tile) ++ s.heldParts ctx tile)

/-- The sections after the header, in their order. -/
def State.bodySections (s : State) (ctx : BitVec 6) : State × List Section :=
  let c := s.ctx ctx
  let tiles := s.tilesOf ctx
  let threads := (s.threadsOf ctx).map fun (tile, slot, t) => (tile, [Saved.thread tile slot t.asSaved])
  match s.keepByTile 2 384 threads with
  | (s1, x2) =>
    let x3 := tiles.map fun k => (⟨3, k, (List.range 256).flatMap fun j => leBytes (s.sem k j).bits.toNat 4⟩ : Section)
    let held (k : Nat) : List (Nat × Nat × Message) := c.sluice.filter fun x => x.2.1 == k
    let queues := (List.range 2048).filterMap fun k =>
      let ms := (s.tile k).rq.filter (·.ctx == ctx)
      if ms.isEmpty && (held k).isEmpty then none else some (k, ms)
    match queues.foldl (fun (a : State × List Section) q => match a.1.keep (.messages q.1 q.2 (held q.1)) (32 * (q.2.length + 1)) with
        | (t, b) => (t, a.2 ++ [⟨4, q.1, b⟩])) (s1, []) with
    | (s4, x4) =>
      let x5 := (s.threadsOf ctx).flatMap fun (tile, slot, t) => s.tileSections tile slot t
      match s4.keepByTile 6 32 (s.tiles.map fun (k, x) => (k, x.hrt.filterMap fun (e, y) => if y.ctx = ctx && y.use.isSome then some (Saved.hrt k e y) else none)) with
      | (s6, x6) => match s6.keepRuns (s.savedRuns ctx) with
        | (s7, x7) => match s7.keepLaunches ctx c.queue with
          | (s8, x8) => match s8.keepByTile 10 16 (s.orderRecords ctx) with
            | (s10, x10) => match s10.keepByTile 11 272 (s.tiles.map fun (k, x) => (k, (x.hold.filter fun h => h.parts.any (·.who.ctx == ctx)).map (Saved.seq k))) with
              | (s11, x11) => match s11.keepByTile 12 64 [(0, c.arrivals.map Saved.arrival)] with
                | (s12, x12) => (s12, x2 ++ x3 ++ x4 ++ x5 ++ x6 ++ x7 ++ x8 ++ s.registerSections ctx ++ x10 ++ x11 ++ x12)

/-- The cluster map as 384 entries: an empty map is the default map (R89). -/
def State.fullMap (s : State) (c : Context) : List (BitVec 16) :=
  if c.map.isEmpty then (List.range 384).map fun l => match s.enabledCluster l with
    | some p => BitVec.ofNat 16 p
    | none => 0xFFFF
  else c.map

/-- The header section. -/
def State.headerSection (s : State) (ctx : BitVec 6) (count : Nat) : Section :=
  ⟨1, 0, leBytes 1 2 ++ leBytes ctx.toNat 2 ++ leBytes Config.millstoneVersion 4 ++ ((s.fullMap (s.ctx ctx)).flatMap fun m => leBytes m.toNat 2)
    ++ leBytes count 4 ++ leBytes (s.ctx ctx).target.toNat 4⟩

/-- The image of a context, and the state with its archive. -/
def State.imageOf (s : State) (ctx : BitVec 6) : State × List Section :=
  match (s.forget ctx).bodySections ctx with
  | (s1, xs) => (s1, s.headerSection ctx (xs.length + 1) :: xs)

/-- The type of the section in which a byte of an image lies. -/
def sectionAt : List Section → Nat → Nat
  | [], _ => 0
  | [x], _ => x.ty
  | x :: r, off => if off < 16 + x.body.length then x.ty else sectionAt r (off - (16 + x.body.length))

/-! ### CTXSAVE (R256 to R258, R260) -/

def statusWith (c : BitVec 8) (n : Nat) : Word := c ++ (0 : BitVec 16) ++ BitVec.ofNat 40 n

/-- State without a poison form that belongs to a context, with the type of the section that would hold it (R259, R260, R265). -/
def State.stateOf (s : State) (ctx : BitVec 6) : Flaw → Option Nat
  | .stateUe k j tile => match k.toNat with
    | 1 => if (s.thread? tile j).any (·.ctx == ctx) then some 2 else none
    | 2 => if (s.tilesOf ctx).contains tile then some 3 else none
    | 3 => if (s.tile tile).rq.any (·.ctx == ctx) then some 4 else none
    | 4 => if (s.hrt tile j).use.isSome && (s.hrt tile j).ctx == ctx then some 6 else none
    | 6 => if j = ctx.toNat then some 8 else none
    | 9 => if ((s.flume j).runs ++ (s.flume j).queue).any (·.cmd.who.ctx == ctx) then some 7 else none
    | _ => none
  | _ => none

/-- Logs a SAVE_FAIL at an address of a save area (R260, R265). -/
def State.logSaveFail (s : State) (ctx : BitVec 6) (base ty addr : Nat) : State :=
  let stack := (base - Config.hbmBase) / 0xC00000000
  s.logError (stack / 2) 11 (logUnit 3 (stack % 2)) (BitVec.ofNat 48 addr) (BitVec.ofNat 60 (ctx.toNat + ty * 2 ^ 6))

/-- What ends a save: state without a poison form that has gone bad, or a write that fails (R260). -/
def State.saveFailure (s : State) (ctx : BitVec 6) (base : Nat) (xs : List Section) (need : Nat) : Option State :=
  let drop (f : Flaw) : State := { s with flaws := s.flaws.erase f }
  match s.flaws.find? fun f => (s.stateOf ctx f).isSome with
  | some f => some ((drop f).logSaveFail ctx base ((s.stateOf ctx f).getD 0) base)
  | none =>
    match s.flaws.findSome? fun f => match f with
      | .saveWrite u => if base ≤ u && u < base + need then some u else none
      | _ => none with
    | some u => some ((drop (.saveWrite u)).logSaveFail ctx base (sectionAt xs (u - base)) u)
    | none => if inHbm base && inHbm (base + need - 1) then none else some (s.logSaveFail ctx base 1 base)

/-- Of the registers that a saved context has in the tiles, only which classes have acted in their window is kept, and how long the window is: no register
shows it (R158). -/
def State.keepActed (s : State) (ctx : BitVec 6) : State :=
  { s with tiles := s.tiles.map fun (k, x) => (k, { x with regs := match Tab.find x.regs ctx.toNat with
      | some r => if (r.refresh s.cycle).acted.any id then
          Tab.put x.regs ctx.toNat { TileCtx.reset with excWin := r.excWin, acted := (r.refresh s.cycle).acted, cleared := s.cycle }
        else Tab.drop x.regs ctx.toNat
      | none => x.regs }) }

/-- Steps 8 to 10 for a context that has stopped: the state, and the status for gd. -/
def State.saveCtx (s : State) (ctx : BitVec 6) : State × Word :=
  match s.imageOf ctx with
  | (s1, xs) =>
    let bs := xs.flatMap Section.bytes
    let c := s.ctx ctx
    let base := baseOf c.saveBase 12
    if c.saveSize.toNat < bs.length then (s.setCtx ctx { c with state := .stalled }, statusWith Code.saveSpace bs.length)
    else match s.saveFailure ctx base xs bs.length with
      | some s2 => (s2.tearDown ctx .lost, status Code.saveFailed)
      | none =>
        let s2 := ((s1.writeBytes base bs false).freeUnits ctx).keepActed ctx
        (s2.setCtx ctx { s2.ctx ctx with state := .saved, kept := c.arrivals, arrivals := [], ran := s.handlesOf ctx }, statusWith Code.ok bs.length)

/-- The end of a stop: step 6, then the save or the tear-down. -/
def State.endStop (s : State) (ctx : BitVec 6) (discard : Bool) : State × Word :=
  let s1 := s.quiet ctx
  if discard then (s1.tearDown ctx .free, status Code.ok) else s1.saveCtx ctx

/-- What CTXSAVE and CTXLOAD check of their operand (R256). -/
def ctxOperand (s : State) (t : Thread) (i : Instr) (a : GReg) (allowed : Nat) (k : BitVec 6 → Out) : Out :=
  let ga := t.val a
  if ga.toNat &&& (2 ^ 64 - 1 - allowed) ≠ 0 || ga.truncate 6 = t.ctx then trapBefore s t i Cause.prot ga
  else poisonCheck s t i [a] (k (ga.truncate 6))

/-- The stop of a context goes on with a CTXSAVE of the current thread: the one that began it, which a boundary trap has made the thread execute again, or
any, once that thread is gone: DESIGN CHOICE (entry 39). -/
def State.stopMine (s : State) (ctx : BitVec 6) (t : Thread) : Bool := match (s.ctx ctx).stopper with
  | some (tile, slot, inst) => (s.cur == (tile, slot) && t.inst == inst) || !(s.thread? tile slot).any (·.inst == inst)
  | none => false

/-- CTXSAVE: the states of R257 decide; a live context stops first, from the cycle after on (R263). -/
def execCtxsave (d : GReg) (a : Src) (s : State) : Out :=
  let i := Instr.ctxsave d a
  issue s i true [a] [] [d] fun t =>
    let give (r : State × Word) : Out := finish r.1 i fun t => t.write d r.2 false
    let go (s : State) (ctx : BitVec 6) (discard : Bool) (since : Option Nat) : Out :=
      if s.stopped ctx since then give (s.endStop ctx discard) else block s t (.ctxStop ctx discard (s.step5 ctx since))
    match t.status with
    | .blocked (.ctxStop ctx discard since) _ _ => go s ctx discard since
    | _ => ctxOperand s t i a.reg 0x13F fun ctx =>
      let discard := (t.val a.reg).getLsbD 8
      let c := s.ctx ctx
      let free : State × Word := (s.tearDown ctx .free, status Code.ok)
      match c.state with
      | .free => give (s, status Code.ctxDead)
      | .lost => give (if discard then free else (s, status Code.ctxDead))
      | .stopping =>
        if s.stopMine ctx t then go (s.setCtx ctx { c with stopper := some (s.cur.1, s.cur.2, t.inst) }) ctx discard none else give (s, status Code.busy)
      | .saved => give (if discard then free else (s, status Code.busy))
      | .stalled => give (if discard then free else s.saveCtx ctx)
      | .live =>
        let s1 := if discard then s.refuseLaunches ctx else s
        go (s1.setCtx ctx { s1.ctx ctx with state := .stopping, stopAt := some s.cycle, stopper := some (s.cur.1, s.cur.2, t.inst) }) ctx discard none

/-! ### Reading an image -/

/-- Reads n sections from an offset of an area. -/
def State.readSections (s : State) (base size : Nat) : Nat → Nat → Option (List Section)
  | 0, _ => some []
  | n + 1, off =>
    if size < off + 16 then none
    else
      let h := memRead s.mem (base + off) 16
      let len := leNat ((h.drop 4).take 4)
      if leNat (h.drop 8) ≠ 0 || size < off + 16 + len then none
      else match s.readSections base size n (off + 16 + len) with
        | some r => some (⟨leNat (h.take 2), leNat ((h.drop 2).take 2), memRead s.mem (base + off + 16) len⟩ :: r)
        | none => none

def Section.field (x : Section) (off n : Nat) : Nat := leNat ((x.body.drop off).take n)

/-- The entries of a type 9 section. -/
def Section.entries (x : Section) : List (Nat × Word) :=
  (List.range (x.body.length / 16)).map fun k => (x.field (16 * k) 8, BitVec.ofNat 64 (x.field (16 * k + 8) 8))

/-- A length suits a type (R259). -/
def lengthSuits (ty len : Nat) : Bool :=
  match ty with
  | 1 => len == 784
  | 2 => len == 384
  | 3 => len == 1024
  | 4 => len % 32 == 0 && 32 ≤ len
  | 5 => len == 65616
  | 6 => len % 32 == 0
  | 7 => len == 96
  | 8 => len == 136
  | 9 => len % 16 == 0
  | 10 => len % 16 == 0
  | 11 => len % 272 == 0
  | 12 => len % 64 == 0
  | _ => false

/-- Types rise, and within a type tiles. -/
def ordered : List Section → Bool
  | x :: y :: r => (x.ty < y.ty || (x.ty == y.ty && x.tile ≤ y.tile)) && ordered (y :: r)
  | _ => true

def rising : List Nat → Bool
  | x :: y :: r => x < y && rising (y :: r)
  | _ => true

/-- The bytes of an image. -/
def imageLength (r : List Section) : Nat := (r.map fun x => 16 + x.body.length).foldl (· + ·) 0

/-- A section stands behind those of an image that could be one more: its header is well formed, its body fits, and the order holds (R362, entry 72). -/
def State.moreSections (s : State) (base size : Nat) (xs : List Section) : Bool :=
  match s.readSections base size 1 (imageLength xs) with
  | some [x] => lengthSuits x.ty x.body.length && ordered (xs.drop (xs.length - 1) ++ [x])
  | _ => false

/-- The sections found in the area of a context: as many as its header counts, and no section behind them (R362). -/
def State.readImage (s : State) (base size : Nat) : Option (List Section) :=
  if size < 800 then none
  else (s.readSections base size (leNat (memRead s.mem (base + 16 + 776) 4)) 0).filter fun xs => !s.moreSections base size xs

/-- A type 9 section is well formed; `first` is the first of its type. -/
def Section.registersOk (x : Section) (first : Bool) : Bool :=
  let ns := x.entries.map (·.1)
  rising ns && ns.all fun n => tileCtxRegister n || (first && ctxRegister n && n != 0xBC && n != 0xBD)

/-- The section names a tile whose registers or contents it holds. -/
def Section.perTile (x : Section) (first : Bool) : Bool :=
  match x.ty with
  | 2 | 3 | 4 | 5 | 6 | 7 | 10 | 11 => true
  | 9 => !first || x.entries.any fun e => tileCtxRegister e.1
  | _ => false

/-- The command of a type 7 section (R41, R197): the command and the bytes done, or none when a field cannot stand. That CTXLOAD answers BAD_IMAGE then is
a DESIGN CHOICE (entry 81). -/
def Section.command (x : Section) (ctx : BitVec 6) : Option (FCmd × Nat) :=
  let w := x.field 0 32
  let get (lo n : Nat) : Nat := w / 2 ^ lo % 2 ^ n
  let flags := get 8 6
  let op := get 0 8
  let seq := flags / 2 % 2 == 1
  let ty := match flags / 16 with | 0 => some RedTy.fp32 | 1 => some RedTy.bf16 | 2 => some RedTy.int32 | _ => none
  let ro := match flags / 4 % 4 with | 0 => some RedOp.add | 1 => some RedOp.min | 2 => some RedOp.max | _ => none
  let kind : Option FKind := match op with
    | 0x60 => if flags / 2 = 0 then some .cpy else none
    | 0x61 => if flags / 2 = 0 then some .cpys else none
    | 0x62 => if flags / 2 = 0 then some .cpysel else none
    | 0x63 => match ro, ty with
      | some o, some z => some (.red o z seq)
      | _, _ => none
    | 0x64 => if flags / 2 = 0 then some .fill else none
    | _ => none
  let snap := x.body.drop 32
  match kind with
  | none => none
  | some k =>
    if get 14 6 ≠ ctx.toNat || get 20 11 ≠ x.tile || (flags % 2 = 0 && get 56 8 ≠ 0) then none
    else
      let c : FCmd :=
        { kind := k, dst := BitVec.ofNat 64 (get 64 64), src := BitVec.ofNat 64 (get 128 64), len := get 224 32 + get 192 32,
          desc := (match k with | .cpys | .cpysel => snap | _ => []), q := if seq then leNat (snap.take 2) else 0,
          g := if seq then leNat ((snap.drop 2).take 2) else 0, s := BitVec.ofNat 8 (get 39 8),
          ds := if flags % 2 = 1 then some (BitVec.ofNat 8 (get 56 8)) else none, ev := if get 55 1 = 1 then some (BitVec.ofNat 8 (get 47 8)) else none,
          poison := false, who := ⟨ctx, get 20 11, get 31 8, 0, 0, 0, get 20 11, get 31 8, 0⟩, sid := 0, mark := 0 }
      if c.badFields || (seq && !(decide (1 ≤ c.g) && decide (c.q < c.g))) then none
      else
        let whole := match k with | .cpys => (c.described snap).len | _ => c.len
        some ({ c with len := if whole % 2 ^ 32 = c.len % 2 ^ 32 then whole else c.len }, get 224 32 * c.grain)

/-- The record of the archive that a string of bytes stands for. -/
def State.recalled {α : Type} (s : State) (bs : List Byte) (f : Saved → Option α) : Option α :=
  ((List.range s.archive.length).findSome? fun id => match s.archive[id]? with
    | some x => if bs = savedBytes id bs.length then f x else none
    | none => none)

/-- The records of n bytes each of a body. -/
def State.recalledAll {α : Type} (s : State) (n : Nat) (f : Saved → Option α) : Nat → List Byte → Option (List α)
  | 0, bs => if bs.isEmpty then some [] else none
  | fuel + 1, bs =>
    if bs.isEmpty then some []
    else match s.recalled (bs.take n) f, s.recalledAll n f fuel (bs.drop n) with
      | some a, some r => some (a :: r)
      | _, _ => none

def Section.recall {α : Type} (x : Section) (s : State) (n : Nat) (f : Saved → Option α) : Option (List α) :=
  s.recalledAll n f (x.body.length / n + 1) x.body

/-- What each type of an opaque record holds. -/
def Saved.suits (ty : Nat) : Saved → Option Saved
  | .thread a b c => if ty = 2 then some (.thread a b c) else none
  | .messages a b c => if ty = 4 then some (.messages a b c) else none
  | .hrt a b c => if ty = 6 then some (.hrt a b c) else none
  | .site x => if ty = 10 then some (.site x) else none
  | .held a b => if ty = 10 then some (.held a b) else none
  | .part a b => if ty = 10 then some (.part a b) else none
  | .seq a b => if ty = 11 then some (.seq a b) else none
  | .arrival p => if ty = 12 then some (.arrival p) else none
  | .cmd .. | .launch .. | .gone => none

/-- The bytes of one opaque record of a section. -/
def Section.grain (x : Section) : Nat :=
  match x.ty with
  | 2 => 384
  | 4 => max 1 x.body.length
  | 6 => 32
  | 10 => 16
  | 11 => 272
  | _ => 64

/-- The opaque records of a section, each with the tile that its header names. -/
def Section.records (x : Section) (s : State) : Option (List (Nat × Saved)) :=
  match x.ty with
  | 2 | 4 | 6 | 10 | 11 | 12 => (x.recall s x.grain (Saved.suits x.ty)).map fun l => l.map fun r => (x.tile, r)
  | _ => some []

/-- The words and origin of a type 8 section. -/
def Section.launch (x : Section) : Launch := ⟨wordsOf 16 x.body, BitVec.ofNat 48 (x.field 128 8), 0, none, 0, none⟩

/-- A section breaks nothing of R362, R41 and R197. -/
def Section.ok (x : Section) (s : State) (ctx : BitVec 6) (fresh first : Bool) : Bool :=
  (1 ≤ x.ty && x.ty ≤ 12) && lengthSuits x.ty x.body.length &&
  (!fresh || x.ty == 1 || x.ty == 8 || x.ty == 9) &&
  (!x.perTile first || s.tileOn x.tile) &&
  (match x.ty with
   | 5 => (tileFromImage none (x.body.drop 16)).isSome
   | 7 => (x.command ctx).isSome
   | 8 => x.field 128 8 < 2 ^ 48 && !recordBad x.launch.words
   | 9 => x.registersOk first
   | _ => (x.records s).isSome)

/-- The image of a context's area that CTXLOAD accepts, or none: BAD_IMAGE. -/
def State.goodImage (s : State) (ctx : BitVec 6) : Option (Section × List Section) :=
  let c := s.ctx ctx
  match s.readImage (baseOf c.saveBase 12) c.saveSize.toNat with
  | some (h :: r) =>
    let first := r.findIdx? (·.ty == 9)
    if h.ty = 1 && h.tile = 0 && h.body.length = 784 && h.field 0 2 = 1 && h.field 2 2 = ctx.toNat && h.field 4 4 = Config.millstoneVersion &&
        r.all (·.ty != 1) && ordered (h :: r) &&
        (r.zip (List.range r.length)).all (fun (x, k) => x.ok s ctx (c.state == .free) (first == some k))
    then some (h, r) else none
  | _ => none

/-! ### CTXLOAD (R262) -/

/-- The header's map; all 0xFFFF stands for the default map (R89). -/
def State.headerMap (s : State) (h : Section) : List (BitVec 16) :=
  let m := (List.range 384).map fun l => BitVec.ofNat 16 (h.field (8 + 2 * l) 2)
  if m.all (· == 0xFFFF) then s.fullMap Context.reset else m

/-- The tile that takes the place of a tile when a map replaces another: none for an unused entry. -/
def movedTile (old new : List (BitVec 16)) (tile : Nat) : Option Nat :=
  match old.findIdx? fun p => p.toNat == clusterOf tile with
  | none => some tile
  | some l =>
    let p := new.getD l 0xFFFF
    if p = 0xFFFF then none else some (tileId p.toNat (tile % 4))

/-- What a load places: tile, and slot or accumulator tile. -/
structure Placement where
  threads : List (Nat × Nat × Thread)
  tiles : List (Nat × BitVec 3 × AccTile)

/-- The owner of a type 5 section on its new tile: tile, accumulator tile, contents. -/
def Section.accTile (x : Section) (tile : Nat) : Option (Nat × BitVec 3 × AccTile) :=
  let w := BitVec.ofNat 64 (x.field 0 8)
  (tileFromImage (some (tile, tidSlot w, tidInst w)) (x.body.drop 16)).map fun a => (tile, BitVec.ofNat 3 (x.field 8 8), a)

/-- Where the threads and tiles of an image go: none when the map leaves one without a cluster. -/
def State.placement (s : State) (old new : List (BitVec 16)) (r : List Section) : Option Placement :=
  let threads := r.filterMap fun x => if x.ty ≠ 2 then none else match x.records s with
    | some [(tile, .thread _ slot t)] => some ((movedTile old new tile).map fun k => (k, slot, t))
    | _ => none
  let tiles := r.filterMap fun x => if x.ty ≠ 5 then none else some ((movedTile old new x.tile).bind x.accTile)
  if threads.all (·.isSome) && tiles.all (·.isSome) then some ⟨threads.filterMap id, tiles.filterMap id⟩ else none

/-- A needed slot or accumulator tile is held. -/
def State.refused (s : State) (p : Placement) : Bool :=
  p.threads.any (fun x => (s.thread? x.1 x.2.1).isSome) || p.tiles.any fun x => ((s.cluster (clusterOf x.1)).tileOf x.2.1).owner.isSome

/-- The map moves a cluster that holds live HRT entries of the context. -/
def State.pinned (s : State) (ctx : BitVec 6) (old new : List (BitVec 16)) : Bool :=
  s.tiles.any fun (k, x) => (x.hrt.any fun (_, y) => y.ctx == ctx && y.use.isSome) && movedTile old new k != some k

/-- Restores a register of the context: read-only fields take the values given. -/
def State.restoreCtx (s : State) (ctx : BitVec 6) (n : Nat) (v : Word) : State :=
  let c := s.ctx ctx
  match n with
  | 0x25 => s.setCtx ctx { c with admitLog := BitVec.ofNat 4 (field v 0 4), consumed := BitVec.ofNat 32 (field v 32 32) }
  | 0x71 => s.setCtx ctx { c with
      rrLost := BitVec.ofNat 16 (field v 48 16), rrProd := BitVec.ofNat 32 (field v 16 32), rrIrq := v.getLsbD 4, rrLog := BitVec.ofNat 4 (max 1 (field v 0 4)) }
  | 0xA2 => s.setCtx ctx { c with ordProd := v }
  | 0xA4 => s.setCtx ctx { c with ordDiv := v.getLsbD 63, ordEnd := v.getLsbD 62, ordLast := BitVec.ofNat 62 v.toNat }
  | 0xB0 => s.setCtx ctx { c with trapRing := bitsOf v 47 5 ||| BitVec.ofNat 64 (max 4 (field v 0 5)) }
  | 0xB1 => s.setCtx ctx { c with trapProd := v }
  | 0xB2 => s.setCtx ctx { c with trapCons := v }
  | _ => s.writeCtxCtl ctx n v

/-- Restores a register of a tile and context. -/
def State.restoreTile (s : State) (tile : Nat) (ctx : BitVec 6) (n : Nat) (v : Word) : State :=
  let s1 := s.writeTileCtl tile ctx n v
  let x := s1.tctx tile ctx
  if 0x58 ≤ n && n ≤ 0x5F then s1.setTctx tile ctx { x with fired := x.fired.set (n - 0x58) (v.getLsbD 63), cleared := s.cycle }
  else if n = 0x43 then s1.setTctx tile ctx { x with mxClamp := v.getLsbD 16, cleared := s.cycle }
  else s1.setTctx tile ctx { x with cleared := s.cycle }

/-- Restores the registers of a section. -/
def State.restoreRegisters (s : State) (ctx : BitVec 6) (tile : Nat) (x : Section) : State :=
  x.entries.foldl (fun s e => if ctxRegister e.1 then s.restoreCtx ctx e.1 e.2 else s.restoreTile tile ctx e.1 e.2) s

/-- The copies of a saved context's registers take their reset values, but for which classes have acted in the window that goes on (R158, R362). -/
def TileCtx.reloaded (x : TileCtx) (cycle : Nat) : TileCtx := { TileCtx.reset with acted := (x.refresh cycle).acted, cleared := cycle }

/-- The context as CTXLOAD begins it: registers at reset, what the device keeps across the save, the map and the target of the header. -/
def Context.reloaded (c : Context) (map : List (BitVec 16)) (target : BitVec 32) : Context :=
  { Context.reset with
    state := .live, saveBase := c.saveBase, saveSize := c.saveSize, running := c.running, launches := c.launches, arrivals := c.arrivals, map, target }

/-- ord.mode and ord.base take effect, and each site restarts (R239). -/
def Context.modesTake (c : Context) : Context :=
  { c with mode := BitVec.ofNat 2 c.ordMode.toNat, modeIrq := c.ordMode.getLsbD 2, modeHold := BitVec.ofNat 24 (field c.ordMode 8 24),
           ringBase := c.ordBase, sites := c.sites.map fun x => { x with seq := 0, winner := none } }

/-- Restores a thread on a tile: the same slot and instance, its latch set; it fetches what memory holds now (R56, R262, R336). -/
def State.restoreThread (s : State) (tile slot : Nat) (t : Thread) : State :=
  (s.setTile tile { s.tile tile with insts := Tab.put (s.tile tile).insts slot t.inst }).setThread tile slot
    { t with latch := true, born := s.serial, pipe := s.cycle + 1 }

/-- An issuer on its new tile. -/
def Issuer.moveTo (w : Issuer) (mv : Nat → Nat) : Issuer := { w with tile := mv w.tile, seat := (mv w.seat.1, w.seat.2) }

/-- Requeues a Flume command: the one that the save has put into the archive, or one from the word alone, whose stream is the thread's and whose mark is
free. A started CPYSEL whose saved word has been edited reads its bitmap anew: DESIGN CHOICE (entry 40). -/
def State.requeue (s : State) (ctx : BitVec 6) (tile : Nat) (x : Section) (mv : Nat → Nat) : State :=
  let f := flumeOf tile
  match s.inArchive fun y => (match y with
    | .cmd _ r => if r.savedBytes = x.body && r.cmd.who.tile = x.tile then some r else none
    | _ => none) with
  | some (id, r) =>
    let r1 := { r with cmd := { r.cmd with who := r.cmd.who.moveTo mv }, parts := r.parts.map fun x => (x.1, x.2.1, mv x.2.2) }
    (s.taken id).setFlume f { s.flume f with queue := (s.flume f).queue ++ [r1] }
  | none => match x.command ctx, s.draw with
    | some (k, pos), (s1, m) =>
      let t := s1.thread? tile k.who.slot
      let inst := (t.map (·.inst)).getD 0
      let who := { k.who with tile, inst, pc := m.zeroExtend 48, seat := (tile, k.who.slot, inst) }
      s1.queueFlume f { k with who, sid := (t.map (·.sid)).getD 0, mark := m.truncate 16 } pos
    | none, _ => s

/-- Queues the launch of a type 8 section: the archived one, or one whose interrupt detail is free. -/
def State.relaunch (s : State) (ctx : BitVec 6) (x : Section) : State :=
  match s.inArchive fun y => (match y with
    | .launch c l => if c = ctx && l.savedBytes = x.body then some l else none
    | _ => none) with
  | some (id, l) => (s.taken id).queueLaunch ctx { l with cycle := s.cycle, by' := none }
  | none => { s with fresh := s.fresh + 1 }.queueLaunch ctx { x.launch with detail := Config.freeWord s.fresh, cycle := s.cycle }

/-- A part of a CPYRED packet whose destination has moved with its tile. -/
def RedPart.moveTo (q : RedPart) (tile : Nat) (mv : Nat → Nat) : RedPart :=
  { q with pa := Config.sramBase + tile * 2 ^ 21 + (q.pa - Config.sramBase) % 2 ^ 21, who := q.who.moveTo mv, flume := flumeOf (mv q.who.tile) }

/-- An entry of a handle resolution table comes back; while a context is saved its entries stand in their tiles and go on changing, so that one in use
or freed since stays as it is (R226, R234). -/
def State.restoreHrt (s : State) (tile e : Nat) (y : HrtEntry) : State :=
  if (s.hrt tile e).use.isNone && (s.hrt tile e).gen == y.gen then s.setHrt tile e y else s

/-- A contribution that its hold buffer gets back: applied if it is the expected one by now, else held. -/
def State.heldAgain (s : State) (tile : Nat) (h : SeqHeld) : State :=
  let x := s.tile tile
  if Tab.get 0 x.expq (h.block * 65536 + h.g) = h.q then s.passSeq tile (x.hold.length + 1) h else s.setTile tile { x with hold := x.hold ++ [h] }

/-- A held arrival on the tile to which its cluster has moved. -/
def heldOn (tile : Nat) (e : Instr) : Instr := match e with
  | .messageEntry p => .messageEntry { p with hdr := { p.hdr with tile := BitVec.ofNat 11 tile } }
  | _ => e

/-- Restores one opaque record on its new tile. The numbers that a block's interface expects next stay with the physical tile, saved or not: DESIGN CHOICE
(entry 96). -/
def State.restoreRecord (s : State) (ctx : BitVec 6) (tile : Nat) (mv : Nat → Nat) : Saved → State
  | .thread _ slot t => s.restoreThread tile slot t
  | .messages _ ms sl =>
    let s1 := s.setTile tile { s.tile tile with rq := ms ++ (s.tile tile).rq }
    s1.setCtx ctx { s1.ctx ctx with sluice := (s1.ctx ctx).sluice ++ sl.map fun x => (x.1, tile, x.2.2) }
  | .hrt _ e y => s.restoreHrt tile e y
  | .site x =>
    let c := s.ctx ctx
    let y := c.site x.point x.site
    s.setCtx ctx (c.setSite { x.emptied with seq := 0, winner := none, queue := y.queue ++ x.queue })
  | .held _ e => s.keepHeld tile (heldOn tile e)
  | .part b p => let k := tile * 16 + b % 16; s.setBank k (s.bank k ++ [.red (p.moveTo tile mv)])
  | .seq _ h =>
    let ps := h.parts.map fun q => q.moveTo tile mv
    s.heldAgain tile { h with parts := ps, block := (ps.head?.map (·.pa)).getD 0 / 256 }
  | .arrival p => s.setCtx ctx { s.ctx ctx with arrivals := (s.ctx ctx).arrivals ++ [p] }
  | .cmd .. | .launch .. | .gone => s

/-- Restores a section, on the tile its cluster has moved to; registers go to the tile that the section names (R262, R362, entry 71). -/
def State.restoreSection (s : State) (ctx : BitVec 6) (mv : Nat → Nat) (x : Section) : State :=
  let tile := mv x.tile
  match x.ty with
  | 3 => (List.range 256).foldl (fun s j =>
      let v := x.field (4 * j) 4
      s.setSem tile j ⟨v.testBit 31, BitVec.ofNat 7 (v / 2 ^ 24), BitVec.ofNat 24 v, none, none⟩) s
  | 5 => match x.accTile tile with
    | some (k, a, z) => s.setCluster (clusterOf k) ((s.cluster (clusterOf k)).setTile a z)
    | none => s
  | 7 => s.requeue ctx tile x mv
  | 8 => s.relaunch ctx x
  | 9 => s.restoreRegisters ctx x.tile x
  | _ => ((x.records s).getD []).foldl (fun s r => s.restoreRecord ctx tile mv r.2) s

/-- The thread stands at an HGET of a register, which it will execute again. -/
def Thread.atHget (t : Thread) (d : GReg) : Bool := match t.instr with
  | some (.hget k _) => k == d
  | _ => false

/-- Issues the pending producer of a register again (R230, R178): a LEASE meets the limit in force (R161); an HGET in which the thread was blocked it executes again itself (R234). -/
def State.reissue (s : State) (tile slot : Nat) (d : GReg) : State :=
  match s.thread? tile slot with
  | none => s
  | some t => match (t.reg d).prod with
    | some (.hget h) =>
      if t.atHget d then s
      else if handleNull h || s.homeHere h tile then
        match s.readHandle h with
        | .value v p => s.setThread tile slot (t.write d v p)
        | .broken v => s.setThread tile slot (t.broken d h v (s.tctx tile t.ctx).hndTrapb)
        | .wait => s
      else s.sendHget tile slot t d h
    | some (.lease n) =>
      let cl := clusterOf tile
      if (s.cluster cl).cmdsNow < n then s.setThread tile slot (t.write d (status Code.overLimit) false)
      else
      let l : Lease :=
        { tile, slot, inst := t.inst, ctx := t.ctx, sid := t.sid, tag := BitVec.ofNat 16 t.icount, d, n, cycle := s.cycle, cmds := n, budget := 0 }
      s.setCluster cl { s.cluster cl with grants := insertBy Lease.key l (s.cluster cl).grants }
    | _ => s

/-- Restores an image (R262): the sections, the commands, the producers, the held trap records, the arrivals in order. -/
def State.restore (s : State) (ctx : BitVec 6) (h : Section) (r : List Section) (old new : List (BitVec 16)) (p : Placement) : State :=
  let c := s.ctx ctx
  let s1 : State := { s.setCtx ctx (c.reloaded new (BitVec.ofNat 32 (h.field 780 4))) with
    tiles := s.tiles.map fun (k, x) => (k, { x with regs := match Tab.find x.regs ctx.toNat with
      | some r => if c.state = .saved then Tab.put x.regs ctx.toNat (r.reloaded s.cycle) else Tab.drop x.regs ctx.toNat
      | none => x.regs }) }
  let mv (k : Nat) : Nat := (movedTile old new k).getD k
  let s2 : State := r.foldl (fun s x => s.restoreSection ctx mv x) (s1.setCtx ctx { s1.ctx ctx with arrivals := [] })
  let s3 := s2.setCtx ctx { (s2.ctx ctx).modesTake with arrivals := (s2.ctx ctx).arrivals ++ c.arrivals }
  let s4 : State := p.threads.foldl (fun s x => allRegs.foldl (fun s d => s.reissue x.1 x.2.1 d) s) s3
  let s5 := s4.flushTraps ctx
  let as := (s5.ctx ctx).arrivals
  as.foldl State.applyArrival (s5.setCtx ctx { s5.ctx ctx with arrivals := [] })

/-- CTXLOAD reads the units of an image, or of its header, which finds what has gone bad in them (R113). Poisoned units count as their bytes: DESIGN CHOICE
(entry 82). -/
def State.touchImage (s : State) (ctx : BitVec 6) : State :=
  let base := baseOf (s.ctx ctx).saveBase 12
  let size := (s.ctx ctx).saveSize.toNat
  s.touchAll ((unitsOf base (((s.readImage base size).map imageLength).getD (min size 800))).filter s.populated)

/-- The state and the status of a load: BUSY or CTX_DEAD, BAD_IMAGE, TOO_LARGE, MAP_PINNED, REFUSED, in this order. -/
def State.loadCtx (s : State) (ctx : BitVec 6) : State × Word :=
  match (s.ctx ctx).state with
  | .live | .stopping | .stalled => (s, status Code.busy)
  | .lost => (s, status Code.ctxDead)
  | .free | .saved => match s.touchImage ctx with
    | s => match s.goodImage ctx with
    | none => (s, status Code.badImage)
    | some (h, r) =>
      let old := s.fullMap (s.ctx ctx)
      let new := s.headerMap h
      if new.any fun p => p != 0xFFFF && !s.clusterOn p.toNat then (s, status Code.tooLarge)
      else match s.placement old new r with
        | none => (s, status Code.tooLarge)
        | some p =>
          if s.pinned ctx old new then (s, status Code.mapPinned)
          else if s.refused p then (s, status Code.refused)
          else (s.restore ctx h r old new p, statusWith Code.ok (imageLength (h :: r)))

/-- CTXLOAD. -/
def execCtxload (d : GReg) (a : Src) (s : State) : Out :=
  let i := Instr.ctxload d a
  issue s i true [a] [] [d] fun t => ctxOperand s t i a.reg 0x3F fun ctx =>
    match s.loadCtx ctx with
    | (s1, v) => finish s1 i fun t => t.write d v false

end Sys2Proof.Machine
end

