-- ==== Sys2Proof/Machine/Float.lean ====
section
/-! DEFINITION. The scalar floating-point group (R305 to R308). -/

namespace Sys2Proof.Machine
open Sys2Proof

/-- Writes a result and counts its events; a trap by R158 comes at the boundary that follows. -/
def fpDone (s : State) (t : Thread) (i : Instr) (d : GReg) (r : Word × List Nat) (poison : Bool) : Out :=
  countMe s t r.2 fun s1 t1 => done s1 (t1.write d r.1 poison) i

def low32 (x : Word) : BitVec 32 := x.extractLsb' 0 32
def wide (r : BitVec 32 × List Nat) : Word × List Nat := (r.1.zeroExtend 64, r.2)

def fpBinary (i : Instr) (d : GReg) (a b : Src) (f : BitVec 32 → BitVec 32 → BitVec 32 × List Nat) (s : State) : Out :=
  issue s i false [a, b] [] [d] fun t =>
    fpDone s t i d (wide (f (low32 (t.val a.reg)) (low32 (t.val b.reg)))) (t.pois a.reg || t.pois b.reg)

def execFadd (rm : Rm) (d : GReg) (a b : Src) (s : State) : Out := fpBinary (.fadd rm d a b) d a b (Fp.add32 rm) s
def execFsub (rm : Rm) (d : GReg) (a b : Src) (s : State) : Out := fpBinary (.fsub rm d a b) d a b (Fp.sub32 rm) s
def execFmul (rm : Rm) (d : GReg) (a b : Src) (s : State) : Out := fpBinary (.fmul rm d a b) d a b (Fp.mul32 rm) s
/-- FFMA reads gd as the addend, which always blocks (R305). -/
def execFfma (rm : Rm) (d : GReg) (a b : Src) (s : State) : Out :=
  let i := Instr.ffma rm d a b
  issue s i false [a, b] [d] [d] fun t =>
    fpDone s t i d (wide (Fp.fma32 rm (low32 (t.val a.reg)) (low32 (t.val b.reg)) (low32 (t.val d))))
      (t.pois a.reg || t.pois b.reg || t.pois d)
/-- FMIN, FMAX: the left column of R151 (R307). -/
def execFmin (d : GReg) (a b : Src) (s : State) : Out :=
  fpBinary (.fmin d a b) d a b (fun x y => let r := Fp.minMaxNum Fp.f32 false x.toNat y.toNat; (BitVec.ofNat 32 r.1, r.2)) s
def execFmax (d : GReg) (a b : Src) (s : State) : Out :=
  fpBinary (.fmax d a b) d a b (fun x y => let r := Fp.minMaxNum Fp.f32 true x.toNat y.toNat; (BitVec.ofNat 32 r.1, r.2)) s
/-- FCVT (R308). -/
def execFcvt (k : CvtKind) (rm : Rm) (d : GReg) (a : Src) (s : State) : Out :=
  let i := Instr.fcvt k rm d a
  issue s i false [a] [] [d] fun t => fpDone s t i d (Fp.convert k rm (t.val a.reg)) (t.pois a.reg)
/-- FSET (R307). -/
def execFset (c : FpCond) (d : GReg) (a b : Src) (s : State) : Out :=
  let i := Instr.fset c d a b
  issue s i false [a, b] [] [d] fun t =>
    let x := (low32 (t.val a.reg)).toNat
    let y := (low32 (t.val b.reg)).toNat
    fpDone s t i d (boolWord (Fp.holds Fp.f32 c x y), Fp.invIf (Fp.cmpInvalid Fp.f32 c x y)) (t.pois a.reg || t.pois b.reg)

end Sys2Proof.Machine
end

