-- ==== Sys2Proof/Machine/Special.lean ====
section
/-! DEFINITION. The special functions of the Tailrace (R189): the values within the error bound, of which the implementation fixes one (entry 13). -/

namespace Sys2Proof.Machine.Fp
open Sys2Proof Sys2Proof.Machine

/-- The integer square root: the largest r below 2^n with r x r at most x. -/
def isqrt (x : Nat) : Nat → Nat → Nat
  | r, 0 => r
  | r, n + 1 => isqrt x (if (r + 2 ^ n) * (r + 2 ^ n) ≤ x then r + 2 ^ n else r) n

/-- A positive real known from below: m x 2^e, and whether it is exact. -/
structure Below where
  m : Nat
  e : Int
  exact : Bool

/-- An FP32 code lies within so many ulp of a positive real, an ulp being the distance of the codes on either side of the real. -/
def within (v : Below) (ulps c : Nat) : Bool :=
  match f32.mag c false with
  | .fin _ m e =>
    let u := f32.place v.m v.e
    let g := min (min e u) v.e
    let a := m * 2 ^ (e - g).toNat
    let b := v.m * 2 ^ (v.e - g).toNat
    let d := ulps * 2 ^ (u - g).toNat
    if b < a then a - b ≤ d else b - a < d
  | _ => false

/-- The FP32 codes within the bound around a positive real that is no FP32 number: `lo` is the code just below it; wide is 2 ulp, else 1. -/
def around (v : Below) (lo : Nat) (wide : Bool) : List Nat :=
  ((List.range 6).map fun k => lo + k - 3).filter (within v (if wide then 2 else 1))

/-- The result for a positive real: exact, overflow, or one of the codes within the bound that are at most `cap`. A tiny result counts underflow, an exact one
too: DEDUCED (entry 13). -/
def choose (fn : Nat) (x : BitVec 32) (wide : Bool) (cap : Nat) (v : Below) : Nat × List Nat :=
  let z := f32.roundCode .rtz false v.m v.e
  let n := f32.roundCode .rne false v.m v.e
  if v.exact && !z.2 then (if f32.top < z.1 then (0x7F800000, [Class.ovf]) else (z.1, if z.1 < 2 ^ 23 then [Class.unf] else []))
  else if f32.top < n.1 then (0x7F800000, [Class.ovf])
  else
    let cs := (around v z.1 wide).filter (· ≤ cap)
    let r := cs.getD (Config.specialPick fn x % cs.length) z.1
    (r, if r < 2 ^ 23 then [Class.unf] else [])

/-! ### Reciprocal and reciprocal square root -/

def recip (m : Nat) (e : Int) : Below := ⟨2 ^ 100 / m, -100 - e, 2 ^ 100 % m == 0⟩

def recipSqrt (m : Nat) (e : Int) : Below :=
  let m1 := if e % 2 = 0 then m else 2 * m
  let h := if e % 2 = 0 then e / 2 else (e - 1) / 2
  let r := isqrt (2 ^ 200 / m1) 0 101
  ⟨r, -100 - h, r * r * m1 == 2 ^ 200⟩

/-! ### Powers and logarithms of two -/

/-- 2^f in units of 2^-160, for f with n bits below the binary point; `root` is 2^(1/2^k) in the same units. -/
def powFrac (f : Nat) : Nat → Nat → Nat → Nat
  | _, acc, 0 => acc
  | root, acc, n + 1 =>
    let r := isqrt (root * 2 ^ 160) 0 162
    powFrac f r (if f.testBit n then acc * r / 2 ^ 160 else acc) n

/-- 2^x for x = (-1)^neg x m x 2^e with magnitude below 512. -/
def exp2Below (neg : Bool) (m : Nat) (e : Int) : Below :=
  -- x as floor and a fraction of 100 bits
  let s : Int := if neg then -(m : Int) else m
  let scaled : Int := if -100 ≤ e then s * 2 ^ (e + 100).toNat else s / 2 ^ (-100 - e).toNat
  let whole := scaled / 2 ^ 100
  let frac := (scaled % 2 ^ 100).toNat
  let exactIn := decide (0 ≤ e) || s % 2 ^ (-e).toNat == 0
  ⟨powFrac frac (2 ^ 161) (2 ^ 160) 100, whole - 160, exactIn⟩

/-- The fraction bits of log2 of y in units of 2^-280, y from 1 to 2. -/
def logFrac : Nat → Nat → Nat → Nat
  | _, acc, 0 => acc
  | y, acc, n + 1 =>
    let q := y * y / 2 ^ 280
    if 2 ^ 281 ≤ q then logFrac (q / 2) (2 * acc + 1) n else logFrac q (2 * acc) n

/-- log2 of m x 2^e: sign and magnitude. -/
def log2Below (m : Nat) (e : Int) : Bool × Below :=
  let k := Nat.log2 m
  let whole : Int := (k : Int) + e
  let y := m * 2 ^ 280 / 2 ^ k
  let f := logFrac y 0 120
  let exactIn := m == 2 ^ k
  if 0 ≤ whole then (false, ⟨whole.toNat * 2 ^ 120 + f, -120, exactIn⟩)
  else (true, ⟨(-whole).toNat * 2 ^ 120 - f - (if exactIn then 0 else 1), -120, exactIn⟩)

/-! ### Hyperbolic tangent -/

/-- The exponential series of y in units of 2^-400: terms from k on. -/
def expSeries (y : Nat) : Nat → Nat → Nat → Nat
  | _, _, 0 => 0
  | k, term, n + 1 => term + expSeries y (k + 1) (term * y / (2 ^ 400 * (k + 1))) n

def squareTimes : Nat → Nat → Nat
  | x, 0 => x
  | x, n + 1 => squareTimes (x * x / 2 ^ 400) n

/-- tanh of a positive m x 2^e, by (E - 1) / (E + 1) with E = exp(2x); small and large arguments apart. -/
def tanhBelow (m : Nat) (e : Int) : Below :=
  let mag := (Nat.log2 m : Int) + e
  if mag < -13 then ⟨m * 2 ^ 40 - 1, e - 40, false⟩
  else if 4 ≤ mag then ⟨2 ^ 40 - 1, -40, false⟩
  else
    let y := if -389 ≤ e then m * 2 ^ (e + 391).toNat else 0
    let ex := squareTimes (expSeries y 0 (2 ^ 400) 60) 10
    ⟨(ex - 2 ^ 400) * 2 ^ 200 / (ex + 2 ^ 400), -200, false⟩

/-! ### The instructions on one FP32 lane: code and classes -/

def nan32 : Nat := 0x7FC00000

/-- A result with a sign. -/
def withSign (neg : Bool) (r : Nat × List Nat) : Nat × List Nat := (f32.signed neg r.1, r.2)

def exp2Lane (x : BitVec 32) : Nat × List Nat :=
  match dec32 x with
  | .nan sg => (nan32, invIf sg)
  | .inf neg => (if neg then 0 else 0x7F800000, [])
  | .fin neg m e =>
    if m = 0 then (0x3F800000, [])
    else if 9 ≤ (Nat.log2 m : Int) + e then
      (if neg then choose 0 x true f32.top ⟨1, -400, false⟩ else (0x7F800000, [Class.ovf]))
    else choose 0 x true f32.top (exp2Below neg m e)

def log2Lane (x : BitVec 32) : Nat × List Nat :=
  match dec32 x with
  | .nan sg => (nan32, invIf sg)
  | .inf neg => if neg then (nan32, [Class.inv]) else (0x7F800000, [])
  | .fin neg m e =>
    if m = 0 then (0xFF800000, [Class.dz])
    else if neg then (nan32, [Class.inv])
    else
      let r := log2Below m e
      if r.2.m = 0 then (0, []) else withSign r.1 (choose 1 x true f32.top r.2)

def rcpLane (x : BitVec 32) : Nat × List Nat :=
  match dec32 x with
  | .nan sg => (nan32, invIf sg)
  | .inf neg => (f32.signed neg 0, [])
  | .fin neg m e => if m = 0 then (f32.signed neg 0x7F800000, [Class.dz]) else withSign neg (choose 2 x false f32.top (recip m e))

def rsqLane (x : BitVec 32) : Nat × List Nat :=
  match dec32 x with
  | .nan sg => (nan32, invIf sg)
  | .inf neg => if neg then (nan32, [Class.inv]) else (0, [])
  | .fin neg m e =>
    if m = 0 then (f32.signed neg 0x7F800000, [Class.dz])
    else if neg then (nan32, [Class.inv])
    else choose 3 x false f32.top (recipSqrt m e)

def tanhLane (x : BitVec 32) : Nat × List Nat :=
  match dec32 x with
  | .nan sg => (nan32, invIf sg)
  | .inf neg => (f32.signed neg 0x3F800000, [])
  | .fin neg m e => if m = 0 then (f32.signed neg 0, []) else withSign neg (choose 4 x true 0x3F800000 (tanhBelow m e))

end Sys2Proof.Machine.Fp
end

