-- ==== Sys2Proof/Machine/Vector.lean ====
section
/-! DEFINITION. Vector instructions (R181 to R192, R331 to R335), with stochastic rounding (R144 to R147). -/

namespace Sys2Proof.Machine
open Sys2Proof

/-! ### Rows and lanes -/

def laneBits (ty : TileTy) : Nat := if ty = .bf16 then 16 else 32
def laneCount (ty : TileTy) : Nat := if ty = .bf16 then 512 else 256
def laneFmt (ty : TileTy) : Fp.Fmt := if ty = .bf16 then Fp.bf16 else Fp.f32

/-- The lanes of a row as codes (R181). -/
def lanes (ty : TileTy) (r : BitVec 8192) : List Nat :=
  (List.range (laneCount ty)).map fun j => (r.extractLsb' (laneBits ty * j) (laneBits ty)).toNat

/-- A row after its modifier (R39). -/
def modified (m : SrcMod) (l : List Nat) : List Nat := match m with
  | .none => l
  | _ => (List.range l.length).map fun j => l.getD (m.lane j) 0

/-- The segment of a modifier exceeds the lanes of a tile (R39). -/
def SrcModTooWide (m : SrcMod) (ty : TileTy) : Bool := match m with
  | .none => false
  | .rot g _ | .bfly g _ | .bcast g _ => decide (laneCount ty < 2 ^ g.toNat)

/-- A vector operand: its row, and its modifier if it is a source that has one. -/
structure VOp where
  row : VRow
  mod : SrcMod

/-- The row of the current thread's cluster. -/
def State.accTile (s : State) (t : BitVec 3) : AccTile := (s.cluster (clusterOf s.cur.1)).tileOf t
def State.vrow (s : State) (v : VRow) : BitVec 8192 := (s.accTile v.tile).row v.row.toNat
def State.vbad (s : State) (v : VRow) : Bool := (s.accTile v.tile).poison.getLsbD v.row.toNat
def State.vty (s : State) (v : VRow) : TileTy := (s.accTile v.tile).ty
/-- The lanes of a source after its modifier. -/
def State.vsrc (s : State) (o : VOp) : List Nat := modified o.mod (lanes (s.vty o.row) (s.vrow o.row))

def State.putRow (s : State) (v : VRow) (x : BitVec 8192) (poison : Bool) : State :=
  let cl := clusterOf s.cur.1
  let c := s.cluster cl
  s.setCluster cl (c.setTile v.tile ((c.tileOf v.tile).setRow v.row.toNat x poison))

/-- The first offending tile of operands that must have one accepted type (R182). -/
def sameType (accepted : TileTy → Bool) : List (BitVec 3 × TileTy) → Option (BitVec 3)
  | [] => none
  | (t, ty) :: rest => if accepted ty then (rest.find? fun x => x.2 != ty).map (·.1) else some t

def anyType (_ : TileTy) : Bool := true
def isFloat (ty : TileTy) : Bool := ty != .int32

/-- The checks of R333 on operands in the order OD, OA, OB: ownership, types, modifiers. -/
def vchecks (s : State) (t : Thread) (i : Instr) (ops : List VOp) (types : List (BitVec 3 × TileTy) → Option (BitVec 3)) (k : Out) : Out :=
  match ops.find? fun o => !(s.accTile o.row.tile).ownedBy s.cur.1 s.cur.2 t with
  | some o => trapBefore s t i Cause.noOwn (ownValue 0 o.row.tile)
  | none => match types (ops.map fun o => (o.row.tile, s.vty o.row)) with
    | some x => trapBefore s t i Cause.noOwn (ownValue 3 x)
    | none => if ops.any fun o => SrcModTooWide o.mod (s.vty o.row) then trapBefore s t i Cause.illegal (instrValue i) else k

/-- Whether the thread held an innings when its vector instruction issued (R335). -/
def State.leasedAtIssue (s : State) (t : Thread) : Bool := if t.inVector then t.leased else (s.innings s.cur.1 s.cur.2 t).isSome

/-- What a VQNT samples when it issues: num.srseed, num.srtid, num.srpos and base (R147, R192). -/
def State.sample (s : State) (t : Thread) : Word × BitVec 32 × Word × BitVec 8 :=
  let x := s.tctx s.cur.1 t.ctx
  let now := ((s.ctx t.ctx).srseed, x.srtid, x.srpos, x.mxBase)
  if t.inVector then t.sampled.getD now else now

/-- Blocks the thread in a vector instruction that has issued, and that it will run to its end (R334). -/
def vblock (s : State) (t : Thread) (i : Instr) (w : Wait) : Out :=
  block s { t with instr := some i, leased := s.leasedAtIssue t, sampled := some (s.sample t) } w

/-- The wait of R177 for the tiles of an instruction. -/
def vwait (s : State) (t : Thread) (i : Instr) (ops : List VOp) (k : Out) : Out :=
  let ts := ops.map (·.row.tile)
  let c := s.cluster (clusterOf s.cur.1)
  if ts.any c.tilePending then vblock s t i (.tiles ts) else k

/-- An operation of a tile that no other requester can precede starts in the cycle of its issue: the Tailrace is free, nothing waits for it, and no other
thread can issue (R184). -/
def State.tailFree (s : State) (cl : Nat) : Bool :=
  let c := s.cluster cl
  s.alone && decide (c.busy ≤ s.cycle) && c.vreqs.isEmpty && (s.millPresents cl).isNone

/-- The turn of a vector instruction that occupies the Tailrace for n cycles (R184): it has come, it comes at once, or the thread waits for it. -/
def tailTurn (s : State) (t : Thread) (i : Instr) (n : Nat) (k : State → Out) : Out :=
  let cl := clusterOf s.cur.1
  let c := s.cluster cl
  match t.status with
  | .blocked (.tail true) _ _ => k s
  | .blocked (.tail false) _ _ => vblock s t i (.tail false)
  | _ =>
    if s.tailFree cl then k (s.setCluster cl { c with busy := s.cycle + n, lastServed := s.cur.1 % 4 })
    else vblock (s.setCluster cl { c with vreqs := c.vreqs ++ [.turn s.cur.1 s.cur.2 t.inst n s.cycle] }) t i (.tail false)

/-- A vector instruction of one cycle of the Tailrace up to its start: sources, checks, the wait for its tiles, and its turn. -/
def vector (i : Instr) (gs : List Src) (dests : List GReg) (ops : List VOp) (types : List (BitVec 3 × TileTy) → Option (BitVec 3)) (s : State)
    (k : State → Thread → Out) : Out :=
  issue s i false gs [] dests fun t => vchecks s t i ops types (vwait s t i ops (tailTurn s t i 1 fun s => k s t))

/-- The instruction completes: events are counted, the destination has been written. -/
def vdone (s : State) (t : Thread) (i : Instr) (classes : List Nat) : Out := countMe s t classes fun s1 t1 => done s1 t1 i

def plain (v : VRow) : VOp := ⟨v, .none⟩

/-- Writes lanes with their events into a row. -/
def State.putLanes (s : State) (v : VRow) (rs : List (Nat × List Nat)) (poison : Bool) : State :=
  s.putRow v (ofLanes (laneBits (s.vty v)) (rs.map (·.1))) poison

/-- An element-wise instruction on one source. -/
def vunary (i : Instr) (accepted : TileTy → Bool) (vd va : VRow) (ma : SrcMod) (f : TileTy → Nat → Nat × List Nat) (s : State) : Out :=
  vector i [] [] [plain vd, ⟨va, ma⟩] (sameType accepted) s fun s t =>
    let rs := (s.vsrc ⟨va, ma⟩).map (f (s.vty vd))
    vdone (s.putLanes vd rs (s.vbad va)) t i (rs.map (·.2)).flatten

/-- An element-wise instruction on two sources; `useD` says that the destination is read as well. -/
def vbinary (i : Instr) (accepted : TileTy → Bool) (useD : Bool) (vd va vb : VRow) (ma mb : SrcMod) (f : TileTy → Nat → Nat → Nat → Nat × List Nat)
    (s : State) : Out :=
  vector i [] [] [plain vd, ⟨va, ma⟩, ⟨vb, mb⟩] (sameType accepted) s fun s t =>
    let rs := ((lanes (s.vty vd) (s.vrow vd)).zip ((s.vsrc ⟨va, ma⟩).zip (s.vsrc ⟨vb, mb⟩))).map fun (d, a, b) => f (s.vty vd) d a b
    vdone (s.putLanes vd rs (s.vbad va || s.vbad vb || (useD && s.vbad vd))) t i (rs.map (·.2)).flatten

/-! ### Lane functions (R186) -/

def lowBits (w n : Nat) : Nat := n % 2 ^ w
def ofSigned (w : Nat) (k : Int) : Nat := (k % (2 ^ w : Int)).toNat

def laneAdd (ty : TileTy) (_ a b : Nat) : Nat × List Nat :=
  if ty = .int32 then (lowBits 32 (a + b), []) else (laneFmt ty).add .rne ((laneFmt ty).decode a) ((laneFmt ty).decode b)
def laneSub (ty : TileTy) (_ a b : Nat) : Nat × List Nat :=
  if ty = .int32 then (lowBits 32 (a + 2 ^ 32 - b), []) else (laneFmt ty).add .rne ((laneFmt ty).decode a) ((laneFmt ty).decode b).neg
def laneMul (ty : TileTy) (_ a b : Nat) : Nat × List Nat :=
  if ty = .int32 then (lowBits 32 (a * b), []) else (laneFmt ty).mul .rne ((laneFmt ty).decode a) ((laneFmt ty).decode b)
def laneFma (ty : TileTy) (d a b : Nat) : Nat × List Nat :=
  if ty = .int32 then (lowBits 32 (d + a * b), [])
  else (laneFmt ty).fma .rne ((laneFmt ty).decode a) ((laneFmt ty).decode b) ((laneFmt ty).decode d)
def laneIntMin (max : Bool) (a b : Nat) : Nat := if decide (signedOf 32 a < signedOf 32 b) == max then b else a
def laneMin (num max : Bool) (ty : TileTy) (_ a b : Nat) : Nat × List Nat :=
  if ty = .int32 then (laneIntMin max a b, [])
  else if num then Fp.minMaxNum (laneFmt ty) max a b else Fp.minMax (laneFmt ty) max a b
def laneAbs (ty : TileTy) (a : Nat) : Nat × List Nat :=
  if ty = .int32 then (ofSigned 32 (signedOf 32 a).natAbs, [])
  else if ((laneFmt ty).decode a).isNan then ((laneFmt ty).nanCode, []) else (a % 2 ^ (laneBits ty - 1), [])
def laneNeg (ty : TileTy) (a : Nat) : Nat × List Nat :=
  if ty = .int32 then (ofSigned 32 (-(signedOf 32 a)), [])
  else if ((laneFmt ty).decode a).isNan then ((laneFmt ty).nanCode, []) else ((a + 2 ^ (laneBits ty - 1)) % 2 ^ laneBits ty, [])
/-- Signed comparison under the FP conditions: .un gives zero and .ord all ones. -/
def intHolds (c : FpCond) (x y : Int) : Bool :=
  match c with
  | .eq => x == y
  | .ne => x != y
  | .lt => x < y
  | .le => x ≤ y
  | .gt => y < x
  | .ge => y ≤ x
  | .un => false
  | .ord => true
def laneCmp (c : FpCond) (ty : TileTy) (_ a b : Nat) : Nat × List Nat :=
  let h := if ty = .int32 then intHolds c (signedOf 32 a) (signedOf 32 b) else Fp.holds (laneFmt ty) c a b
  (if h then 2 ^ laneBits ty - 1 else 0, if ty = .int32 then [] else Fp.invIf (Fp.cmpInvalid (laneFmt ty) c a b))
def laneSel (ty : TileTy) (d a b : Nat) : Nat × List Nat := ((d &&& a) ||| ((2 ^ laneBits ty - 1 - d) &&& b), [])
def laneIadd (ty : TileTy) (_ a b : Nat) : Nat × List Nat := (lowBits (laneBits ty) (a + b), [])
def laneShl (ty : TileTy) (_ a b : Nat) : Nat × List Nat := (lowBits (laneBits ty) (a * 2 ^ (b % laneBits ty)), [])
def laneShr (arith : Bool) (ty : TileTy) (_ a b : Nat) : Nat × List Nat :=
  let n := b % laneBits ty
  (if arith then ofSigned (laneBits ty) (signedOf (laneBits ty) a / 2 ^ n) else a / 2 ^ n, [])
/-- VDOT of one lane (R155). -/
def laneDot (_ : TileTy) (d a b : Nat) : Nat × List Nat :=
  let t := (List.range 4).foldl (fun t k => t + signedOf 8 (a / 2 ^ (8 * k)) * signedOf 8 (b / 2 ^ (8 * k))) (signedOf 32 d)
  if 2 ^ 31 - 1 < t then (2 ^ 31 - 1, [Class.sat]) else if t < -(2 ^ 31) then (2 ^ 31, [Class.sat]) else (ofSigned 32 t, [])

/-! ### Element-wise instructions -/

def execVadd (vd va vb : VRow) (ma mb : SrcMod) (s : State) : Out := vbinary (.vadd vd va vb ma mb) anyType false vd va vb ma mb laneAdd s
def execVsub (vd va vb : VRow) (ma mb : SrcMod) (s : State) : Out := vbinary (.vsub vd va vb ma mb) anyType false vd va vb ma mb laneSub s
def execVmul (vd va vb : VRow) (ma mb : SrcMod) (s : State) : Out := vbinary (.vmul vd va vb ma mb) anyType false vd va vb ma mb laneMul s
def execVfma (vd va vb : VRow) (ma mb : SrcMod) (s : State) : Out := vbinary (.vfma vd va vb ma mb) anyType true vd va vb ma mb laneFma s
def execVmin (vd va vb : VRow) (ma mb : SrcMod) (s : State) : Out := vbinary (.vmin vd va vb ma mb) anyType false vd va vb ma mb (laneMin true false) s
def execVmax (vd va vb : VRow) (ma mb : SrcMod) (s : State) : Out := vbinary (.vmax vd va vb ma mb) anyType false vd va vb ma mb (laneMin true true) s
def execVminm (vd va vb : VRow) (ma mb : SrcMod) (s : State) : Out := vbinary (.vminm vd va vb ma mb) anyType false vd va vb ma mb (laneMin false false) s
def execVmaxm (vd va vb : VRow) (ma mb : SrcMod) (s : State) : Out := vbinary (.vmaxm vd va vb ma mb) anyType false vd va vb ma mb (laneMin false true) s
def execVabs (vd va : VRow) (ma : SrcMod) (s : State) : Out := vunary (.vabs vd va ma) anyType vd va ma laneAbs s
def execVneg (vd va : VRow) (ma : SrcMod) (s : State) : Out := vunary (.vneg vd va ma) anyType vd va ma laneNeg s
def execVcmp (c : FpCond) (vd va vb : VRow) (ma mb : SrcMod) (s : State) : Out := vbinary (.vcmp c vd va vb ma mb) anyType false vd va vb ma mb (laneCmp c) s
def execVsel (vd va vb : VRow) (ma mb : SrcMod) (s : State) : Out := vbinary (.vsel vd va vb ma mb) anyType true vd va vb ma mb laneSel s
def execVdot (vd va vb : VRow) (ma mb : SrcMod) (s : State) : Out := vbinary (.vdot vd va vb ma mb) (· == .int32) true vd va vb ma mb laneDot s
def execVmov (vd va : VRow) (ma : SrcMod) (s : State) : Out := vunary (.vmov vd va ma) anyType vd va ma (fun _ a => (a, [])) s
def execViadd (vd va vb : VRow) (ma mb : SrcMod) (s : State) : Out := vbinary (.viadd vd va vb ma mb) anyType false vd va vb ma mb laneIadd s
def execVand (vd va vb : VRow) (ma mb : SrcMod) (s : State) : Out := vbinary (.vand vd va vb ma mb) anyType false vd va vb ma mb (fun _ _ a b => (a &&& b, [])) s
def execVor (vd va vb : VRow) (ma mb : SrcMod) (s : State) : Out := vbinary (.vor vd va vb ma mb) anyType false vd va vb ma mb (fun _ _ a b => (a ||| b, [])) s
def execVxor (vd va vb : VRow) (ma mb : SrcMod) (s : State) : Out := vbinary (.vxor vd va vb ma mb) anyType false vd va vb ma mb (fun _ _ a b => (a ^^^ b, [])) s
def execVshl (vd va vb : VRow) (ma mb : SrcMod) (s : State) : Out := vbinary (.vshl vd va vb ma mb) anyType false vd va vb ma mb laneShl s
def execVshr (arith : Bool) (vd va vb : VRow) (ma mb : SrcMod) (s : State) : Out :=
  vbinary (.vshr arith vd va vb ma mb) anyType false vd va vb ma mb (laneShr arith) s

/-- VSCL: A times a register read as FP32, or as an integer (R186); a poisoned register poisons the row (R333). -/
def execVscl (te : Bool) (vd va : VRow) (ma : SrcMod) (b : GReg) (s : State) : Out :=
  let i := Instr.vscl te vd va ma b
  vector i [⟨b, te⟩] [] [plain vd, ⟨va, ma⟩] (sameType anyType) s fun s t =>
    let g := (t.val b).toNat % 2 ^ 32
    let ty := s.vty vd
    let rs := (s.vsrc ⟨va, ma⟩).map fun a =>
      if ty = .int32 then (lowBits 32 (a * g), []) else (laneFmt ty).mul .rne ((laneFmt ty).decode a) (Fp.f32.decode g)
    vdone (s.putLanes vd rs (s.vbad va || t.pois b)) t i (rs.map (·.2)).flatten

/-- VBC: a register into every lane (R187). -/
def execVbc (te : Bool) (vd : VRow) (b : GReg) (s : State) : Out :=
  let i := Instr.vbc te vd b
  vector i [⟨b, te⟩] [] [plain vd] (sameType anyType) s fun s t =>
    let ty := s.vty vd
    vdone (s.putLanes vd (List.replicate (laneCount ty) ((t.val b).toNat % 2 ^ laneBits ty, [])) (t.pois b)) t i []

/-- A special function on an FP32 or BF16 lane (R189). -/
def laneSpecial (f : BitVec 32 → Nat × List Nat) (ty : TileTy) (a : Nat) : Nat × List Nat :=
  if ty = .bf16 then
    let r := f (BitVec.ofNat 32 (a * 2 ^ 16))
    let q := Fp.bf16.narrow .rne (Fp.f32.decode r.1)
    (q.1, r.2 ++ q.2)
  else f (BitVec.ofNat 32 a)

def execVexp2 (vd va : VRow) (ma : SrcMod) (s : State) : Out := vunary (.vexp2 vd va ma) isFloat vd va ma (laneSpecial Fp.exp2Lane) s
def execVlog2 (vd va : VRow) (ma : SrcMod) (s : State) : Out := vunary (.vlog2 vd va ma) isFloat vd va ma (laneSpecial Fp.log2Lane) s
def execVrcp (vd va : VRow) (ma : SrcMod) (s : State) : Out := vunary (.vrcp vd va ma) isFloat vd va ma (laneSpecial Fp.rcpLane) s
def execVrsq (vd va : VRow) (ma : SrcMod) (s : State) : Out := vunary (.vrsq vd va ma) isFloat vd va ma (laneSpecial Fp.rsqLane) s
def execVtanh (vd va : VRow) (ma : SrcMod) (s : State) : Out := vunary (.vtanh vd va ma) isFloat vd va ma (laneSpecial Fp.tanhLane) s

/-! ### Conversion (R188) -/

/-- FP32 to INT32 by mode. -/
def toInt32 (rm : Rm) (a : Nat) : Nat × List Nat :=
  let big (neg : Bool) : Nat × List Nat := (if neg then 0x80000000 else 0x7FFFFFFF, [Class.inv])
  match Fp.f32.decode a with
  | .nan _ => (0, [Class.inv])
  | .inf n => big n
  | .fin n m e =>
    let q := (Fp.roundTo rm n m e 0).1
    if (n && 2 ^ 31 < q) || (!n && 2 ^ 31 ≤ q) then big n else (ofSigned 32 (if n then -(q : Int) else q), [])

def ofInt32 (rm : Rm) (a : Nat) : Nat × List Nat := Fp.f32.arith rm (.fin (signedOf 32 a < 0) (signedOf 32 a).natAbs 0)

/-- BF16 to FP32, exact. -/
def widenLane (a : Nat) : Nat × List Nat :=
  match Fp.bf16.decode a with
  | .nan sg => (Fp.nan32, Fp.invIf sg)
  | _ => (a * 2 ^ 16, [])

/-- The type pairs that VCVT has: the offending tile otherwise. -/
def cvtTypes : List (BitVec 3 × TileTy) → Option (BitVec 3)
  | [(o, d), (_, x)] => if (d == .bf16 && x == .int32) || (d == .int32 && x == .bf16) then some o else none
  | _ => none

/-- The row below. -/
def nextRow (v : VRow) : VRow := { v with row := v.row + 1 }

/-- The FP32 row of a pairing is odd (R188). -/
def oddPair (d a : TileTy) (vd va : VRow) : Bool := (a == .fp32 && d == .bf16 && va.row.getLsbD 0) || (a == .bf16 && d == .fp32 && vd.row.getLsbD 0)

/-- VCVT: lane by lane, or pairing two FP32 rows with one BF16 row (R188). -/
def execVcvt (rm : Rm) (vd va : VRow) (ma : SrcMod) (s : State) : Out :=
  let i := Instr.vcvt rm vd va ma
  issue s i false [] [] [] fun t => vchecks s t i [plain vd, ⟨va, ma⟩] cvtTypes (
    if oddPair (s.vty vd) (s.vty va) vd va then trapBefore s t i Cause.illegal (instrValue i)
    else vwait s t i [plain vd, ⟨va, ma⟩] (tailTurn s t i (if isFloat (s.vty vd) && isFloat (s.vty va) && s.vty vd != s.vty va then 2 else 1) fun s =>
    let src (v : VRow) := s.vsrc ⟨v, ma⟩
    let one (f : Nat → Nat × List Nat) : Out :=
      let rs := (src va).map f
      vdone (s.putLanes vd rs (s.vbad va)) t i (rs.map (·.2)).flatten
    match s.vty va, s.vty vd with
    | .fp32, .bf16 =>
        let rs := (src va ++ src (nextRow va)).map fun a => Fp.bf16.narrow rm (Fp.f32.decode a)
        vdone (s.putLanes vd rs (s.vbad va || s.vbad (nextRow va))) t i (rs.map (·.2)).flatten
    | .bf16, .fp32 =>
        let rs := (src va).map widenLane
        let s1 := s.putLanes vd (rs.take 256) (s.vbad va)
        vdone (s1.putLanes (nextRow vd) (rs.drop 256) (s.vbad va)) t i (rs.map (·.2)).flatten
    | .fp32, .int32 => one (toInt32 rm)
    | .int32, .fp32 => one (ofInt32 rm)
    | _, _ => one fun a => (a, [])))

/-! ### Stochastic rounding (R145 to R147) -/

/-- The table D of R145. -/
def dither : List (List Nat) := [
  [0, 128, 32, 160, 8, 136, 40, 168, 2, 130, 34, 162, 10, 138, 42, 170],
  [192, 64, 224, 96, 200, 72, 232, 104, 194, 66, 226, 98, 202, 74, 234, 106],
  [48, 176, 16, 144, 56, 184, 24, 152, 50, 178, 18, 146, 58, 186, 26, 154],
  [240, 112, 208, 80, 248, 120, 216, 88, 242, 114, 210, 82, 250, 122, 218, 90],
  [12, 140, 44, 172, 4, 132, 36, 164, 14, 142, 46, 174, 6, 134, 38, 166],
  [204, 76, 236, 108, 196, 68, 228, 100, 206, 78, 238, 110, 198, 70, 230, 102],
  [60, 188, 28, 156, 52, 180, 20, 148, 62, 190, 30, 158, 54, 182, 22, 150],
  [252, 124, 220, 92, 244, 116, 212, 84, 254, 126, 222, 94, 246, 118, 214, 86],
  [3, 131, 35, 163, 11, 139, 43, 171, 1, 129, 33, 161, 9, 137, 41, 169],
  [195, 67, 227, 99, 203, 75, 235, 107, 193, 65, 225, 97, 201, 73, 233, 105],
  [51, 179, 19, 147, 59, 187, 27, 155, 49, 177, 17, 145, 57, 185, 25, 153],
  [243, 115, 211, 83, 251, 123, 219, 91, 241, 113, 209, 81, 249, 121, 217, 89],
  [15, 143, 47, 175, 7, 135, 39, 167, 13, 141, 45, 173, 5, 133, 37, 165],
  [207, 79, 239, 111, 199, 71, 231, 103, 205, 77, 237, 109, 197, 69, 229, 101],
  [63, 191, 31, 159, 55, 183, 23, 151, 61, 189, 29, 157, 53, 181, 21, 149],
  [255, 127, 223, 95, 247, 119, 215, 87, 253, 125, 221, 93, 245, 117, 213, 85]]

/-- The threshold of SR-C (R146). -/
def hashDraw (seed tid row col : Nat) : Nat :=
  let m : Nat := 2 ^ 64
  let h0 := seed % m
  let h1 := h0.xor (tid * 0x9E6C63D0876A9A47 % m)
  let h2 := h1.xor (row % 2 ^ 32 * 2 ^ 32 + col % 2 ^ 32)
  let h3 := h2.xor (h2 / 2 ^ 31)
  let h4 := h3 * 0xD168AAAD0AB35C1F % m
  let h5 := h4.xor (h4 / 2 ^ 29)
  let h6 := h5 * 0xB7E151628AED2A6B % m
  let h7 := h6.xor (h6 / 2 ^ 32)
  h7 / 2 ^ 56

/-- The threshold of an element by mode: none for a mode that is not stochastic. -/
def threshold (rm : QRm) (seed tid row col : Nat) : Nat :=
  match rm with
  | .mode _ => 0
  | .dith => (dither.getD (row % 16) []).getD (col % 16) 0
  | .hash => hashDraw seed tid row col

/-! ### VQNT (R190 to R192) -/

/-- A value times 2^k. -/
def scaleV (k : Int) : Fp.V → Fp.V
  | .fin n m e => .fin n m (e + k)
  | v => v

/-- One element into a format by the mode in force. -/
def narrowElement (f : Fp.Fmt) (rm : QRm) (thr : Nat) (v : Fp.V) : Nat × List Nat :=
  match rm with
  | .mode r => f.narrow r v
  | _ => f.stochastic thr v

/-- What one block gives: scale code, element codes, classes, the unclamped code (none for an empty block) and whether it was clamped. -/
structure QBlock where
  scale : Nat
  q : List Nat
  classes : List Nat
  peak : Option Nat
  clamp : Bool

/-- The largest finite magnitude of a block, as an FP32 code. -/
def blockMax (xs : List Nat) : Nat := (xs.map (· % 2 ^ 31)).foldl (fun m c => if c < 0x7F800000 && m < c then c else m) 0

/-- The power of an FP8 block: ceil(log2(m / Fmax)) from -9 to 8 (R190). -/
def fp8Power (e5 : Bool) (m : Nat) (e : Int) : Int :=
  let k : Int := if e5 then 13 else 6
  (((List.range 18).map fun (j : Nat) => (j : Int) - 9).find? fun p =>
    let u := min e (k + p)
    decide (Fp.units false m e u ≤ Fp.units false 7 (k + p) u)).getD 8

/-- A block of .e4m3 or .e5m2; `thr` gives the threshold of a lane. -/
def fp8Block (e5 : Bool) (rm : QRm) (thr : Nat → Nat) (xs : List Nat) : QBlock :=
  let mc := blockMax xs
  let p : Int := if mc = 0 then 0 else match Fp.f32.decode mc with
    | .fin _ m e => fp8Power e5 m e
    | _ => 0
  let f := if e5 then Fp.e5m2 else Fp.e4m3
  let rs := (xs.zip (List.range xs.length)).map fun (x, k) => narrowElement f rm (thr k) (scaleV (-p) (Fp.f32.decode x))
  { scale := (Fp.e4m3.roundCode .rne false 1 p).1, q := rs.map (·.1), classes := (rs.map (·.2)).flatten, peak := none, clamp := false }

/-- A block of .mx4 (R190). -/
def mxBlock (base : Nat) (rm : QRm) (thr : Nat → Nat) (xs : List Nat) : QBlock :=
  if xs.any fun x => (Fp.f32.decode x).isNan then
    { scale := 0xFF, q := List.replicate 32 0, classes := [Class.inv], peak := none, clamp := false }
  else
    let mc := blockMax xs
    let lo : Int := if base < 8 then 0 else (base : Int) - 8
    let hi : Int := min 254 ((base : Int) + 8)
    let e0 : Int := if mc = 0 then base else match Fp.f32.decode mc with
      | .fin _ m e => 127 + ((Nat.log2 m : Int) + e) - 2
      | _ => base
    let e := min hi (max lo e0)
    let rs := (xs.zip (List.range xs.length)).map fun (x, k) => narrowElement Fp.e2m1 rm (thr k) (scaleV (127 - e) (Fp.f32.decode x))
    { scale := e.toNat, q := rs.map (·.1), classes := (rs.map (·.2)).flatten, peak := if mc = 0 then none else some (min 254 e0).toNat, clamp := e0 != e }

/-- The 1,024 bytes that VQNT writes (R191). -/
def qntBytes (f : QFmt) (base : Nat) (bs : List QBlock) : List Nat :=
  let q := (bs.map (·.q)).flatten
  let sc (b : Nat) : Nat := ((bs.map (·.scale)).getD b 0)
  let data := if f = .mx4 then (List.range 128).map (fun k => q.getD (2 * k) 0 + 16 * q.getD (2 * k + 1) 0) ++ List.replicate 128 0 else q
  let scales := if f = .mx4 then (List.range 8).map sc ++ List.replicate 8 0
    else (List.range 16).map fun k => if k % 4 < 2 then sc (2 * (k / 4) + k % 4) else 0
  data ++ List.replicate 256 0 ++ scales ++ [if f = .mx4 then base else 0] ++ List.replicate 495 0

/-- The types of VQNT: va is FP32 (R182). -/
def qntTypes : List (BitVec 3 × TileTy) → Option (BitVec 3)
  | [_, (a, x)] => if x == .fp32 then none else some a
  | _ => none

/-- VQNT; the holder of the innings, as tested when VQNT issues, also writes the scales to scale memory, as an SCLD would; a grant since then has cleared
what it would have written (R191, R335). -/
def execVqnt (f : QFmt) (rm : QRm) (vd va : VRow) (ma : SrcMod) (soff : BitVec 12) (s : State) : Out :=
  let i := Instr.vqnt f rm vd va ma soff
  vector i [] [] [plain vd, ⟨va, ma⟩] qntTypes s fun s t =>
    let x := s.tctx s.cur.1 t.ctx
    let (seed, tid, srpos, mxbase) := s.sample t
    let row := (srpos.toNat / 2 ^ 32 + va.row.toNat) % 2 ^ 32
    let col := srpos.toNat % 2 ^ 32
    let thr (b k : Nat) : Nat := threshold rm seed.toNat tid.toNat row ((col + 32 * b + k) % 2 ^ 32)
    let l := s.vsrc ⟨va, ma⟩
    let base := mxbase.toNat
    let bs := (List.range 8).map fun b =>
      let xs := (l.drop (32 * b)).take 32
      match f with
      | .mx4 => mxBlock base rm (thr b) xs
      | .e4m3 => fp8Block false rm (thr b) xs
      | .e5m2 => fp8Block true rm (thr b) xs
    let bytes := qntBytes f base bs
    let x1 := { x with mxPeak := BitVec.ofNat 8 (bs.foldl (fun p b => max p (b.peak.getD 0)) x.mxPeak.toNat), mxClamp := x.mxClamp || bs.any (·.clamp) }
    let s1 := (s.putRow vd (ofLanes 8 bytes) (s.vbad va)).setTctx s.cur.1 t.ctx x1
    let cl := clusterOf s.cur.1
    let s2 := if s.leasedAtIssue t && !(s.cluster cl).innings.any (fun l => t.issued s < l.cycle) then
        s1.setCluster cl ((s1.cluster cl).push (.scales soff.toNat (BitVec.ofNat 128 (leNat (((bytes.drop 512).take 16).map (BitVec.ofNat 8 ·)))) (s.vbad va)) (s.who t) [])
      else s1
    vdone s2 t i (bs.map (·.classes)).flatten

/-! ### Reduction, loads and stores -/

/-- VRED: the row is read at issue, and gd stays empty until the tree ends (R154, R185). -/
def execVred (op : RedOp) (d : GReg) (va : VRow) (ma : SrcMod) (s : State) : Out :=
  let i := Instr.vred op d va ma
  issue s i false [] [] [d] fun t => vchecks s t i [⟨va, ma⟩] (sameType anyType) (vwait s t i [⟨va, ma⟩] (
    let cl := clusterOf s.cur.1
    let c := s.cluster cl
    let ty := s.vty va
    let v : VredReq := { op, ty, tileNo := va.tile, row := ofLanes (laneBits ty) (s.vsrc ⟨va, ma⟩), poison := s.vbad va, who := s.who t, d, cycle := s.cycle }
    done (s.setCluster cl { c with vreqs := c.vreqs ++ [.vred v] }) (t.markEmpty d .vred) i))

/-- The slot of this cycle is the Tailrace's, and free at the sixteen banks of a row of SRAM (R99, R101). -/
def State.rowFree (s : State) (pa : Nat) : Bool := (List.range 16).all fun j => s.slotFree .tailrace (paTile pa * 16 + j)
def State.useRow (s : State) (pa : Nat) : State := s.useSlots ((List.range 16).map fun j => paTile pa * 16 + j)

/-- The address of VLD and VST, and their waits (R128, R187, R333); a row is read or written in a slot of the Tailrace (R101). -/
def vmem (i : Instr) (te : Bool) (k : Access3) (a : GReg) (off : BitVec 12) (o : VOp) (s : State) (f : State → Thread → Nat → Out) : Out :=
  issue s i false [⟨a, te⟩] [] [] fun t => vchecks s t i [o] (sameType anyType) (
    let va := t.val a + sext off * 1024
    if va.toNat % 1024 ≠ 0 then trapBefore s t i Cause.align va
    else accessMe s t i k va va fun s1 t1 pa =>
      if clusterOf (paTile pa) ≠ clusterOf s1.cur.1 then trapBefore s1 t1 i Cause.prot va
      else poisonCheck s1 t1 i [a] (vwait s1 t1 i [o] (
        if (s1.fifoOf s1.cur.1 s1.cur.2).isEmpty then tailTurn s1 t1 i 1 fun s2 => if s2.rowFree pa then f (s2.useRow pa) t1 pa else vblock s2 t1 i (.tail true) else vblock s1 t1 i .drained)))

/-- VLD (R187). -/
def execVld (te : Bool) (vd : VRow) (a : GReg) (off : BitVec 12) (s : State) : Out :=
  let i := Instr.vld te vd a off
  vmem i te .read a off (plain vd) s fun s1 t1 pa =>
    match s1.readBytes pa 1024 with
    | (s2, bs, p) => vdone (s2.putRow vd (BitVec.ofNat 8192 (leNat bs)) p) t1 i (if p then [Class.psn] else [])

/-- VST (R187). -/
def execVst (te : Bool) (a : GReg) (off : BitVec 12) (vb : VRow) (mb : SrcMod) (s : State) : Out :=
  let i := Instr.vst te a off vb mb
  vmem i te .write a off ⟨vb, mb⟩ s fun s1 t1 pa =>
    let row := ofLanes (laneBits (s1.vty vb)) (s1.vsrc ⟨vb, mb⟩)
    vdone (s1.writeBytes pa (leBytes row.toNat 1024) (s1.vbad vb)) t1 i []

end Sys2Proof.Machine
end

