-- ==== Sys2Proof/Machine/Dispatch.lean ====
section
/-! DEFINITION. One arm for each constructor of Instr. -/

namespace Sys2Proof.Machine
open Sys2Proof

/-- The meaning of an instruction or event in a state. -/
def exec (i : Instr) (s : State) : Host.Outcome State Fault Refusal :=
  match i with
  | .add d a b => Sys2Proof.Machine.execAdd d a b s
  | .sub d a b => Sys2Proof.Machine.execSub d a b s
  | .mul d a b => Sys2Proof.Machine.execMul d a b s
  | .mulh d a b => Sys2Proof.Machine.execMulh d a b s
  | .mulhu d a b => Sys2Proof.Machine.execMulhu d a b s
  | .div d a b => Sys2Proof.Machine.execDiv d a b s
  | .divu d a b => Sys2Proof.Machine.execDivu d a b s
  | .rem d a b => Sys2Proof.Machine.execRem d a b s
  | .remu d a b => Sys2Proof.Machine.execRemu d a b s
  | .and d a b => Sys2Proof.Machine.execAnd d a b s
  | .or d a b => Sys2Proof.Machine.execOr d a b s
  | .xor d a b => Sys2Proof.Machine.execXor d a b s
  | .andn d a b => Sys2Proof.Machine.execAndn d a b s
  | .shl d a b => Sys2Proof.Machine.execShl d a b s
  | .shr d a b => Sys2Proof.Machine.execShr d a b s
  | .sra d a b => Sys2Proof.Machine.execSra d a b s
  | .rol d a b => Sys2Proof.Machine.execRol d a b s
  | .min d a b => Sys2Proof.Machine.execMin d a b s
  | .max d a b => Sys2Proof.Machine.execMax d a b s
  | .minu d a b => Sys2Proof.Machine.execMinu d a b s
  | .maxu d a b => Sys2Proof.Machine.execMaxu d a b s
  | .clz d a => Sys2Proof.Machine.execClz d a s
  | .ctz d a => Sys2Proof.Machine.execCtz d a s
  | .popc d a => Sys2Proof.Machine.execPopc d a s
  | .bswap d a => Sys2Proof.Machine.execBswap d a s
  | .mov d a => Sys2Proof.Machine.execMov d a s
  | .set c d a b => Sys2Proof.Machine.execSet c d a b s
  | .sel d c a b => Sys2Proof.Machine.execSel d c a b s
  | .addi d a imm => Sys2Proof.Machine.execAddi d a imm s
  | .andi d a imm => Sys2Proof.Machine.execAndi d a imm s
  | .ori d a imm => Sys2Proof.Machine.execOri d a imm s
  | .xori d a imm => Sys2Proof.Machine.execXori d a imm s
  | .shli d a n => Sys2Proof.Machine.execShli d a n s
  | .shri d a n => Sys2Proof.Machine.execShri d a n s
  | .srai d a n => Sys2Proof.Machine.execSrai d a n s
  | .seti c d a imm => Sys2Proof.Machine.execSeti c d a imm s
  | .ext d a pos lm1 => Sys2Proof.Machine.execExt d a pos lm1 s
  | .ins d a pos lm1 => Sys2Proof.Machine.execIns d a pos lm1 s
  | .fadd rm d a b => Sys2Proof.Machine.execFadd rm d a b s
  | .fsub rm d a b => Sys2Proof.Machine.execFsub rm d a b s
  | .fmul rm d a b => Sys2Proof.Machine.execFmul rm d a b s
  | .ffma rm d a b => Sys2Proof.Machine.execFfma rm d a b s
  | .fmin d a b => Sys2Proof.Machine.execFmin d a b s
  | .fmax d a b => Sys2Proof.Machine.execFmax d a b s
  | .fcvt k rm d a => Sys2Proof.Machine.execFcvt k rm d a s
  | .fset c d a b => Sys2Proof.Machine.execFset c d a b s
  | .ldb d a off => Sys2Proof.Machine.execLdb d a off s
  | .ldbu d a off => Sys2Proof.Machine.execLdbu d a off s
  | .ldh d a off => Sys2Proof.Machine.execLdh d a off s
  | .ldhu d a off => Sys2Proof.Machine.execLdhu d a off s
  | .ldw d a off => Sys2Proof.Machine.execLdw d a off s
  | .ldwu d a off => Sys2Proof.Machine.execLdwu d a off s
  | .ldd d a off => Sys2Proof.Machine.execLdd d a off s
  | .ldAcq sz sc d a off => Sys2Proof.Machine.execLdAcq sz sc d a off s
  | .stb a sm off => Sys2Proof.Machine.execStb a sm off s
  | .sth a sm off => Sys2Proof.Machine.execSth a sm off s
  | .stw a sm off => Sys2Proof.Machine.execStw a sm off s
  | .std a sm off => Sys2Proof.Machine.execStd a sm off s
  | .stRel sz sc a sm off => Sys2Proof.Machine.execStRel sz sc a sm off s
  | .amo op sz ord d a b => Sys2Proof.Machine.execAmo op sz ord d a b s
  | .cas sz ord d a b => Sys2Proof.Machine.execCas sz ord d a b s
  | .bCond c a b off => Sys2Proof.Machine.execBCond c a b off s
  | .jmp off => Sys2Proof.Machine.execJmp off s
  | .jal off => Sys2Proof.Machine.execJal off s
  | .jalr a => Sys2Proof.Machine.execJalr a s
  | .loop e m len c => Sys2Proof.Machine.execLoop e m len c s
  | .loopn e m len c => Sys2Proof.Machine.execLoopn e m len c s
  | .align n => Sys2Proof.Machine.execAlign n s
  | .trap n => Sys2Proof.Machine.execTrap n s
  | .spawn d a b pri => Sys2Proof.Machine.execSpawn d a b pri s
  | .join a => Sys2Proof.Machine.execJoin a s
  | .setpri n => Sys2Proof.Machine.execSetpri n s
  | .tid d => Sys2Proof.Machine.execTid d s
  | .migrate a => Sys2Proof.Machine.execMigrate a s
  | .launch d a => Sys2Proof.Machine.execLaunch d a s
  | .evset n => Sys2Proof.Machine.execEvset n s
  | .evclr n => Sys2Proof.Machine.execEvclr n s
  | .invoke d a b => Sys2Proof.Machine.execInvoke d a b s
  | .invokeh d a b => Sys2Proof.Machine.execInvokeh d a b s
  | .done a => Sys2Proof.Machine.execDone a s
  | .hget d a => Sys2Proof.Machine.execHget d a s
  | .htest d a => Sys2Proof.Machine.execHtest d a s
  | .hcancel a => Sys2Proof.Machine.execHcancel a s
  | .hdrop a => Sys2Proof.Machine.execHdrop a s
  | .swait d sem n => Sys2Proof.Machine.execSwait d sem n s
  | .swaitReg d sem a => Sys2Proof.Machine.execSwaitReg d sem a s
  | .ssig sem n => Sys2Proof.Machine.execSsig sem n s
  | .ssigReg sem a => Sys2Proof.Machine.execSsigReg sem a s
  | .sset sem n => Sys2Proof.Machine.execSset sem n s
  | .ssetReg sem a => Sys2Proof.Machine.execSsetReg sem a s
  | .sread d sem => Sys2Proof.Machine.execSread d sem s
  | .fetst d a => Sys2Proof.Machine.execFetst d a s
  | .fecan d => Sys2Proof.Machine.execFecan d s
  | .send a b => Sys2Proof.Machine.execSend a b s
  | .rqcnt d => Sys2Proof.Machine.execRqcnt d s
  | .binit a b c => Sys2Proof.Machine.execBinit a b c s
  | .barr d a n => Sys2Proof.Machine.execBarr d a n s
  | .bexp a b => Sys2Proof.Machine.execBexp a b s
  | .bwait d a b t => Sys2Proof.Machine.execBwait d a b t s
  | .fence sc d mask => Sys2Proof.Machine.execFence sc d mask s
  | .wopen d a b => Sys2Proof.Machine.execWopen d a b s
  | .wrevoke d a => Sys2Proof.Machine.execWrevoke d a s
  | .rdctl d ctl => Sys2Proof.Machine.execRdctl d ctl s
  | .wrctl ctl a => Sys2Proof.Machine.execWrctl ctl a s
  | .capr d a => Sys2Proof.Machine.execCapr d a s
  | .tlbinv a => Sys2Proof.Machine.execTlbinv a s
  | .tlbinvAll a => Sys2Proof.Machine.execTlbinvAll a s
  | .ctxsave d a => Sys2Proof.Machine.execCtxsave d a s
  | .ctxload d a => Sys2Proof.Machine.execCtxload d a s
  | .hint k h => Sys2Proof.Machine.execHint k h s
  | .vadd vd va vb ma mb => Sys2Proof.Machine.execVadd vd va vb ma mb s
  | .vsub vd va vb ma mb => Sys2Proof.Machine.execVsub vd va vb ma mb s
  | .vmul vd va vb ma mb => Sys2Proof.Machine.execVmul vd va vb ma mb s
  | .vfma vd va vb ma mb => Sys2Proof.Machine.execVfma vd va vb ma mb s
  | .vmin vd va vb ma mb => Sys2Proof.Machine.execVmin vd va vb ma mb s
  | .vmax vd va vb ma mb => Sys2Proof.Machine.execVmax vd va vb ma mb s
  | .vminm vd va vb ma mb => Sys2Proof.Machine.execVminm vd va vb ma mb s
  | .vmaxm vd va vb ma mb => Sys2Proof.Machine.execVmaxm vd va vb ma mb s
  | .vabs vd va ma => Sys2Proof.Machine.execVabs vd va ma s
  | .vneg vd va ma => Sys2Proof.Machine.execVneg vd va ma s
  | .vcmp c vd va vb ma mb => Sys2Proof.Machine.execVcmp c vd va vb ma mb s
  | .vsel vd va vb ma mb => Sys2Proof.Machine.execVsel vd va vb ma mb s
  | .vexp2 vd va ma => Sys2Proof.Machine.execVexp2 vd va ma s
  | .vlog2 vd va ma => Sys2Proof.Machine.execVlog2 vd va ma s
  | .vrcp vd va ma => Sys2Proof.Machine.execVrcp vd va ma s
  | .vrsq vd va ma => Sys2Proof.Machine.execVrsq vd va ma s
  | .vtanh vd va ma => Sys2Proof.Machine.execVtanh vd va ma s
  | .vcvt rm vd va ma => Sys2Proof.Machine.execVcvt rm vd va ma s
  | .vqnt f rm vd va ma soff => Sys2Proof.Machine.execVqnt f rm vd va ma soff s
  | .vdot vd va vb ma mb => Sys2Proof.Machine.execVdot vd va vb ma mb s
  | .vred op d va ma => Sys2Proof.Machine.execVred op d va ma s
  | .vbc te vd b => Sys2Proof.Machine.execVbc te vd b s
  | .vld te vd a off => Sys2Proof.Machine.execVld te vd a off s
  | .vst te a off vb mb => Sys2Proof.Machine.execVst te a off vb mb s
  | .vmov vd va ma => Sys2Proof.Machine.execVmov vd va ma s
  | .vscl te vd va ma b => Sys2Proof.Machine.execVscl te vd va ma b s
  | .viadd vd va vb ma mb => Sys2Proof.Machine.execViadd vd va vb ma mb s
  | .vand vd va vb ma mb => Sys2Proof.Machine.execVand vd va vb ma mb s
  | .vor vd va vb ma mb => Sys2Proof.Machine.execVor vd va vb ma mb s
  | .vxor vd va vb ma mb => Sys2Proof.Machine.execVxor vd va vb ma mb s
  | .vshl vd va vb ma mb => Sys2Proof.Machine.execVshl vd va vb ma mb s
  | .vshr arith vd va vb ma mb => Sys2Proof.Machine.execVshr arith vd va vb ma mb s
  | .lease d nm1 => Sys2Proof.Machine.execLease d nm1 s
  | .aown t ty => Sys2Proof.Machine.execAown t ty s
  | .afree t => Sys2Proof.Machine.execAfree t s
  | .scld te a b soff sm => Sys2Proof.Machine.execScld te a b soff sm s
  | .wld te f plane a soff zoff => Sys2Proof.Machine.execWld te f plane a soff zoff s
  | .chb te nm1 a b => Sys2Proof.Machine.execChb te nm1 a b s
  | .mma te f plane mm1 a idx soff k b sm => Sys2Proof.Machine.execMma te f plane mm1 a idx soff k b sm s
  | .cheW te acc t mask sm => Sys2Proof.Machine.execCheW te acc t mask sm s
  | .cheL te acc t mask sm ev => Sys2Proof.Machine.execCheL te acc t mask sm ev s
  | .asave te t a sm => Sys2Proof.Machine.execAsave te t a sm s
  | .aload te t a sm => Sys2Proof.Machine.execAload te t a sm s
  | .cpyW te d a b sm ds => Sys2Proof.Machine.execCpyW te d a b sm ds s
  | .cpyL te d a b sm ds ev => Sys2Proof.Machine.execCpyL te d a b sm ds ev s
  | .cpysW te d a b sm ds => Sys2Proof.Machine.execCpysW te d a b sm ds s
  | .cpysL te d a b sm ds ev => Sys2Proof.Machine.execCpysL te d a b sm ds ev s
  | .cpyselW te d a b sm ds => Sys2Proof.Machine.execCpyselW te d a b sm ds s
  | .cpyselL te d a b sm ds ev => Sys2Proof.Machine.execCpyselL te d a b sm ds ev s
  | .cpyredW te op ty seq d a b sm ds => Sys2Proof.Machine.execCpyredW te op ty seq d a b sm ds s
  | .cpyredL te op ty seq d a b sm ds ev => Sys2Proof.Machine.execCpyredL te op ty seq d a b sm ds ev s
  | .cpyfillW te d a b sm ds => Sys2Proof.Machine.execCpyfillW te d a b sm ds s
  | .cpyfillL te d a b sm ds ev => Sys2Proof.Machine.execCpyfillL te d a b sm ds ev s
  | .li h te d imm => Sys2Proof.Machine.execLi h te d imm s
  | .ldbW te d a off => Sys2Proof.Machine.execLdbW te d a off s
  | .ldbL te d a off => Sys2Proof.Machine.execLdbL te d a off s
  | .ldbuW te d a off => Sys2Proof.Machine.execLdbuW te d a off s
  | .ldbuL te d a off => Sys2Proof.Machine.execLdbuL te d a off s
  | .ldhW te d a off => Sys2Proof.Machine.execLdhW te d a off s
  | .ldhL te d a off => Sys2Proof.Machine.execLdhL te d a off s
  | .ldhuW te d a off => Sys2Proof.Machine.execLdhuW te d a off s
  | .ldhuL te d a off => Sys2Proof.Machine.execLdhuL te d a off s
  | .ldwW te d a off => Sys2Proof.Machine.execLdwW te d a off s
  | .ldwL te d a off => Sys2Proof.Machine.execLdwL te d a off s
  | .ldwuW te d a off => Sys2Proof.Machine.execLdwuW te d a off s
  | .ldwuL te d a off => Sys2Proof.Machine.execLdwuL te d a off s
  | .lddW te d a off => Sys2Proof.Machine.execLddW te d a off s
  | .lddL te d a off => Sys2Proof.Machine.execLddL te d a off s
  | .stbW te a b off => Sys2Proof.Machine.execStbW te a b off s
  | .stbL te a b off => Sys2Proof.Machine.execStbL te a b off s
  | .sthW te a b off => Sys2Proof.Machine.execSthW te a b off s
  | .sthL te a b off => Sys2Proof.Machine.execSthL te a b off s
  | .stwW te a b off => Sys2Proof.Machine.execStwW te a b off s
  | .stwL te a b off => Sys2Proof.Machine.execStwL te a b off s
  | .stdW te a b off => Sys2Proof.Machine.execStdW te a b off s
  | .stdL te a b off => Sys2Proof.Machine.execStdL te a b off s
  | .rldW te c sz d a off => Sys2Proof.Machine.execRldW te c sz d a off s
  | .rldL te c sz d a off => Sys2Proof.Machine.execRldL te c sz d a off s
  | .rstW te c sz a b off => Sys2Proof.Machine.execRstW te c sz a b off s
  | .rstL te c sz a b off => Sys2Proof.Machine.execRstL te c sz a b off s
  | .ramoW te op c sz d a b off => Sys2Proof.Machine.execRamoW te op c sz d a b off s
  | .ramoL te op c sz d a b off => Sys2Proof.Machine.execRamoL te op c sz d a b off s
  | .rcasW te c sz d a b off => Sys2Proof.Machine.execRcasW te c sz d a b off s
  | .rcasL te c sz d a b off => Sys2Proof.Machine.execRcasL te c sz d a b off s
  | .rwimW te c sz a b off sem => Sys2Proof.Machine.execRwimW te c sz a b off sem s
  | .rwimL te c sz a b off sem => Sys2Proof.Machine.execRwimL te c sz a b off sem s
  | .migrateArrival tile slot target => Sys2Proof.Machine.execMigrateArrival tile slot target s
  | .semaphoreServe tile sem => Sys2Proof.Machine.execSemaphoreServe tile sem s
  | .hbmScrubWriteback unit => Sys2Proof.Machine.execHbmScrubWriteback unit s
  | .bankSlotService tile bank => Sys2Proof.Machine.execBankSlotService tile bank s
  | .storeDrain tile => Sys2Proof.Machine.execStoreDrain tile s
  | .bridgeBufferPerform die bank => Sys2Proof.Machine.execBridgeBufferPerform die bank s
  | .messageEntry p => Sys2Proof.Machine.execMessageEntry p s
  | .packetHop p => Sys2Proof.Machine.execPacketHop p s
  | .classOPass sdev stile slot => Sys2Proof.Machine.execClassOPass sdev stile slot s
  | .rldRequest p => Sys2Proof.Machine.execRldRequest p s
  | .rstRequest p => Sys2Proof.Machine.execRstRequest p s
  | .ramoRequest p => Sys2Proof.Machine.execRamoRequest p s
  | .rcasRequest p => Sys2Proof.Machine.execRcasRequest p s
  | .rwimRequest p => Sys2Proof.Machine.execRwimRequest p s
  | .response p => Sys2Proof.Machine.execResponse p s
  | .errorResponse p => Sys2Proof.Machine.execErrorResponse p s
  | .spawnRequest p => Sys2Proof.Machine.execSpawnRequest p s
  | .invokeRequest p => Sys2Proof.Machine.execInvokeRequest p s
  | .waiterRecordArrival p => Sys2Proof.Machine.execWaiterRecordArrival p s
  | .fulfilmentArrival p => Sys2Proof.Machine.execFulfilmentArrival p s
  | .successorCreate p => Sys2Proof.Machine.execSuccessorCreate p s
  | .hgetRequest p => Sys2Proof.Machine.execHgetRequest p s
  | .htestRequest p => Sys2Proof.Machine.execHtestRequest p s
  | .hdropRequest p => Sys2Proof.Machine.execHdropRequest p s
  | .hcancelRequest p => Sys2Proof.Machine.execHcancelRequest p s
  | .locationUpdate p => Sys2Proof.Machine.execLocationUpdate p s
  | .handleBreakArrival p => Sys2Proof.Machine.execHandleBreakArrival p s
  | .alignTimeout cluster ctx pc => Sys2Proof.Machine.execAlignTimeout cluster ctx pc s
  | .bwaitWake tile slot => Sys2Proof.Machine.execBwaitWake tile slot s
  | .bwaitTimeout tile slot => Sys2Proof.Machine.execBwaitTimeout tile slot s
  | .fenceTimeout tile slot => Sys2Proof.Machine.execFenceTimeout tile slot s
  | .wrevokeComplete w => Sys2Proof.Machine.execWrevokeComplete w s
  | .tailraceStart cluster => Sys2Proof.Machine.execTailraceStart cluster s
  | .vredFill cluster => Sys2Proof.Machine.execVredFill cluster s
  | .leaseGrant cluster => Sys2Proof.Machine.execLeaseGrant cluster s
  | .inningsExpiry cluster => Sys2Proof.Machine.execInningsExpiry cluster s
  | .scldComplete cluster k => Sys2Proof.Machine.execScldComplete cluster k s
  | .wldComplete cluster k => Sys2Proof.Machine.execWldComplete cluster k s
  | .mmaComplete cluster k => Sys2Proof.Machine.execMmaComplete cluster k s
  | .cheFoldComplete cluster k => Sys2Proof.Machine.execCheFoldComplete cluster k s
  | .asaveComplete cluster k => Sys2Proof.Machine.execAsaveComplete cluster k s
  | .aloadComplete cluster k => Sys2Proof.Machine.execAloadComplete cluster k s
  | .flumeCommandStart flume => Sys2Proof.Machine.execFlumeCommandStart flume s
  | .flumeRead flume => Sys2Proof.Machine.execFlumeRead flume s
  | .flumePacketLand flume k => Sys2Proof.Machine.execFlumePacketLand flume k s
  | .cpyredApply tile bank => Sys2Proof.Machine.execCpyredApply tile bank s
  | .ringAdmission ctx => Sys2Proof.Machine.execRingAdmission ctx s
  | .excWindowBoundary tile ctx => Sys2Proof.Machine.execExcWindowBoundary tile ctx s
  | .sluiceReplay ctx tile => Sys2Proof.Machine.execSluiceReplay ctx tile s
  | .replayDeliver ctx => Sys2Proof.Machine.execReplayDeliver ctx s
  | .replayDiverge ctx point site => Sys2Proof.Machine.execReplayDiverge ctx point site s
  | .replayEnd ctx => Sys2Proof.Machine.execReplayEnd ctx s
  | .flitSend port => Sys2Proof.Machine.execFlitSend port s
  | .linkDue port => Sys2Proof.Machine.execLinkDue port s
  | .linkCounterExhausted port => Sys2Proof.Machine.execLinkCounterExhausted port s
  | .deviceReset pins => Sys2Proof.Machine.execDeviceReset pins s
  | .dhcpLease ip => Sys2Proof.Machine.execDhcpLease ip s
  | .tftpWriteManifest bytes => Sys2Proof.Machine.execTftpWriteManifest bytes s
  | .tftpWriteImage bytes => Sys2Proof.Machine.execTftpWriteImage bytes s
  | .attestationRequest nonce => Sys2Proof.Machine.execAttestationRequest nonce s
  | .flitReceive port f => Sys2Proof.Machine.execFlitReceive port f s
  | .nakReceive port slot counter => Sys2Proof.Machine.execNakReceive port slot counter s
  | .ackReceive port slot counter => Sys2Proof.Machine.execAckReceive port slot counter s
  | .downNoticeReceive port => Sys2Proof.Machine.execDownNoticeReceive port s
  | .linkAuthDown port => Sys2Proof.Machine.execLinkAuthDown port s
  | .lnkSwitch port => Sys2Proof.Machine.execLnkSwitch port s
  | .keyInstall port rx slot => Sys2Proof.Machine.execKeyInstall port rx slot s
  | .keyErase port rx slot => Sys2Proof.Machine.execKeyErase port rx slot s
  | .fabRtdataWrite v => Sys2Proof.Machine.execFabRtdataWrite v s
  | .elogPop die v => Sys2Proof.Machine.execElogPop die v s
  | .elogStatClear die v => Sys2Proof.Machine.execElogStatClear die v s
  | .hbmErrClear die v => Sys2Proof.Machine.execHbmErrClear die v s
  | .irqStatClear v => Sys2Proof.Machine.execIrqStatClear v s
  | .hbmNrrWrite die v => Sys2Proof.Machine.execHbmNrrWrite die v s
  | .trapGvalWrite tile ctx v => Sys2Proof.Machine.execTrapGvalWrite tile ctx v s
  | .trapConsWrite ctx v => Sys2Proof.Machine.execTrapConsWrite ctx v s
  | .ordConsWrite ctx v => Sys2Proof.Machine.execOrdConsWrite ctx v s
  | .ctxEvecWrite ctx k v => Sys2Proof.Machine.execCtxEvecWrite ctx k v s
  | .pageWalk tile ctx va => Sys2Proof.Machine.execPageWalk tile ctx va s
  | .hbmRowActivate ctl => Sys2Proof.Machine.execHbmRowActivate ctl s
  | .nrrReload ctl => Sys2Proof.Machine.execNrrReload ctl s
  | .ret => Sys2Proof.Machine.execRet s
  | .nop => Sys2Proof.Machine.execNop s
  | .quit => Sys2Proof.Machine.execQuit s
  | .yield => Sys2Proof.Machine.execYield s
  | .recv => Sys2Proof.Machine.execRecv s
  | .lfree => Sys2Proof.Machine.execLfree s
  | .eret => Sys2Proof.Machine.execEret s
  | .wfe => Sys2Proof.Machine.execWfe s
  | .launchStart => Sys2Proof.Machine.execLaunchStart s
  | .irqRecordWrite => Sys2Proof.Machine.execIrqRecordWrite s
  | .dhcpTimeout => Sys2Proof.Machine.execDhcpTimeout s
  | .tftpOtherRequest => Sys2Proof.Machine.execTftpOtherRequest s

end Sys2Proof.Machine
end

