-- ==== Sys2Proof/Machine/Pending.lean ====
section
/-! DEFINITION. When a blocked thread can go on, and the first unit of the device that has work of its own (entry 1). -/

namespace Sys2Proof.Machine
open Sys2Proof

/-! ### Blocked threads -/

/-- A decision admits its contender now. -/
def Decision.admits : Decision → Bool
  | .go _ => true
  | _ => false

/-- The condition for which a blocked thread waits holds, so that it executes its instruction again (R60). A wait that an event ends has none. -/
def State.unblocks (s : State) (tile slot : Nat) (t : Thread) (w : Wait) (since cycle : Nat) : Bool :=
  match w with
  | .regs rs => (t.empties rs).isEmpty
  | .loopTest gc => (t.reg gc).full
  | .fifo => s.fifoRoom tile slot since
  | .unitDrained u => s.unitClear tile slot u
  | .release sc => s.released tile slot sc
  | .fence sc mask _ => s.fenced tile slot sc mask
  | .drained => (s.fifoOf tile slot).isEmpty
  | .migrating => s.settled tile slot t
  | .join tl k inst => !s.alive tl k inst
  | .wfe => t.latch
  | .flumeRoom => (s.flume (flumeOf tile)).queue.length < 32
  | .accessRoom => s.accessRoom tile
  | .tiles ts => (s.cluster (clusterOf tile)).tilesFree ts
  | .tlbinv ctx page => s.tlbClear ctx page since cycle
  | .ctxStop ctx _ begun => s.step5 ctx begun != begun || s.stopped ctx begun
  | .tail granted => granted && (!(t.instr.any Instr.atBanks) || slotClass s.cycle == .tailrace)
  | .oOrder dev => !s.oBehind tile slot dev
  | .site p k => (s.decideAt t.ctx p k (t.contender (tile, slot))).admits
  | .moving _ | .located _ | .sem .. | .recv | .align _ | .bwait .. | .bwoken .. | .wrevoke .. | .htest .. | .hget .. | .bank | .dying => false

/-! ### Units with work -/

/-- A result that changes the state. -/
def State.moved (s : State) (s1 : State) : Option Out := if s1 = s then none else some (.next s1)
def State.movedBy (s : State) : Out → Option Out
  | .next s1 => s.moved s1
  | r => some r

/-- Threads: a killed thread leaves; bounds run out. -/
def State.threadWork (s : State) : Option Out :=
  (s.reapable.map fun (tile, slot, t) => .next (s.reap tile slot t)) <|>
  (s.clusters.findSome? fun (k, c) => (c.align.find? fun e => e.due s.cycle && !(s.ctx e.ctx).state.suspended).map fun e => execAlignTimeout k e.ctx e.pc s) <|>
  (s.tiles.findSome? fun (k, x) => (x.threads.find? fun p => s.bwaitDue p.2.status).map fun p => execBwaitTimeout k p.1 s) <|>
  (s.fenceDue.map fun (tile, slot) => execFenceTimeout tile slot s)

/-- Semaphores with a waiter to serve: at most one each cycle, before what the cycle changes (R81, R82). -/
def State.semWork (s : State) : Option Out :=
  s.tiles.findSome? fun (k, x) => x.threads.findSome? fun p => match p.2.status with
    | .blocked (.sem j _ _) _ _ => s.moved (s.serveSem k j.toNat)
    | _ => none

/-- Receive queues with a waiter to serve. -/
def State.recvWork (s : State) : Option Out :=
  s.tiles.findSome? fun (k, x) => if x.rq.isEmpty || (s.recvWaiters k).isEmpty then none else s.moved (s.serveRecv k)

/-- An arrival that waits at a tile tries again. -/
def State.retryHeld (s : State) : Instr → Option Out
  | .messageEntry p => s.movedBy (execMessageEntry p s)
  | .waiterRecordArrival p => s.movedBy (execWaiterRecordArrival p s)
  | .fulfilmentArrival p => s.movedBy (execFulfilmentArrival p s)
  | _ => none

/-- Arrivals that wait at tiles, the Sluice, and class O requests whose turn it is. -/
def State.arrivalWork (s : State) : Option Out :=
  (s.tiles.findSome? fun (_, x) => x.hold2.findSome? s.retryHeld) <|>
  (s.ctxs.findSome? fun (k, c) => c.sluice.findSome? fun (_, tile, _) =>
    if (s.tile tile).rq.length < 32 then s.moved (s.drainSluice (BitVec.ofNat 6 k) tile (c.sluiceFor tile)) else none) <|>
  ((s.oHold.find? fun p => s.nextO p.oKey == some p).map fun p => execClassOPass p.hdr.sdev p.hdr.stile p.slot s)

/-- What the slot of a bank does. -/
def State.bankWork (s : State) (k : Nat) : Option Out :=
  match (s.bankNext k).2 with
  | some (.red _) => some (execCpyredApply (k / 16) (k % 16) s)
  | some _ => some (execBankSlotService (k / 16) (k % 16) s)
  | none => s.movedBy (execBankSlotService (k / 16) (k % 16) s)

/-- The head of a store FIFO leaves it, or begins to wait for its release. -/
def State.fifoWork (s : State) (k : Nat) (x : Tile) : Option Out :=
  if s.canDrain k || x.fifo.head?.any (fun e => s.headHeld k e && e.relSince.isNone) then some (execStoreDrain k s) else none

/-- Store FIFOs, bridge buffers and banks. -/
def State.memoryWork (s : State) : Option Out :=
  (s.tiles.findSome? fun (k, x) => s.fifoWork k x) <|>
  (s.bridge.findSome? fun b => s.movedBy (execBridgeBufferPerform (dieOf b.tile) (bankOf b.entry.unit) s)) <|>
  (s.banks.findSome? fun (k, q) => if q.isEmpty then none else s.bankWork k) <|>
  (s.dies.findSome? fun (_, d) => d.scrubs.head?.map fun u => execHbmScrubWriteback u s)

/-- The completion of a command of the Millstone that is ready. -/
def State.millWork (s : State) (cl k : Nat) : Option Out :=
  match s.millNow cl k with
  | none => none
  | some q => match q.cmd with
    | .scld .. | .scales .. => some (execScldComplete cl k s)
    | .wld .. => some (execWldComplete cl k s)
    | .mma .. => some (execMmaComplete cl k s)
    | .che .. => if q.started then some (execCheFoldComplete cl k s) else none
    | .asave .. => if q.started then some (execAsaveComplete cl k s) else none
    | .aload .. => if q.started then some (execAloadComplete cl k s) else none
    | .grant => none

/-- Innings, the Millstone and the Tailrace. -/
def State.clusterWork (s : State) : Option Out :=
  s.clusters.findSome? fun (k, c) =>
    (if c.innings.any (fun l => l.cycle + l.budget < s.cycle) then some (execInningsExpiry k s) else none) <|>
    (if c.innings.isNone && !c.grants.isEmpty then s.movedBy (execLeaseGrant k s) else none) <|>
    ((List.range c.queue.length).findSome? fun j => s.millWork k j) <|>
    (if c.vred.isEmpty then none else some (execVredFill k s)) <|>
    (if c.busy ≤ s.cycle && (s.tailNext k).isSome then some (execTailraceStart k s) else none)

/-- The Flumes. -/
def State.flumeWork (s : State) : Option Out :=
  s.flumes.findSome? fun (f, _) =>
    ((List.range (s.flying f).length).findSome? fun k => (s.land f k).map Host.Outcome.next) <|>
    (if (s.nextFlume f).isSome then some (execFlumeCommandStart f s) else none) <|>
    (if (s.reading f).isSome then s.movedBy (execFlumeRead f s) else none)

/-- The dispatcher, windows, exception windows, the interrupt unit, the order log, the HBM generators and the recovery loader. -/
def State.deviceWork (s : State) : Option Out :=
  (s.windowEnds.map fun (tile, ctx) => execExcWindowBoundary tile ctx s) <|>
  (s.ctxs.findSome? fun (k, _) => if s.canAdmit (BitVec.ofNat 6 k) then some (execRingAdmission (BitVec.ofNat 6 k) s) else none) <|>
  (if s.canStart then some (execLaunchStart s) else none) <|>
  (s.windows.findSome? fun (w, x) => if x.state == .revoking && !s.windowBusy w then some (execWrevokeComplete w s) else none) <|>
  (if s.irqReady then some (execIrqRecordWrite s) else none) <|>
  (s.ctxs.findSome? fun (k, c) =>
    let ctx := BitVec.ofNat 6 k
    (if s.canDeliver ctx then some (execReplayDeliver ctx s) else none) <|>
    ((c.sites.find? fun x => s.diverged ctx x).map fun x => execReplayDiverge ctx x.point x.site s) <|>
    (if s.replayOver ctx then some (execReplayEnd ctx s) else none)) <|>
  ((List.range 8).findSome? fun k => if s.nrrDue k then some (execNrrReload k s) else none) <|>
  (if s.dhcpOver then some (execDhcpTimeout s) else none)

/-- The links. -/
def State.linkWork (s : State) : Option Out :=
  s.ports.findSome? fun (k, q) =>
    (if q.sends then some (execFlitSend k s) else none) <|>
    (if (q.tx q.txcur).counter = stopLimit && !q.txDown then some (execLinkCounterExhausted k s) else none) <|>
    (if 8 ≤ q.fails && !q.rxDown then some (execLinkAuthDown k s) else none)

/-- The first unit that has work, and what it does. -/
def State.pending (s : State) : Option Out :=
  s.semWork <|> s.threadWork <|> s.recvWork <|> s.arrivalWork <|> s.memoryWork <|> s.clusterWork <|> s.flumeWork <|> s.deviceWork <|> s.linkWork

/-! ### Outside parties -/

/-- A system core writes a control register of the device, as a tile and a context reach it. -/
def State.coreWrite (s : State) (n : BitVec 14) (tile : Nat) (ctx : BitVec 6) (v : Word) : State := s.writeCtl tile 256 ctx n.toNat v

/-- Firmware on the system cores places a thread in a free firmware slot, as a thread stands at its creation, with the stream of the slot (R27, R237). -/
def State.placeThread (s : State) (tile slot : Nat) (t : Thread) : State :=
  if isFirmware slot && slot < 256 && (s.thread? tile slot).isNone then
    s.allocate tile slot (Thread.create (t.pc.zeroExtend 64) (t.regs.map fun r => fullReg r.val r.poison) t.ctx t.pri (BitVec.ofNat 48 (0x7FFFFFFFFF00 + slot)))
  else s

/-- A structure of the device, not of a tile: the admission queue, a Flume's queue, the window table and the route table (R265). -/
def ofDevice (k : BitVec 8) : Bool := k = 6 || k = 9 || k = 10 || k = 11

/-- The unit that keeps a structure (R264, R265): the sequencer of a tile, a Flume, or the I/O die. DEDUCED (entry 76). -/
def stateUnit (k : BitVec 8) (index tile : Nat) : Nat × BitVec 16 :=
  if k = 6 || k = 10 || k = 11 then (0, logUnit 7 0)
  else if k = 9 then (index / 32, logUnit 2 (index / 32 * 256 + index % 32))
  else (dieOf tile, logUnit 0 tile)

/-- State without a poison form that a save reads (R260). -/
def Flaw.inSave : Flaw → Bool
  | .stateUe k .. => [1, 2, 3, 4, 6, 9].contains k.toNat
  | _ => true

/-- A code word goes bad: what has no poison form is logged as STATE_UE (R260, R265); the rest shows itself at a read. -/
def State.addFlaw (s : State) (f : Flaw) : State :=
  let s1 := if f.inSave then { s with flaws := s.flaws ++ [f] } else s
  match f with
  | .stateUe k j tile => s1.logError (stateUnit k j tile).1 10 (stateUnit k j tile).2 (BitVec.ofNat 48 j)
      (BitVec.ofNat 60 (k.toNat + (if ofDevice k then 0 else tile) * 2 ^ 8))
  | _ => s1

end Sys2Proof.Machine
end

