-- ==== Sys2Proof/Machine/Issue.lean ====
section
/-! DEFINITION. From the Wheel to the instruction: readiness, held boundary events, fetch, decode and issue, and the turns of the agenda. -/

namespace Sys2Proof.Machine
open Sys2Proof

/-! ### Fetch (R32 to R34, R56, R109, R253) -/

/-- What a byte held when a thread started, if it has been written since (R56). -/
def State.byteBefore (s : State) (born a : Nat) : Option Byte :=
  (s.past.find? fun x => born ≤ x.serial && x.unit == a / 8 * 8).bind fun x => x.bytes[a % 8]?

/-- How often a byte has been written since a thread started. -/
def State.writesSince (s : State) (born a : Nat) : Nat :=
  s.past.countP fun x => born ≤ x.serial && x.unit == a / 8 * 8 && x.mask.getLsbD (a % 8)

/-- The words of an instruction: bytes, whether one is poisoned, and their addresses. -/
structure Words where
  bytes : List Byte
  bad : Bool
  addrs : List Nat
  deriving DecidableEq, Repr

/-- Reads one word of an instruction for a thread, as it stands, or as it stood when the thread started. -/
def State.fetchWord (s : State) (w : Issuer) (old : Option Nat) (pc : Pc) : State × Except (BitVec 8) Words :=
  match s.access w .fetch true (pc.zeroExtend 64) with
  | (s1, .error c) => (s1, .error c)
  | (s1, .ok pa) => match s1.readBytes pa 4 with
    | (s2, bs, bad) =>
      let as := (List.range 4).map (pa + ·)
      (s2, .ok ⟨(bs.zip as).map fun (b, a) => (old.bind fun n => s2.byteBefore n a).getD b, bad, as⟩)

/-- Reads n more words from a PC, or finds the cause and the word's address. -/
def State.fetchWords (s : State) (w : Issuer) (old : Option Nat) (pc : Pc) : Nat → State × Except (BitVec 8 × Pc) Words
  | 0 => (s, .ok ⟨[], false, []⟩)
  | n + 1 => match s.fetchWord w old pc with
    | (s1, .error c) => (s1, .error (c, pc))
    | (s1, .ok x) => match s1.fetchWords w old (pc + 4) n with
      | (s2, .error e) => (s2, .error e)
      | (s2, .ok y) => (s2, .ok ⟨x.bytes ++ y.bytes, x.bad || y.bad, x.addrs ++ y.addrs⟩)

/-- Reads the whole instruction at a PC, or finds the cause, the faulting word's address and the length of the instruction in bytes, which is not known
where the first word faults: 4 then, a DESIGN CHOICE (entry 89). -/
def State.fetchAs (s : State) (w : Issuer) (old : Option Nat) (pc : Pc) : State × Except (BitVec 8 × Pc × Nat) Words :=
  match s.fetchWords w old pc 1 with
  | (s1, .error e) => (s1, .error (e.1, e.2, 4))
  | (s1, .ok x) =>
    let n := lengthOf (bytesToNat (x.bytes.take 1))
    match s1.fetchWords w old (pc + 4) (n / 4 - 1) with
    | (s2, .error e) => (s2, .error (e.1, e.2, n))
    | (s2, .ok y) => (s2, .ok ⟨x.bytes ++ y.bytes, x.bad || y.bad, x.addrs ++ y.addrs⟩)

/-- Fetches the whole instruction at a PC for a thread that started at a serial number (R56): as it stands if it has not been written since, else as it
stood at the start; an instruction of which every byte has been written once since may be fetched either way. DESIGN CHOICE (entry 74): one that has
been written in part, or again, is fetched as it stood. -/
def State.fetch (s : State) (w : Issuer) (born : Nat) (pc : Pc) : State × Except (BitVec 8 × Pc × Nat) Words :=
  if s.past.isEmpty then s.fetchAs w none pc
  else match s.fetchAs w (some born) pc with
    | (s1, .error e) => (s1, .error e)
    | (s1, .ok x) => match s1.fetchAs w none pc with
      | (s2, .error _) => (s2, .ok x)
      | (s2, .ok y) =>
        if x.bytes = y.bytes then (s2, .ok y)
        else if y.addrs.all fun a => s2.writesSince born a == 1 then
          ({ s2 with fresh := s2.fresh + 1 }, .ok (if Config.fetchesOld s2.fresh then x else y))
        else (s2, .ok x)

/-- Stops the current thread before the instruction at PC, whose length in bytes is given. -/
def fetchTrap (s : State) (size : Nat) (cause : BitVec 8) (value : Word) : Out :=
  match s.me with
  | some t => .next (s.stopFor s.cur.1 s.cur.2 t (t.before size cause value))
  | none => .refused .noThread

/-! ### Issue -/

/-- A thread that is blocked in an instruction keeps it, so that it is not fetched again (R35). -/
def State.keepInstr (s : State) (tile slot : Nat) (inst : BitVec 8) (i : Instr) : State :=
  match s.thread? tile slot with
  | some t => match t.status with
    | .blocked .. => if t.inst = inst && !t.loopPending then s.setThread tile slot { t with instr := some i } else s
    | _ => s
  | none => s

/-- Runs an instruction for the current thread. -/
def runInstr (s : State) (t : Thread) (i : Instr) : Out :=
  match exec i s with
  | .next s1 => .next (s1.keepInstr s.cur.1 s.cur.2 t.inst i)
  | r => r

/-- Decodes and runs the bytes fetched for the current thread. -/
def runBytes (s : State) (t : Thread) (x : Words) : Out :=
  if x.bad then fetchTrap s x.bytes.length Cause.poison (t.pc.zeroExtend 64)
  else match decode x.bytes with
    | .error _ => fetchTrap s x.bytes.length Cause.illegal (firstBits (bytesToNat x.bytes))
    | .ok (i, _) => runInstr s t i

/-- A held boundary event stops the thread: it stands at a boundary, and no bank or Tailrace is at work for it (R247). -/
def Thread.boundary (t : Thread) : Option Held := match t.status with
  | .blocked .bank _ _ | .blocked (.tail _) _ _ => none
  | _ => firstHeld t.held

/-- The instruction in which the thread is blocked (R35). -/
def Thread.blockedIn (t : Thread) : Option Instr := match t.status with
  | .blocked .. => t.instr
  | _ => none

/-- Issues the instruction of a slot: a held boundary event first, then a pending loop test, then the instruction in which the thread is blocked, else
the instruction at PC. -/
def State.issueSlot (s : State) (tile slot : Nat) : Out :=
  let s := { s with cur := (tile, slot) }
  match s.me with
  | none => .next s
  | some t => match t.status with
    | .stopped _ | .blocked .dying _ _ => .next s
    | _ => match t.boundary with
      | some h => .next (s.takeHeld tile slot t h)
      | none =>
        if t.loopPending then
          match t.loops with
          | e :: rest =>
            let r := { t with status := .ready }.endCheck e rest
            .next (s.afterCheck tile slot r.1 r.2)
          | [] => .next (s.setMe { t with loopPending := false })
        else match t.blockedIn with
          | some i => runInstr s t i
          | none => match s.fetch (s.who t) t.born t.pc with
            | (s1, .error (c, pc, n)) => fetchTrap s1 n c (pc.zeroExtend 64)
            | (s1, .ok x) => runBytes s1 t x

/-! ### The Wheel (R60, R61) -/

/-- Ready(i) of R61: no instruction of the thread is in the pipeline, and nothing holds it (R60). -/
def State.ready (s : State) (tile slot : Nat) (t : Thread) : Bool :=
  s.mayRun tile slot t && t.pipe ≤ s.cycle && match t.status with
    | .ready => true
    | .blocked .dying _ _ => false
    | .blocked w since cycle => t.boundary.isSome || s.unblocks tile slot t w since cycle
    | .stopped _ => false

/-- The effective priority (R61). -/
def Thread.eff (t : Thread) (step : BitVec 16) : Nat := min 7 (t.pri.toNat + t.age / step.toNat)

/-- The thread that the Wheel chooses among the ready ones, in cyclic order from ptr: the first of the highest effective priority, as the algorithm of R61 has
it. A thread of lower base priority can so win a tie before the cycle that R340 names: DEDUCED (entry 93). -/
def wheelBest (step : BitVec 16) : List (Nat × Thread) → Option (Nat × Nat)
  | [] => none
  | (slot, t) :: r => match wheelBest step r with
    | none => some (slot, t.eff step)
    | some (b, e) => if t.eff step < e then some (b, e) else some (slot, t.eff step)

/-- The cycles that an instruction stands in the pipeline (R60). -/
def pipeline : Nat := 8

/-- One cycle of a tile's Wheel; the compute dies stay in reset until an image runs (R268). -/
def State.wheel (s : State) (tile : Nat) : Out :=
  let x := s.tile tile
  let order := x.threads.filter (fun p => x.ptr ≤ p.1) ++ x.threads.filter (fun p => p.1 < x.ptr)
  let ready := order.filter fun p => s.ready tile p.1 p.2
  if s.boot.phase != .running then .next s
  else match wheelBest x.agestep ready with
  | none => .next s
  | some (best, _) =>
    let names := ready.map (·.1)
    let threads := x.threads.map fun (k, t) =>
      (k, if k = best then { t with age := 0, pipe := s.cycle + pipeline } else if names.contains k then { t with age := min (t.age + 1) 0xFFFFF } else t)
    (s.setTile tile { x with threads, ptr := (best + 1) % 256 }).issueSlot tile best

/-! ### Turns -/

/-- An event happens; if it was in flight, it is no longer. -/
def State.happen (s : State) (e : Instr) : Out := exec e { s with inflight := s.inflight.erase e }

/-- The control registers as they stand. -/
def State.shadow (s : State) : Shadow :=
  ⟨s.tiles, s.clusters, s.dies, s.ctxs, s.fabDims, s.fabSelf, s.rtsel, s.routes, s.ports, s.lnkSel, s.irq⟩

/-- A cycle is over, and n have passed: its HCANCELs and its counted events have acted, and the control registers are read as they now stand (R158, R226,
R319). -/
def State.endCycle (s : State) (n : Nat) : State := match s.settleLate.settleEvents with
  | s1 => { s1 with cycle := s.cycle + n, last := s1.shadow }

/-- A turn of the agenda. -/
def Turn.run (u : Turn) (s : State) : Out :=
  match u with
  | .row e => if e.isEvent then s.happen e else .next s
  | .wheel tile => s.wheel tile
  | .tick n => .next (if n = 0 then s else s.endCycle n)
  | .coreStore a bs => if (unitsOf a bs.length).all s.populated then .next (s.writeBytes a bs false) else .fault (.outsideAbsent a)
  | .coreCtl n tile ctx v => .next (s.coreWrite n tile ctx v)
  | .flaw f => .next (s.addFlaw f)
  | .place tile slot t =>
    if s.boot.phase != .running then .next s
    else if s.tileOn tile then .next (s.placeThread tile slot t) else .fault (.outsideAbsent tile)

/-- The next occupied tile at or after the focus. -/
def State.nextTile (s : State) : Option Nat := (s.tiles.find? fun p => s.focus ≤ p.1 && !p.2.threads.isEmpty).map (·.1)

/-- The Wheels of a cycle: one turn of each occupied tile, by number, and then the cycle is over (R61). -/
def State.wheels (s : State) : Out :=
  match s.nextTile with
  | none => .next { s.endCycle 1 with focus := 0 }
  | some t => match s.wheel t with
    | .next s1 => .next { s1 with focus := t + 1 }
    | r => r

/-- The default order: at the start of a cycle the tests of the semaphores, the events in flight and the units with work, then a turn of each occupied tile's Wheel, and then the next
cycle. -/
def State.unattended (s : State) : Out :=
  if s.focus ≠ 0 then s.wheels
  else match s.semWork with
  | some r => r
  | none => match s.inflight with
    | e :: _ => s.happen e
    | [] => match s.pending with
      | some r => r
      | none => s.wheels

/-- One step of the device. -/
def State.stepOnce (s : State) : Out :=
  match s.agenda with
  | u :: us => u.run { s with agenda := us }
  | [] => s.unattended

/-! ### A program placed from outside (entry 16) -/

/-- Where the placed program, its page tables and its thread stand: tile 0, slot 248, context 0. -/
def placedPa : Nat := Config.sramBase
def placedTables : Nat := Config.hbmBase

/-- A thread whose registers are zero and full. -/
def Thread.fresh (pc : Pc) (ctx : BitVec 6) (pri : BitVec 3) (sid : BitVec 48) : Thread := Thread.create (pc.zeroExtend 64) [] ctx pri sid

/-- Bytes placed from outside, in units that are sound. -/
def State.placeBytes (s : State) (pa : Nat) (bs : List Byte) : State :=
  { s.renew (unitsOf pa bs.length) with mem := memWrite s.mem pa bs }

/-- Stands for the load of a program: page tables that map SRAM at its own addresses, the bytes at the PC, a live context and a
ready firmware thread of the highest priority, which the Wheel of the next turn chooses. -/
def State.placeProgram (s : State) (bs : List Byte) : State :=
  let tbl (k : Nat) : Nat := placedTables + 4096 * k
  let s1 := { s with boot := { s.boot with phase := .running }, disabled := setDel s.disabled 0 }
  let s2 := s1.placeBytes placedPa bs
  let s3 := s2.placeBytes (tbl 0) (leBytes (tbl 1 + 1) 8)
  let s4 := s3.placeBytes (tbl 1 + 8 * (placedPa / 2 ^ 30 % 512)) (leBytes (placedPa + 0x1F) 8)
  let s5 := s4.setCtx 0 { s4.ctx 0 with state := .live, ptroot := BitVec.ofNat 64 (tbl 0) }
  let s6 := s5.setTile 0 { s5.tile 0 with tlb := (s5.tile 0).tlb.filter fun e => e.ctx != 0, ptr := 248 }
  let t := { Thread.fresh (BitVec.ofNat 48 placedPa) 0 7 0x7FFFFFFFFFF8 with born := s.serial }
  { s6.setThread 0 248 t with agenda := .wheel 0 :: s.agenda, cur := (0, 248) }

end Sys2Proof.Machine
end

