-- ==== Sys2Proof/Machine/Step.lean ====
section
/-! DEFINITION. The step of the machine, and the placing of one instruction for the step that follows. -/

namespace Sys2Proof.Machine
open Sys2Proof

/-- One step: the agenda's next turn, or the default order when it is empty. -/
def step (s : State) : Host.Outcome State Fault Refusal := s.stepOnce

/-- The state with an instruction placed where the next step fetches: `nbits` bits `w`, and zeros above them (entry 16). -/
def State.withFetchWord (s : State) (nbits w : Nat) : State := s.placeProgram (natToBytes 12 (w % 2 ^ nbits))

end Sys2Proof.Machine
end

