-- ==== Sys2Proof/Safety.lean ====
section
/-! DEFINITION. What the claims call a safe state and a safe run. -/

namespace Sys2Proof.Safety
open Sys2Proof Sys2Proof.Machine

/-- A thread has its sixteen registers (R57). -/
def threadWf (t : Thread) : Bool := t.regs.length == 16

/-- Every thread of the device has its registers. -/
def threadsWf (s : State) : Bool := s.tiles.all fun p => p.2.threads.all fun q => threadWf q.2

/-- A run of the machine that meets no fault and no refusal reaches a state. -/
inductive Reaches : State → State → Prop where
  | refl (s : State) : Reaches s s
  | step {s s1 s2 : State} : Machine.step s = .next s1 → Reaches s1 s2 → Reaches s s2

/-- A step that stops is one the outside world asked for with memory or a tile that does not exist, or an instruction row without a
thread. -/
def Safe (s : State) : Prop := ∃ s', Machine.step s = .next s'

end Sys2Proof.Safety
end

