-- ==== Sys2Proof/Certificates/Slice0/Obligations.lean ====
section
/-! DEFINITION. The statements for the provers. Each says what a part of the spec says of the machine; the words used in them come first. -/

namespace Sys2Proof.Spec
open Sys2Proof Sys2Proof.Machine

/-- The thread whose instruction `exec` runs. -/
abbrev Runs (s : State) (t : Thread) : Prop := s.me = some t
/-- Registers that are full, and registers that are not poisoned. -/
abbrev Full (t : Thread) (rs : List GReg) : Prop := ∀ r ∈ rs, (t.reg r).prod = none
abbrev Clean (t : Thread) (rs : List GReg) : Prop := ∀ r ∈ rs, (t.reg r).poison = false
/-- The thread runs in a firmware slot (R58). -/
abbrev Firmware (s : State) : Prop := 248 ≤ s.cur.2
/-- The instruction answers a next state, in which it has completed in sequence (R33, R67) with thread `t` in state `s1`. -/
abbrev Completes (i : Instr) (s s1 : State) (t : Thread) : Prop := exec i s = .next (s1.retireAt s.cur.1 s.cur.2 t i.size)
/-- The instruction answers a next state in which the thread is stopped by a trap of before kind (R243). -/
abbrev Traps (i : Instr) (s s1 : State) (t : Thread) (cause : BitVec 8) (value : Word) : Prop :=
  exec i s = .next (s1.stopFor s.cur.1 s.cur.2 t (t.before i.size cause value))
/-- Whichever of some registers is poisoned and has the lowest number is named by a POISON trap, before any effect (R253). -/
def Poisons (i : Instr) (s s1 : State) (t : Thread) (rs : List GReg) : Prop :=
  ∀ r ∈ rs, t.pois r = true → (∀ q ∈ rs, t.pois q = true → r ≤ q) → Traps i s s1 t Cause.poison (r.zeroExtend 64)
/-- The instruction answers a next state in which the thread waits and the instruction has had no effect on it (R60). -/
abbrev Waits (i : Instr) (s s1 : State) (t : Thread) (w : Wait) : Prop := exec i s = .next (s1.blockAt s.cur.1 s.cur.2 t w)
/-- The state after the events of some classes have been counted against the current thread (R156). -/
abbrev Counted (s : State) (t : Thread) (cs : List Nat) : State := s.countAll (s.who t) cs

/-- What a load of a size writes for the number its bytes make (R314). -/
def extended (z : LdSize) (v : Nat) : Word :=
  match z with
  | .b => if v < 2 ^ 7 then BitVec.ofNat 64 v else BitVec.ofNat 64 (v + (2 ^ 64 - 2 ^ 8))
  | .h => if v < 2 ^ 15 then BitVec.ofNat 64 v else BitVec.ofNat 64 (v + (2 ^ 64 - 2 ^ 16))
  | .w => if v < 2 ^ 31 then BitVec.ofNat 64 v else BitVec.ofNat 64 (v + (2 ^ 64 - 2 ^ 32))
  | .bu | .hu | .wu | .d => BitVec.ofNat 64 v

/-- The loads by form: size, destination, address register and offset (R314). -/
def loadForm : Instr → Option (LdSize × GReg × Src × Word)
  | .ldb d a o => some (.b, d, a, o.signExtend 64)
  | .ldbu d a o => some (.bu, d, a, o.signExtend 64)
  | .ldh d a o => some (.h, d, a, o.signExtend 64)
  | .ldhu d a o => some (.hu, d, a, o.signExtend 64)
  | .ldw d a o => some (.w, d, a, o.signExtend 64)
  | .ldwu d a o => some (.wu, d, a, o.signExtend 64)
  | .ldd d a o => some (.d, d, a, o.signExtend 64)
  | .ldAcq z _ d a o => some (z, d, a, BitVec.ofNat 64 (o.toNat * z.bytes))
  | .ldbW te d a o => some (.b, d, ⟨a, te⟩, o.signExtend 64)
  | .ldbL te d a o => some (.b, d, ⟨a, te⟩, o.signExtend 64)
  | .ldbuW te d a o => some (.bu, d, ⟨a, te⟩, o.signExtend 64)
  | .ldbuL te d a o => some (.bu, d, ⟨a, te⟩, o.signExtend 64)
  | .ldhW te d a o => some (.h, d, ⟨a, te⟩, o.signExtend 64)
  | .ldhL te d a o => some (.h, d, ⟨a, te⟩, o.signExtend 64)
  | .ldhuW te d a o => some (.hu, d, ⟨a, te⟩, o.signExtend 64)
  | .ldhuL te d a o => some (.hu, d, ⟨a, te⟩, o.signExtend 64)
  | .ldwW te d a o => some (.w, d, ⟨a, te⟩, o.signExtend 64)
  | .ldwL te d a o => some (.w, d, ⟨a, te⟩, o.signExtend 64)
  | .ldwuW te d a o => some (.wu, d, ⟨a, te⟩, o.signExtend 64)
  | .ldwuL te d a o => some (.wu, d, ⟨a, te⟩, o.signExtend 64)
  | .lddW te d a o => some (.d, d, ⟨a, te⟩, o.signExtend 64)
  | .lddL te d a o => some (.d, d, ⟨a, te⟩, o.signExtend 64)
  | _ => none

/-- The stores by form: bytes, address register, data register, offset and the scope of a .rel store (R326). -/
def storeForm : Instr → Option (Nat × Src × Src × Word × Option Scope)
  | .stb a g o => some (1, a, g, o.signExtend 64, none)
  | .sth a g o => some (2, a, g, o.signExtend 64, none)
  | .stw a g o => some (4, a, g, o.signExtend 64, none)
  | .std a g o => some (8, a, g, o.signExtend 64, none)
  | .stRel z sc a g o => some (z.bytes, a, g, BitVec.ofNat 64 (o.toNat * z.bytes), some sc)
  | .stbW te a b o => some (1, ⟨a, te⟩, ⟨b, te⟩, o.signExtend 64, none)
  | .stbL te a b o => some (1, ⟨a, te⟩, ⟨b, te⟩, o.signExtend 64, none)
  | .sthW te a b o => some (2, ⟨a, te⟩, ⟨b, te⟩, o.signExtend 64, none)
  | .sthL te a b o => some (2, ⟨a, te⟩, ⟨b, te⟩, o.signExtend 64, none)
  | .stwW te a b o => some (4, ⟨a, te⟩, ⟨b, te⟩, o.signExtend 64, none)
  | .stwL te a b o => some (4, ⟨a, te⟩, ⟨b, te⟩, o.signExtend 64, none)
  | .stdW te a b o => some (8, ⟨a, te⟩, ⟨b, te⟩, o.signExtend 64, none)
  | .stdL te a b o => some (8, ⟨a, te⟩, ⟨b, te⟩, o.signExtend 64, none)
  | _ => none

/-- A load's result once its value and poison are known: poisoned data poisons gd and counts POISON (R252). -/
def Loaded (i : Instr) (s s1 : State) (t : Thread) (d : GReg) (v : Word) (p : Bool) : Prop :=
  (p = false → Completes i s s1 (t.write d v false)) ∧
  (p = true → ∃ t1, (Counted s1 t [Class.psn]).me = some t1 ∧ Completes i s (Counted s1 t [Class.psn]) (t1.write d v true))

/-- The checks of a thread's access before its effect (R292, R315, R327): alignment, translation and permission, poison of the address
register; `after` is what follows with the physical address. -/
def Checked (i : Instr) (s : State) (t : Thread) (kind : Access3) (a : GReg) (va : Word) (size : Nat) (after : State → Nat → Prop) : Prop :=
  (va.toNat % size ≠ 0 → Traps i s s t Cause.align va) ∧
  (va.toNat % size = 0 → ∀ s1,
    (∀ c, s.access (s.who t) kind false va = (s1, .error c) → ∃ t1, s1.me = some t1 ∧ Traps i s s1 t1 c va) ∧
    (∀ pa, s.access (s.who t) kind false va = (s1, .ok pa) →
      (t.pois a = true → Traps i s s1 t Cause.poison (a.zeroExtend 64)) ∧ (t.pois a = false → after s1 pa)))

/-- R101: whether a request at a bank is the sequencer's: a read or a store of a thread of the bank's own tile. -/
def OwnTile (k : Nat) (r : BankReq) : Prop := match r with
  | .thread tile _ _ op .. => tile = k / 16 ∧ match op with
    | .load .. | .refill _ | .bread .. | .descriptor .. => True
    | _ => False
  | .store tile _ => tile = k / 16
  | _ => False

/-- R101, R102: a bank serves a request of the sequencer's class, or of the mesh-in class, in this cycle at once: the slot is the class's, the bank has served
nothing in it, and no older request of the class waits. -/
def SlotServes (s : State) (own : Prop) (k : Nat) : Prop :=
  ((own ∧ s.cycle % 8 = 2) ∨ (¬own ∧ s.cycle % 8 = 6)) ∧ s.slotUsed k = false ∧ ∀ r ∈ s.bank k, ¬(OwnTile k r ↔ own)

/-- A read of an address by the current thread is served at once. -/
abbrev ServesRead (s : State) (pa : Nat) : Prop := SlotServes s (paTile pa = s.cur.1) (bankOf pa)

/-- The instruction has become a request to the bank of an address, in its queue, and the thread waits for its service (R101, R102). -/
def Asks (i : Instr) (s s1 : State) (t : Thread) (va : Word) (pa : Nat) (op : BankOp) : Prop :=
  let k := bankOf pa
  let r : BankReq := .thread s.cur.1 s.cur.2 t.inst op pa i.size (if op.isBarrier then s1.cycle else s1.arrival k) (s1.pageAt s.cur.1 t.ctx va) s1.serial
  exec i s = .next ((s1.setBank k (enterQueue r (s1.bank k))).tickSerial.blockAt s.cur.1 s.cur.2 { t with instr := some i } .bank)

/-- A site of the order log decides nothing: the log is off, and no contender is left there. -/
abbrev Unlogged (s : State) (ctx : BitVec 6) (point : BitVec 6) (site : BitVec 34) : Prop :=
  (s.ctx ctx).mode = 0 ∧ ((s.ctx ctx).site point site).held = []

/-- The loops of a thread after a taken branch (R68): those whose body does not hold the target are popped, from the innermost. -/
def loopsAfter (t : Thread) (pc : Pc) : List LoopEntry := t.loops.dropWhile fun e => !(e.start ≤ pc && pc < e.endNext)
/-- The thread after a taken branch or jump. -/
def branched (t : Thread) (pc : Pc) : Thread := { t with pc := pc, loops := loopsAfter t pc, icount := t.icount + 1, status := .ready, instr := none }
/-- The thread after a call: PC + 4 is pushed and linked in g15 (R312). -/
def called (t : Thread) (rets : List Pc) (pc : Pc) : Thread :=
  { ({ t with rets := rets ++ [t.pc + 4] } : Thread).write 15 ((t.pc + 4).zeroExtend 64) false with pc := pc, icount := t.icount + 1, status := .ready, instr := none }

/-- The remote accesses by form (R213): what R109 asks of the leaf, class, size, address register, sources, the register read
beside them, offset, destination, whether the operands are poisoned, and what the packet carries for a window offset. -/
structure RemoteForm where
  kind : Access3
  cls : RClass
  sz : AtSize
  a : GReg
  srcs : List GReg
  off : Word
  d : Option GReg
  poison : Thread → Bool
  body : Thread → Nat → Body

def rldForm (c : RClass) (z : AtSize) (d a : GReg) (off : Word) : RemoteForm := ⟨.read, c, z, a, [a], off, some d, fun _ => false, fun _ wo => .load wo z⟩
def rstForm (c : RClass) (z : AtSize) (a b : GReg) (off : Word) : RemoteForm :=
  ⟨.write, c, z, a, [a, b], off, none, fun _ => false, fun t wo => .store wo z (t.val b) (t.pois b)⟩
def ramoForm (op : AmoOp) (c : RClass) (z : AtSize) (d a b : GReg) (off : Word) : RemoteForm :=
  ⟨.both, c, z, a, [a, b], off, some d, fun t => t.pois b, fun t wo => .amo wo z op (t.val b) (t.pois b)⟩
def rcasForm (c : RClass) (z : AtSize) (d a b : GReg) (off : Word) : RemoteForm :=
  ⟨.both, c, z, a, [a, b, d], off, some d, fun t => t.pois b || t.pois d, fun t wo => .cas wo z (t.val d) (t.val b) (t.pois b) (t.pois d)⟩
def rwimForm (c : RClass) (z : AtSize) (a b : GReg) (off : Word) (sem : BitVec 8) : RemoteForm :=
  ⟨.write, c, z, a, [a, b], off, none, fun _ => false, fun t wo => .wim wo z (t.val b) (t.pois b) sem⟩

def remoteForm : Instr → Option RemoteForm
  | .rldW _ c z d a o => some (rldForm c z d a (o.signExtend 64))
  | .rldL _ c z d a o => some (rldForm c z d a (o.signExtend 64))
  | .rstW _ c z a b o => some (rstForm c z a b (o.signExtend 64))
  | .rstL _ c z a b o => some (rstForm c z a b (o.signExtend 64))
  | .ramoW _ op c z d a b o => some (ramoForm op c z d a b (o.signExtend 64))
  | .ramoL _ op c z d a b o => some (ramoForm op c z d a b (o.signExtend 64))
  | .rcasW _ c z d a b o => some (rcasForm c z d a b (o.signExtend 64))
  | .rcasL _ c z d a b o => some (rcasForm c z d a b (o.signExtend 64))
  | .rwimW _ c z a b o sem => some (rwimForm c z a b (o.signExtend 64) sem)
  | .rwimL _ c z a b o sem => some (rwimForm c z a b (o.signExtend 64) sem)
  | _ => none

/-- A request's event at its target, its window offset, bytes and needs (R215). -/
def requestNeeds (p : Packet) : Option (Instr × Nat × Nat × Bool × Bool) :=
  match p.body with
  | .load wo z => some (.rldRequest p, wo, z.bytes, true, false)
  | .store wo z _ _ => some (.rstRequest p, wo, z.bytes, false, true)
  | .amo wo z _ _ _ => some (.ramoRequest p, wo, z.bytes, true, true)
  | .cas wo z _ _ _ _ => some (.rcasRequest p, wo, z.bytes, true, true)
  | .wim wo z _ _ _ => some (.rwimRequest p, wo, z.bytes, false, true)
  | _ => none

/-- The instruction completes and its destination, if it has one, takes a value. -/
def writeTo (t : Thread) (d : Option GReg) (v : Word) : Thread := match d with
  | some d => t.write d v false
  | none => t

/-- R320: the control registers by ranges of numbers, with the privileges of RDCTL and of WRCTL. -/
def controls : List (Nat × Nat × Bool × Bool) :=
  [(0x10, 0x10, false, true), (0x11, 0x11, false, false), (0x20, 0x23, false, true), (0x24, 0x28, true, true), (0x30, 0x30, true, true),
   (0x32, 0x32, true, true), (0x33, 0x33, false, true), (0x38, 0x38, false, true), (0x40, 0x40, false, true), (0x41, 0x43, false, false),
   (0x48, 0x48, false, true), (0x50, 0x5F, false, true), (0x60, 0x60, false, true), (0x61, 0x61, false, false), (0x70, 0x71, true, true),
   (0x80, 0x83, false, true), (0x90, 0x91, false, false), (0x92, 0x92, false, true), (0xA0, 0xA4, true, true), (0xB0, 0xB2, true, true),
   (0xB4, 0xB5, true, true), (0xB8, 0xB8, false, false), (0xBC, 0xBD, true, true), (0xC0, 0xC5, true, true), (0xD1, 0xDB, false, true),
   (0xE0, 0xE7, true, true), (0xF0, 0xF2, true, true)]

/-- Control registers whose fields are all plain, with the mask of their bits: a write is what a read then gives (R7, R93, R106, R147, R203, R206, R224,
R246, R251, R255). -/
def plainControls : List (Nat × Word) :=
  [(0x24, 0x0000FFFFFFFFFF80), (0x26, 0x0000FFFFFFFFFFF9), (0x27, 0x0000FFFFFFFFF000), (0x30, 0x0000FFFFFFFFF000), (0x40, 0xFFFFFFFFFFFFFFFF),
   (0x41, 0x00000000FFFFFFFF), (0x42, 0xFFFFFFFFFFFFFFFF), (0x70, 0x0000FFFFFFFFFF80), (0x80, 0x7FF), (0x81, 0x7FF), (0x82, 0x7FF), (0x92, 0x1FFFF),
   (0xB2, 0xFFFFFFFFFFFFFFFF), (0xB8, 0xFFFFFFFFFFFFFFF8), (0xBC, 0x0000FFFFFFFFF000), (0xBD, 0x000000FFFFFFFFFF)]

/-- The link events that a port has raised in this cycle, with one more: 1 auth, 2 down, 4 rxsw, 8 due (R284, R339). -/
def raises (s : State) (port : Nat) (ev : BitVec 4) : Nat × BitVec 4 :=
  (s.cycle, (if (s.port port).evNow.1 = s.cycle then (s.port port).evNow.2 else 0) ||| ev)
/-- The tiles after the signal of a link event of a port (R284). -/
def signalled (s : State) (port : Nat) : Tab Tile :=
  let q := s.port port
  if s.tileOn q.evTile.toNat then (s.signal q.evTile.toNat q.evSem.toNat 1).tiles else s.tiles

/-- The dies after LINK_AUTH is logged for a port: the counter in the address, port, slot and direction in the syndrome (R265). -/
def authLogged (s : State) (port : Nat) (slot send : Bool) (counter : Word) : Tab Die :=
  (s.logError 0 7 (BitVec.ofNat 16 (5 * 8192 + port)) (counter.truncate 48) (BitVec.ofNat 60 (port + slot.toNat * 16 + send.toNat * 32))).dies

/-- n bytes of a manifest from an offset, little-endian (R269). -/
def manifestAt (m : List Byte) (off n : Nat) : Nat := leNat ((m.drop off).take n)

/-- What R270 asks of a manifest and an image before the ROM runs the image. -/
def Bootable (m image : List Byte) : Prop :=
  let len := manifestAt m 0x10 8
  m.length = 256 ∧ manifestAt m 0 4 = 0x4D584852 ∧ manifestAt m 4 4 = 1 ∧
  Config.rootKeyVerifies (Config.sha512 (m.take 0xC0)) (BitVec.ofNat 512 (manifestAt m 0xC0 64)) = true ∧
  len % 64 = 0 ∧ 64 ≤ len ∧ len ≤ 64 * 2 ^ 20 ∧ manifestAt m 0x1C 4 % 4 = 0 ∧ manifestAt m 0x1C 4 < len ∧
  manifestAt m 0x18 2 = 1500 ∧ manifestAt m 0x1A 2 = 2800 ∧ manifestAt m 0x90 48 = 0 ∧
  (∀ die < 4, ∃ l < 96, (manifestAt m 0x60 48).testBit (96 * die + l) = false) ∧
  Config.sha512 (image.take len) = BitVec.ofNat 512 (manifestAt m 0x20 64)

/-- What the device holds once an image runs: the clusters its manifest disables, the measurement, the clocks and the entry (R268, R273). -/
def Booted (s : State) (m image : List Byte) : Prop :=
  s.boot.phase = .running ∧ s.boot.fwver.toNat = manifestAt m 8 8 ∧
  s.boot.measurement = Config.sha512 (m.take 0xC0 ++ image.take (manifestAt m 0x10 8)) ∧
  s.boot.dclk.toNat = 1500 ∧ s.boot.sclk.toNat = 2800 ∧ s.boot.entry.toNat = manifestAt m 0x1C 4 ∧
  (∀ l, l ∈ s.disabled ↔ l < 384 ∧ (manifestAt m 0x60 48).testBit l = true)

/-! Floating-point values -/

/-- A binary32 code is finite, an infinity, a NaN, a signalling NaN (R133, R134). -/
def isFinite (x : BitVec 32) : Bool := x.toNat % 2 ^ 31 < 0x7F800000
def isInf (x : BitVec 32) : Bool := x.toNat % 2 ^ 31 == 0x7F800000
def isNan (x : BitVec 32) : Bool := 0x7F800000 < x.toNat % 2 ^ 31
def isSig (x : BitVec 32) : Bool := isNan x && !x.getLsbD 22

/-- The magnitude of a code of a format with a fraction of w bits (R134), in units of its smallest subnormal, and, where that is 2^-b, in units of 2^-298. -/
def rawMag (w c : Nat) : Nat := if c < 2 ^ w then c else (2 ^ w + c % 2 ^ w) * 2 ^ (c / 2 ^ w - 1)
def magnitude (w b c : Nat) : Nat := rawMag w c * 2 ^ (298 - b)
/-- The magnitude of a finite binary32 code in units of 2^-149, and its value in units of 2^-298. -/
def magOf (x : BitVec 32) : Nat := rawMag 23 (x.toNat % 2 ^ 31)
def valueOf (x : BitVec 32) : Int := if x.msb then -((magOf x * 2 ^ 149 : Nat) : Int) else ((magOf x * 2 ^ 149 : Nat) : Int)

/-- A mode takes the magnitude of a value of a sign toward zero, or away from it. -/
def toZero (rm : Rm) (neg : Bool) : Bool := match rm with
  | .rtz => true
  | .rdn => !neg
  | .rup => neg
  | .rne | .rna => false
def fromZero (rm : Rm) (neg : Bool) : Bool := match rm with
  | .rdn => neg
  | .rup => !neg
  | _ => false
def toNearest (rm : Rm) : Bool := rm == .rne || rm == .rna

/-- The magnitude code c is a magnitude a, in units of 2^-298, rounded in a mode (R49, R148): `inf` is the code after the largest finite one, and stands for
the power of two that follows it. -/
def Rounds (w b inf : Nat) (rm : Rm) (neg : Bool) (a c : Nat) : Prop :=
  let v := magnitude w b
  c ≤ inf ∧
  (toZero rm neg = true → c < inf ∧ v c ≤ a ∧ (c + 1 < inf → a < v (c + 1))) ∧
  (fromZero rm neg = true → (c = inf ∨ a ≤ v c) ∧ (c = 0 ∨ v (c - 1) < a)) ∧
  (toNearest rm = true →
    (c = 0 ∨ v (c - 1) + v c < 2 * a ∨ (v (c - 1) + v c = 2 * a ∧ (rm = .rna ∨ c % 2 = 0))) ∧
    (c = inf ∨ 2 * a < v c + v (c + 1) ∨ (2 * a = v c + v (c + 1) ∧ rm = .rne ∧ c % 2 = 0)))
/-- The magnitude, rounded as though the exponent range were unbounded, exceeds the largest finite value (R148). -/
def Overflows (w b inf : Nat) (rm : Rm) (neg : Bool) (a : Nat) : Prop :=
  let v := magnitude w b
  (toZero rm neg = true ∧ v inf ≤ a) ∨ (fromZero rm neg = true ∧ v (inf - 1) < a) ∨ (toNearest rm = true ∧ v (inf - 1) + v inf ≤ 2 * a)
/-- Rounded so, it lies below the smallest normal of binary32: tininess after rounding (R148). -/
def Tiny (rm : Rm) (neg : Bool) (a : Nat) : Prop :=
  let n := magnitude 23 149 (2 ^ 23)
  (toZero rm neg = true ∧ a < n) ∨ (fromZero rm neg = true ∧ a + 2 ^ 148 ≤ n) ∨ (toNearest rm = true ∧ a + 2 ^ 147 < n)
/-- An exact result q, in units of 2^-298, is delivered in binary32 with its events (R148); an exact zero has the sign given. -/
def Delivers (rm : Rm) (q : Int) (zeroNeg : Bool) (out : BitVec 32 × List Nat) : Prop :=
  let neg := decide (q < 0)
  let a := q.natAbs
  (q = 0 → out = (if zeroNeg then 0x80000000 else 0, [])) ∧
  (q ≠ 0 → ∃ c, Rounds 23 149 0x7F800000 rm neg a c ∧ out.1.toNat = (if neg then 2 ^ 31 else 0) + c ∧
    (Overflows 23 149 0x7F800000 rm neg a → out.2 = [Class.ovf]) ∧
    (¬Overflows 23 149 0x7F800000 rm neg a → (Tiny rm neg a ∧ magnitude 23 149 c ≠ a → out.2 = [Class.unf]) ∧
      (¬(Tiny rm neg a ∧ magnitude 23 149 c ≠ a) → out.2 = [])))

/-! Vector instructions -/

/-- The lane that a modifier reads for a lane (R39), and log2 of its segment. -/
def modLane (m : SrcMod) (j : Nat) : Nat := match m with
  | .none => j
  | .rot g d => j - j % 2 ^ g.toNat + (j % 2 ^ g.toNat + d.toNat) % 2 ^ g.toNat
  | .bfly _ d => j ^^^ 2 ^ d.toNat
  | .bcast g d => j - j % 2 ^ g.toNat + d.toNat
def segOf : SrcMod → Nat
  | .none => 0
  | .rot g _ | .bfly g _ | .bcast g _ => g.toNat

/-- Bits and number of the lanes of a tile, their format, and a lane of a row (R181). -/
def laneWidth (ty : TileTy) : Nat := if ty = .bf16 then 16 else 32
def laneTotal (ty : TileTy) : Nat := if ty = .bf16 then 512 else 256
def laneFormat (ty : TileTy) : Fp.Fmt := if ty = .bf16 then Fp.bf16 else Fp.f32
def laneAt (ty : TileTy) (row : BitVec 8192) (j : Nat) : Nat := (row.extractLsb' (laneWidth ty * j) (laneWidth ty)).toNat

/-- The vector operands in the order OD, OA, OB, with their modifiers (R331, R332). -/
def vectorOps : Instr → Option (List (VRow × SrcMod))
  | .vadd d a b ma mb | .vsub d a b ma mb | .vmul d a b ma mb | .vfma d a b ma mb | .vmin d a b ma mb | .vmax d a b ma mb
  | .vminm d a b ma mb | .vmaxm d a b ma mb | .vcmp _ d a b ma mb | .vsel d a b ma mb | .vdot d a b ma mb | .viadd d a b ma mb
  | .vand d a b ma mb | .vor d a b ma mb | .vxor d a b ma mb | .vshl d a b ma mb | .vshr _ d a b ma mb => some [(d, .none), (a, ma), (b, mb)]
  | .vabs d a ma | .vneg d a ma | .vexp2 d a ma | .vlog2 d a ma | .vrcp d a ma | .vrsq d a ma | .vtanh d a ma | .vcvt _ d a ma
  | .vqnt _ _ d a ma _ | .vmov d a ma | .vscl _ d a ma _ => some [(d, .none), (a, ma)]
  | .vbc _ d _ | .vld _ d _ _ => some [(d, .none)]
  | .vred _ _ a ma => some [(a, ma)]
  | .vst _ _ _ b mb => some [(b, mb)]
  | _ => none
/-- The g registers of a vector instruction. -/
def vectorRegs : Instr → List GReg
  | .vbc _ _ b | .vscl _ _ _ _ b => [b]
  | .vld _ _ a _ | .vst _ a _ _ _ => [a]
  | .vred _ d _ _ => [d]
  | _ => []
/-- The tile that a type check names (R182). -/
def offends (i : Instr) (l : List (BitVec 3 × TileTy)) : Option (BitVec 3) :=
  match i, l with
  | .vcvt .., [(k, d), (_, a)] => if (d = .bf16 ∧ a = .int32) ∨ (d = .int32 ∧ a = .bf16) then some k else none
  | .vqnt .., [_, (k, a)] => if a = .fp32 then none else some k
  | _, [] => none
  | _, (k, ty) :: r =>
    let accepted : Bool := match i with
      | .vexp2 .. | .vlog2 .. | .vrcp .. | .vrsq .. | .vtanh .. => ty != .int32
      | .vdot .. => ty == .int32
      | _ => true
    if accepted then (r.find? fun x => x.2 != ty).map (·.1) else some k
/-- The FP32 row of a pairing VCVT is odd (R188). -/
def oddRow (s : State) (i : Instr) : Bool := match i with
  | .vcvt _ d a _ => (s.vty a == .fp32 && s.vty d == .bf16 && a.row.toNat % 2 == 1) || (s.vty a == .bf16 && s.vty d == .fp32 && d.row.toNat % 2 == 1)
  | _ => false

/-- One lane of an element-wise instruction (R155, R186, R187, R189): the destination's old lane, the modified sources, a register's value; its result and
the events it counts. -/
def laneResult (i : Instr) (ty : TileTy) (g d a b : Nat) : Option (Nat × List Nat) :=
  let f := laneFormat ty
  let w := laneWidth ty
  let int (x : Nat) : Int := (BitVec.ofNat 32 x).toInt
  let fp (x : Nat) : Fp.V := f.decode x
  let pick (max : Bool) : Nat := if (decide (int a < int b)) = max then b else a
  let byte (x k : Nat) : Int := (BitVec.ofNat 8 (x / 2 ^ (8 * k))).toInt
  let special (lane : BitVec 32 → Nat × List Nat) : Nat × List Nat :=
    if ty = .bf16 then
      let r := lane (BitVec.ofNat 32 (a * 2 ^ 16))
      let q := Fp.bf16.narrow .rne (Fp.f32.decode r.1)
      (q.1, r.2 ++ q.2)
    else lane (BitVec.ofNat 32 a)
  match i with
  | .vadd .. => some (if ty = .int32 then ((a + b) % 2 ^ 32, []) else f.add .rne (fp a) (fp b))
  | .vsub .. => some (if ty = .int32 then ((a + 2 ^ 32 - b) % 2 ^ 32, []) else f.add .rne (fp a) (fp b).neg)
  | .vmul .. => some (if ty = .int32 then (a * b % 2 ^ 32, []) else f.mul .rne (fp a) (fp b))
  | .vfma .. => some (if ty = .int32 then ((d + a * b) % 2 ^ 32, []) else f.fma .rne (fp a) (fp b) (fp d))
  | .vmin .. => some (if ty = .int32 then (pick false, []) else Fp.minMaxNum f false a b)
  | .vmax .. => some (if ty = .int32 then (pick true, []) else Fp.minMaxNum f true a b)
  | .vminm .. => some (if ty = .int32 then (pick false, []) else Fp.minMax f false a b)
  | .vmaxm .. => some (if ty = .int32 then (pick true, []) else Fp.minMax f true a b)
  | .vabs .. => some (if ty = .int32 then ((BitVec.ofInt 32 (int a).natAbs).toNat, []) else if (fp a).isNan then (f.nanCode, []) else (a % 2 ^ (w - 1), []))
  | .vneg .. => some (if ty = .int32 then ((BitVec.ofInt 32 (-int a)).toNat, []) else if (fp a).isNan then (f.nanCode, []) else ((a + 2 ^ (w - 1)) % 2 ^ w, []))
  | .vcmp c .. =>
    let h : Bool := if ty = .int32 then (match c with
      | .eq => decide (int a = int b)
      | .ne => decide (int a ≠ int b)
      | .lt => decide (int a < int b)
      | .le => decide (int a ≤ int b)
      | .gt => decide (int b < int a)
      | .ge => decide (int b ≤ int a)
      | .un => false
      | .ord => true) else Fp.holds f c a b
    some (if h then 2 ^ w - 1 else 0, if ty ≠ .int32 && Fp.cmpInvalid f c a b then [Class.inv] else [])
  | .vsel .. => some ((d &&& a) ||| ((2 ^ w - 1 - d) &&& b), [])
  | .vexp2 .. => some (special Fp.exp2Lane)
  | .vlog2 .. => some (special Fp.log2Lane)
  | .vrcp .. => some (special Fp.rcpLane)
  | .vrsq .. => some (special Fp.rsqLane)
  | .vtanh .. => some (special Fp.tanhLane)
  | .vdot .. =>
    let t := int d + byte a 0 * byte b 0 + byte a 1 * byte b 1 + byte a 2 * byte b 2 + byte a 3 * byte b 3
    some (if 2 ^ 31 - 1 < t then (2 ^ 31 - 1, [Class.sat]) else if t < -(2 ^ 31) then (2 ^ 31, [Class.sat]) else ((BitVec.ofInt 32 t).toNat, []))
  | .vbc .. => some (g % 2 ^ w, [])
  | .vmov .. => some (a, [])
  | .vscl .. => some (if ty = .int32 then (a * (g % 2 ^ 32) % 2 ^ 32, []) else f.mul .rne (fp a) (Fp.f32.decode (g % 2 ^ 32)))
  | .viadd .. => some ((a + b) % 2 ^ w, [])
  | .vand .. => some (a &&& b, [])
  | .vor .. => some (a ||| b, [])
  | .vxor .. => some (a ^^^ b, [])
  | .vshl .. => some (a * 2 ^ (b % w) % 2 ^ w, [])
  | .vshr arith .. => some (if arith && a.testBit (w - 1) then 2 ^ w - 1 - (2 ^ w - 1 - a) / 2 ^ (b % w) else a / 2 ^ (b % w), [])
  | _ => none

/-- The destination is read as a source (R332). -/
def readsDest : Instr → Bool
  | .vfma .. | .vsel .. | .vdot .. => true
  | _ => false

/-- A vector instruction has its turn at the Tailrace: the turn has come, or it comes in the cycle of issue, when nothing can precede it (R184). -/
def Turn (s : State) (t : Thread) : Prop :=
  (∃ n c, t.status = .blocked (.tail true) n c) ∨
    ((∀ g n c, t.status ≠ .blocked (.tail g) n c) ∧ s.tailFree (clusterOf s.cur.1) = true)

/-- The cycles for which a vector instruction occupies the Tailrace (R184, R188): one, or two for a conversion that pairs rows. -/
def turnCycles (s : State) : Instr → Nat
  | .vcvt _ d a _ => if (s.vty a = .fp32 ∧ s.vty d = .bf16) ∨ (s.vty a = .bf16 ∧ s.vty d = .fp32) then 2 else 1
  | _ => 1

/-- The thread has issued a vector instruction that it will run to its end, and waits in it, with what it has sampled at issue (R147, R192, R334, R335). -/
def inTail (s : State) (t : Thread) (i : Instr) : Thread := { t with instr := some i, leased := s.leasedAtIssue t, sampled := some (s.sample t) }

/-- Without its turn a vector instruction waits for it, behind the older ones of its tile (R184). -/
def WaitsTurn (i : Instr) (s s1 : State) (t : Thread) (n : Nat) : Prop :=
  let cl := clusterOf s.cur.1
  let c := s1.cluster cl
  ((∃ k c, t.status = .blocked (.tail false) k c) → Waits i s s1 (inTail s1 t i) (.tail false)) ∧
  ((∀ g k c, t.status ≠ .blocked (.tail g) k c) → s1.tailFree cl = false →
    Waits i s (s1.setCluster cl { c with vreqs := c.vreqs ++ [.turn s.cur.1 s.cur.2 t.inst n s1.cycle] }) (inTail s1 t i) (.tail false))

/-- A vector instruction completes: the rows that `f` names are written with their poison, no other row and no owner or type of a tile changes, its tile is
the requester last served, for its cycles the Tailrace is occupied, and the events of the classes are counted before the next instruction. -/
def RowsWritten (i : Instr) (s s1 : State) (t : Thread) (cs : List Nat) (f : VRow → Option (BitVec 8192 × Bool)) : Prop :=
  ∃ (x : Cluster) (t1 : Thread),
    let cl := clusterOf s.cur.1
    let y := s1.cluster cl
    let s2 := Counted (s1.setCluster cl x) t cs
    ((∃ n c, t.status = .blocked (.tail true) n c) → x = { y with acc := x.acc }) ∧
    ((∀ g n c, t.status ≠ .blocked (.tail g) n c) → x = { y with acc := x.acc, busy := s.cycle + turnCycles s i, lastServed := s.cur.1 % 4 }) ∧
    (∀ k, (x.tileOf k).owner = (y.tileOf k).owner ∧ (x.tileOf k).ty = (y.tileOf k).ty) ∧
    (∀ v : VRow, (x.tileOf v.tile).row v.row.toNat = ((f v).map (·.1)).getD ((y.tileOf v.tile).row v.row.toNat) ∧
      (x.tileOf v.tile).poison.getLsbD v.row.toNat = ((f v).map (·.2)).getD ((y.tileOf v.tile).poison.getLsbD v.row.toNat)) ∧
    s2.me = some t1 ∧ Completes i s s2 t1

/-- One lane converted between tile types (R149, R188): the code and the events. -/
def convLane (rm : Rm) : TileTy → TileTy → Nat → Nat × List Nat
  | .fp32, .bf16, a => Fp.bf16.narrow rm (Fp.f32.decode a)
  | .bf16, .fp32, a => match Fp.bf16.decode a with
    | .nan sig => (0x7FC00000, if sig then [Class.inv] else [])
    | _ => (a * 2 ^ 16, [])
  | .fp32, .int32, a => match Fp.f32.decode a with
    | .nan _ => (0, [Class.inv])
    | .inf n => (if n then 2 ^ 31 else 2 ^ 31 - 1, [Class.inv])
    | .fin n m e =>
      let q := (Fp.roundTo rm n m e 0).1
      if n then (if 2 ^ 31 < q then (2 ^ 31, [Class.inv]) else ((2 ^ 32 - q) % 2 ^ 32, []))
      else (if 2 ^ 31 ≤ q then (2 ^ 31 - 1, [Class.inv]) else (q, []))
  | .int32, .fp32, a => Fp.f32.arith rm (.fin (decide (2 ^ 31 ≤ a)) (if 2 ^ 31 ≤ a then 2 ^ 32 - a else a) 0)
  | _, _, a => (a, [])

/-- The row after one, within its tile. -/
def below (v : VRow) : VRow := { v with row := v.row + 1 }

/-- The checks of R333 pass for a vector instruction, and no command is pending on its tiles. -/
def Vectorable (s : State) (t : Thread) (i : Instr) : Prop :=
  ∃ ops, vectorOps i = some ops ∧ Full t (vectorRegs i) ∧ offends i (ops.map fun o => (o.1.tile, s.vty o.1)) = none ∧ oddRow s i = false ∧
    ∀ o ∈ ops, (s.accTile o.1.tile).owner = some (s.cur.1, s.cur.2, t.inst) ∧ 2 ^ segOf o.2 ≤ laneTotal (s.vty o.1) ∧
      (s.cluster (clusterOf s.cur.1)).tilePending o.1.tile = false

/-! Millstone commands -/

/-- The checks every counted command makes first (R163): an innings, and for SCLD and WLD enough commands left for the open chain. -/
def CountedChecks (i : Instr) (s : State) (t : Thread) (opcode : Nat) (loads : Bool) (after : Lease → Prop) : Prop :=
  let chain := (s.cluster (clusterOf s.cur.1)).chain
  (s.innings s.cur.1 s.cur.2 t = none → Traps i s s t Cause.noLease (BitVec.ofNat 64 opcode)) ∧
  (∀ l, s.innings s.cur.1 s.cur.2 t = some l →
    (∀ ch, chain = some ch → loads = true → l.cmds - 1 < ch.expect - ch.issued + 1 →
      Traps i s s t Cause.chainOpen (BitVec.ofNat 64 (8 * 2 ^ 48 + ch.pc.toNat))) ∧
    ((loads = true → ∀ ch, chain = some ch → ch.expect - ch.issued + 1 ≤ l.cmds - 1) → after l))

/-- The checks of a range of bytes that a command names (R160), then poison of its registers, the lowest of which is named. -/
def RangeChecks (i : Instr) (s : State) (t : Thread) (kind : Access3) (va : Word) (n : Nat) (regs : List GReg) (after : State → Span → Prop) : Prop :=
  ∀ s1,
    (∀ c v, s.span (s.who t) kind (n / 65536 + 2) va n = (s1, .error (c, v)) → ∃ t1, s1.me = some t1 ∧ Traps i s s1 t1 c v) ∧
    (∀ sp, s.span (s.who t) kind (n / 65536 + 2) va n = (s1, .ok sp) →
      (∀ r ∈ regs, t.pois r = true → (∀ q ∈ regs, t.pois q = true → r ≤ q) → Traps i s s1 t Cause.poison (r.zeroExtend 64)) ∧
      (Clean t regs → after s1 sp))

/-- A counted command is accepted and queued (R163, R172): one command fewer is left, and the innings ends with its last. -/
def Accepts (i : Instr) (s s1 : State) (t : Thread) (l : Lease) (cmd : MillCmd) (chain : Option Chain) : Prop := ∃ pages,
  let cl := clusterOf s.cur.1
  let c := s1.cluster cl
  let c1 : Cluster := { c with innings := if l.cmds ≤ 1 then none else some { l with cmds := l.cmds - 1 }, chain }
  Completes i s (s1.setCluster cl (c1.push cmd (s1.who t) pages)) t

/-- A span reads bytes that are sound, as they stand in memory. -/
def Sound (s : State) (sp : Span) (n : Nat) : Prop := s.flaws = [] ∧ ∀ k < n, s.isPoisoned (Span.at sp k) = false
/-- Byte k of a span. -/
def spanByte (s : State) (sp : Span) (k : Nat) : Byte := s.byte (Span.at sp k)
/-- Bytes of a span as a number, least significant first. -/
def spanNat (s : State) (sp : Span) (k n : Nat) : Nat := leNat ((List.range n).map fun j => spanByte s sp (k + j))

/-- A byte of scale memory, and whether its line is poisoned. -/
def scaleAt (c : Cluster) (b : Nat) : Nat := (Tab.get (0 : BitVec 512) c.scale (b / 64 % 1024)).toNat / 2 ^ (8 * (b % 64)) % 256
def scaleUnsound (c : Cluster) (b : Nat) : Prop := Tab.get false c.scalePoison (b / 64 % 1024) = true
/-- An E4M3 code as a multiple of 2^-9, or none for NaN (R134). -/
def e4m3Value (c : Nat) : Option Int :=
  if c % 128 = 127 then none else some (if c / 128 % 2 = 1 then -(rawMag 3 (c % 128) : Int) else (rawMag 3 (c % 128) : Int))
/-- A BF16 code as a multiple of 2^-133, or none for NaN and infinity (R134). -/
def bf16Value (c : Nat) : Option Int :=
  if 0x7F80 ≤ c % 2 ^ 15 then none else some (if c / 2 ^ 15 % 2 = 1 then -(rawMag 7 (c % 2 ^ 15) : Int) else (rawMag 7 (c % 2 ^ 15) : Int))
/-- Element k of column j of a scaled weight image as a multiple of 2^-18 (R136, R137, R139, R169, R170): `str` is the column's bytes as a number. -/
def weightOf (c : Cluster) (f : WFmt) (soff zoff j str k : Nat) : Option Int :=
  let g := 256 * (k / 32) + j
  let z := scaleAt c (16 * zoff + g / 2) / (if g % 2 = 0 then 1 else 16)
  let sg := e4m3Value (scaleAt c (16 * soff + g))
  match f with
  | .int3 => sg.map fun x => (((str / 2 ^ (3 * k) % 8 : Nat) : Int) - ((z % 8 : Nat) : Int)) * x * 2 ^ 9
  | .int4 => sg.map fun x => (((str / 2 ^ (4 * k) % 16 : Nat) : Int) - ((z % 16 : Nat) : Int)) * x * 2 ^ 9
  | .e4m3 => (e4m3Value (str / 2 ^ (8 * k) % 256)).bind fun q => sg.map fun x => q * x
  | .bf16 => none
/-- The magnitude code c is an exact magnitude a, in units of 2^-(298 + sh), rounded to binary32 by RNE (R141, R148). -/
def NearestEven (sh a c : Nat) : Prop :=
  let v (k : Nat) : Nat := magnitude 23 149 k * 2 ^ sh
  c ≤ 0x7F800000 ∧ (c = 0 ∨ v (c - 1) + v c < 2 * a ∨ (v (c - 1) + v c = 2 * a ∧ c % 2 = 0)) ∧
    (c = 0x7F800000 ∨ 2 * a < v c + v (c + 1) ∨ (2 * a = v c + v (c + 1) ∧ c % 2 = 0))
/-- An exact product of a sign and a magnitude is delivered at the end of a chain (R141): a zero is +0; overflow and underflow are counted. -/
def ChainDelivers (sh : Nat) (neg : Bool) (a : Nat) (out : BitVec 32 × List Nat) : Prop :=
  let v (k : Nat) : Nat := magnitude 23 149 k * 2 ^ sh
  (a = 0 → out = (0, [])) ∧
  (a ≠ 0 → ∃ c, NearestEven sh a c ∧ out.1.toNat = (if neg then 2 ^ 31 else 0) + c ∧
    (v 0x7F7FFFFF + v 0x7F800000 ≤ 2 * a → out.2 = [Class.ovf]) ∧
    (2 * a < v 0x7F7FFFFF + v 0x7F800000 → ((a + 2 ^ 147 * 2 ^ sh < v (2 ^ 23) ∧ v c ≠ a) → out.2 = [Class.unf]) ∧
      (¬(a + 2 ^ 147 * 2 ^ sh < v (2 ^ 23) ∧ v c ≠ a) → out.2 = [])))

/-! Flume commands -/

/-- The Flume commands by form (R196): what is moved, destination, source or pattern, length or descriptor, s, ds and the event bit. -/
def flumeForm : Instr → Option (FKind × GReg × GReg × GReg × BitVec 8 × Option (BitVec 8) × Option (BitVec 8))
  | .cpyW _ d a b s ds => some (.cpy, d, a, b, s, ds, none)
  | .cpyL _ d a b s ds e => some (.cpy, d, a, b, s, ds, some e)
  | .cpysW _ d a b s ds => some (.cpys, d, a, b, s, ds, none)
  | .cpysL _ d a b s ds e => some (.cpys, d, a, b, s, ds, some e)
  | .cpyselW _ d a b s ds => some (.cpysel, d, a, b, s, ds, none)
  | .cpyselL _ d a b s ds e => some (.cpysel, d, a, b, s, ds, some e)
  | .cpyredW _ op ty q d a b s ds => some (.red op ty q, d, a, b, s, ds, none)
  | .cpyredL _ op ty q d a b s ds e => some (.red op ty q, d, a, b, s, ds, some e)
  | .cpyfillW _ d a b s ds => some (.fill, d, a, b, s, ds, none)
  | .cpyfillL _ d a b s ds e => some (.fill, d, a, b, s, ds, some e)
  | _ => none

/-- The fields of a descriptor are in range (R200, R201). -/
def Describes (kind : FKind) (bs : List Byte) : Prop :=
  let u (off : Nat) : Nat := manifestAt bs off 4
  let x (off : Nat) : Nat := manifestAt bs off 8
  match kind with
  | .cpys => u 0 % 8 = 0 ∧ 8 ≤ u 0 ∧ u 0 ≤ 2 ^ 24 ∧ 1 ≤ u 4 ∧ u 4 ≤ 65536 ∧ 1 ≤ u 8 ∧ u 8 ≤ 65536 ∧ u 0x0C = 0 ∧
      x 0x10 % 8 = 0 ∧ x 0x18 % 8 = 0 ∧ x 0x20 % 8 = 0 ∧ x 0x28 % 8 = 0 ∧ manifestAt bs 0x30 16 = 0
  | _ => u 0 % 64 = 0 ∧ 64 ≤ u 0 ∧ u 0 ≤ 65536 ∧ 1 ≤ u 4 ∧ u 4 ≤ 65536 ∧ x 8 % 8 = 0 ∧ u 0x10 ≤ 2 ∧ u 0x14 = 0 ∧
      x 0x18 % 64 = 0 ∧ x 0x20 % 64 = 0 ∧ manifestAt bs 0x30 16 = 0

/-- Run j of a command (R199 to R201): the address it is read from, unless a pattern is laid, and the address it is written to; with the selected rows. -/
def runAt (k : FCmd) (rows : List Nat) (j : Nat) : Option Word × Word :=
  let x (off : Nat) : Word := BitVec.ofNat 64 (manifestAt k.desc off 8)
  let n (v : Nat) : Word := BitVec.ofNat 64 v
  match k.kind with
  | .cpy | .red .. => (some k.src, k.dst)
  | .fill => (none, k.dst)
  | .cpys =>
    let n1 := manifestAt k.desc 4 4
    (some (k.src + n (j / n1) * x 0x18 + n (j % n1) * x 0x10), k.dst + n (j / n1) * x 0x28 + n (j % n1) * x 0x20)
  | .cpysel =>
    let i := rows.getD j 0
    match manifestAt k.desc 0x10 4 with
    | 0 => (some (k.src + n i * x 0x18), k.dst + n j * x 0x20)
    | 2 => (none, k.dst + n i * x 0x20)
    | _ => (some (k.src + n j * x 0x18), k.dst + n i * x 0x20)
/-- The bytes of a run, the bytes of the command, and the pattern. -/
def runBytes (k : FCmd) : Nat := match k.kind with
  | .cpys | .cpysel => manifestAt k.desc 0 4
  | _ => k.len
def commandBytes (k : FCmd) (rows : List Nat) : Nat := match k.kind with
  | .cpysel => min k.len rows.length * manifestAt k.desc 0 4
  | _ => k.len
def patternOf (k : FCmd) : Word := match k.kind with
  | .cpysel => BitVec.ofNat 64 (manifestAt k.desc 0x28 8)
  | _ => k.src
/-- A reduction in memory. -/
def reduces (k : FCmd) : Bool := match k.kind with
  | .red .. => true
  | _ => false

/-- A semaphore's count after n more signals (R78). -/
def Bumped (x y : Sem) (n : Nat) : Prop := y.count.toNat = min (2 ^ 24 - 1) (x.count.toNat + n)

/-- What n signals of a step from `s` to `s1` do to a semaphore: they are added, unless an SSET of the same cycle wins (R78, R82). -/
def Signalled (s s1 : State) (tile k n : Nat) : Prop :=
  ((s.sem tile k).setAt ≠ some s.cycle → Bumped (s.sem tile k) (s1.sem tile k) n) ∧
  ((s.sem tile k).setAt = some s.cycle → (s1.sem tile k).count = (s.sem tile k).count)

/-- A command that stopped and whose packets have all landed ends with SignalErr and a restart record (R41, R197, R203): from `s` to `s1`. -/
def Recorded (s s1 : State) (f : Nat) (r : FRun) (cause : BitVec 8) (va : Word) : Prop :=
  let k := r.cmd
  let c := s.ctx k.who.ctx
  let c1 := s1.ctx k.who.ctx
  let base := c.rrBase.toNat % 2 ^ 48 / 128 * 128
  let n := 2 ^ c.rrLog.toNat
  let cons : BitVec 32 := BitVec.ofNat 32 (leNat (memRead s.mem base 8))
  let room := s.populated base = true ∧ s.populated (base + 128 * n - 1) = true ∧ (c.rrProd - cons).toNat < n - 1
  let at_ := base + 128 * (1 + c.rrProd.toNat % (n - 1))
  let get (off len : Nat) : Nat := leNat (memRead s1.mem (at_ + off) len)
  let word : BitVec 256 := BitVec.ofNat 256 (get 0 32)
  let rows := (r.sel.map (·.length)).getD k.len
  let progress := match k.kind with | .cpysel => r.pos / runBytes k | _ => r.pos
  (s1.sem k.who.tile k.s.toNat).err = true ∧ Bumped (s.sem k.who.tile k.s.toNat) (s1.sem k.who.tile k.s.toNat) 0 ∧
  (∀ y ∈ (s1.flume f).runs, y.number ≠ r.number) ∧
  (¬room → s1.mem = s.mem ∧ c1.rrProd = c.rrProd ∧ c1.rrLost.toNat = min 0xFFFF (c.rrLost.toNat + 1)) ∧
  (room → k.desc.length = (if k.kind = .cpys ∨ k.kind = .cpysel then 64 else 0) → Memory.wf s.mem = true →
    c1.rrProd = c.rrProd + 1 ∧ c1.rrLost = c.rrLost ∧ (∀ q, (q < at_ ∨ at_ + 128 ≤ q) → s1.byte q = s.byte q) ∧
    word.extractLsb' 0 8 = (match k.kind with | .cpy => 0x60 | .cpys => 0x61 | .cpysel => 0x62 | .red .. => 0x63 | .fill => 0x64) ∧
    word.extractLsb' 8 1 = BitVec.ofBool k.ds.isSome ∧
    word.extractLsb' 9 5 = (match k.kind with
      | .red op ty seq =>
        (match ty with | .fp32 => (0 : BitVec 2) | .bf16 => 1 | .int32 => 2) ++ (match op with | .add => (0 : BitVec 2) | .min => 1 | .max => 2) ++ BitVec.ofBool seq
      | _ => 0) ∧
    word.extractLsb' 14 6 = k.who.ctx ∧ word.extractLsb' 20 11 = BitVec.ofNat 11 k.who.tile ∧ word.extractLsb' 31 8 = BitVec.ofNat 8 k.who.slot ∧
    word.extractLsb' 39 8 = k.s ∧ word.extractLsb' 47 8 = k.ev.getD 0 ∧ word.extractLsb' 55 1 = BitVec.ofBool k.ev.isSome ∧
    word.extractLsb' 56 8 = k.ds.getD 0 ∧ word.extractLsb' 64 64 = k.dst ∧ word.extractLsb' 128 64 = k.src ∧
    word.extractLsb' 192 32 = BitVec.ofNat 32 ((match k.kind with | .cpysel => min k.len rows | _ => k.len) - progress) ∧
    word.extractLsb' 224 32 = BitVec.ofNat 32 progress ∧
    memRead s1.mem (at_ + 32) 64 = (match k.kind with
      | .cpys | .cpysel => k.desc
      | .red _ _ true => leBytes k.q 2 ++ leBytes k.g 2 ++ List.replicate 60 0
      | _ => List.replicate 64 0) ∧
    get 0x60 8 = cause.toNat ∧ get 0x68 8 = va.toNat ∧ get 0x70 8 = f / 32 * 256 + f % 32 ∧ get 0x78 8 = 0)

/-- One element of a reduction (R202): the old element and the contribution. -/
def reduced (op : RedOp) (ty : RedTy) (d e : Nat) : Nat :=
  let int (x : Nat) : Int := (BitVec.ofNat 32 x).toInt
  let fmt : Fp.Fmt := if ty = .bf16 then Fp.bf16 else Fp.f32
  match op with
  | .add => if ty = .int32 then (d + e) % 2 ^ 32 else (fmt.add .rne (fmt.decode d) (fmt.decode e)).1
  | .min => if ty = .int32 then (if int d < int e then d else e) else (Fp.minMaxNum fmt false d e).1
  | .max => if ty = .int32 then (if int d < int e then e else d) else (Fp.minMaxNum fmt true d e).1

/-- The 64-byte parts of a reducing packet (R202): they hold its bytes in order, each within one aligned 64-byte block. -/
def Parts (f : Nat) (r : FRun) (p : FPacket) (pa : Nat) (bs : List Byte) (op : RedOp) (ty : RedTy) (seq : Bool) (ps : List RedPart) : Prop :=
  (ps.map (·.bytes)).flatten = bs ∧
  ∀ n x, ps[n]? = some x → x.pa = pa + ((ps.take n).map fun y => y.bytes.length).sum ∧ x.bytes ≠ [] ∧ x.pa / 64 = (x.pa + x.bytes.length - 1) / 64 ∧
    x.op = op ∧ x.ty = ty ∧ x.poison = p.poison ∧ x.who = r.cmd.who ∧ x.arr = !seq ∧ x.cmd = r.number ∧ x.flume = f ∧ x.number = p.number ∧ x.pages = p.pages
/-- Parts have reached their banks, behind what waits there. -/
def AtBanks (s s1 : State) (ps : List RedPart) : Prop :=
  ∀ b, s1.bank b = s.bank b ++ ((ps.filter fun x => paTile x.pa * 16 + paBank x.pa == b).map BankReq.red)

/-! Operands of every instruction -/

/-- The registers of the payload (R75, R83). -/
def payload : List GReg := [0, 1, 2, 3]

/-- The sources with a field, the registers read without one or written, each of which blocks while empty, and whether the instruction is privileged
(R34, R35, R70, R319, R320). -/
def operandsOf : Instr → Option (List Src × List GReg × Bool)
  | .add d a b | .sub d a b | .mul d a b | .mulh d a b | .mulhu d a b | .div d a b | .divu d a b | .rem d a b | .remu d a b | .and d a b | .or d a b
  | .xor d a b | .andn d a b | .shl d a b | .shr d a b | .sra d a b | .rol d a b | .min d a b | .max d a b | .minu d a b | .maxu d a b | .set _ d a b
  | .fadd _ d a b | .fsub _ d a b | .fmul _ d a b | .ffma _ d a b | .fmin d a b | .fmax d a b | .fset _ d a b | .amo _ _ _ d a b | .cas _ _ d a b
  | .bwait d a b _ | .wopen d a b => some ([a, b], [d], false)
  | .clz d a | .ctz d a | .popc d a | .bswap d a | .mov d a | .addi d a _ | .andi d a _ | .ori d a _ | .xori d a _ | .shli d a _ | .shri d a _ | .srai d a _
  | .seti _ d a _ | .ext d a _ _ | .ins d a _ _ | .fcvt _ _ d a | .ldb d a _ | .ldbu d a _ | .ldh d a _ | .ldhu d a _ | .ldw d a _ | .ldwu d a _ | .ldd d a _
  | .ldAcq _ _ d a _ | .launch d a | .hget d a | .htest d a | .swaitReg d _ a | .barr d a _ | .wrevoke d a | .capr d a => some ([a], [d], false)
  | .sel d c a b => some ([c, a, b], [d], false)
  | .stb a g _ | .sth a g _ | .stw a g _ | .std a g _ | .stRel _ _ a g _ | .bCond _ a g _ | .bexp a g => some ([a, g], [], false)
  | .binit a b c => some ([a, b], [c], false)
  | .spawn d a b _ | .invoke d a b | .invokeh d a b => some ([a, b], payload ++ [d], false)
  | .send a b => some ([a, b], [1, 2, 3], false)
  | .recv => some ([], payload, false)
  | .jmp _ | .ret | .loopn .. | .align _ | .nop | .trap _ | .quit | .yield | .setpri _ | .evset _ | .evclr _ | .ssig .. | .sset .. | .fecan _ | .wfe | .hint ..
  | .lfree | .aown .. | .afree _ => some ([], [], false)
  | .jal _ => some ([], [15], false)
  | .jalr a => some ([a], [15], false)
  | .loop _ _ _ a | .join a | .migrate a | .done a | .hcancel a | .hdrop a | .ssigReg _ a | .ssetReg _ a => some ([a], [], false)
  | .tid d | .swait d _ _ | .sread d _ | .fetst d _ | .rqcnt d | .fence _ d _ | .lease d _ => some ([], [d], false)
  | .rdctl d c => (controls.find? fun x => x.1 ≤ c.toNat && c.toNat ≤ x.2.1).map fun x => ([], [d], x.2.2.1)
  | .wrctl c a => (controls.find? fun x => x.1 ≤ c.toNat && c.toNat ≤ x.2.1).map fun x => ([a], [], x.2.2.2)
  | .tlbinv a | .tlbinvAll a => some ([a], [], true)
  | .ctxsave d a | .ctxload d a => some ([a], [d], true)
  | .eret => some ([], [], true)
  | .vadd .. | .vsub .. | .vmul .. | .vfma .. | .vmin .. | .vmax .. | .vminm .. | .vmaxm .. | .vabs .. | .vneg .. | .vcmp .. | .vsel .. | .vexp2 .. | .vlog2 ..
  | .vrcp .. | .vrsq .. | .vtanh .. | .vcvt .. | .vqnt .. | .vdot .. | .vmov .. | .viadd .. | .vand .. | .vor .. | .vxor .. | .vshl .. | .vshr .. =>
    some ([], [], false)
  | .vred _ d _ _ => some ([], [d], false)
  | .vbc te _ b | .vscl te _ _ _ b => some ([⟨b, te⟩], [], false)
  | .vld te _ a _ | .vst te a _ _ _ | .wld te _ _ a _ _ | .asave te _ a _ | .aload te _ a _ => some ([⟨a, te⟩], [], false)
  | .scld te a b _ _ | .chb te _ a b | .rstW te _ _ a b _ | .rstL te _ _ a b _ | .rwimW te _ _ a b _ _ | .rwimL te _ _ a b _ _
  | .stbW te a b _ | .stbL te a b _ | .sthW te a b _ | .sthL te a b _ | .stwW te a b _ | .stwL te a b _ | .stdW te a b _ | .stdL te a b _ =>
    some ([⟨a, te⟩, ⟨b, te⟩], [], false)
  | .mma te _ _ _ a x _ _ _ _ => some (⟨a, te⟩ :: (match x with | some (p, q) => [⟨p, te⟩, ⟨q, te⟩] | none => []), [], false)
  | .cheW te _ _ m _ | .cheL te _ _ m _ _ => some (m.toList.map fun r => ⟨r, te⟩, [], false)
  | .cpyW te d a b _ _ | .cpyL te d a b _ _ _ | .cpysW te d a b _ _ | .cpysL te d a b _ _ _ | .cpyselW te d a b _ _ | .cpyselL te d a b _ _ _
  | .cpyredW te _ _ _ d a b _ _ | .cpyredL te _ _ _ d a b _ _ _ | .cpyfillW te d a b _ _ | .cpyfillL te d a b _ _ _ =>
    some ([⟨d, te⟩, ⟨a, te⟩, ⟨b, te⟩], [], false)
  | .li h te d _ => some (if h then [⟨d, te⟩] else [], [d], false)
  | .ldbW te d a _ | .ldbL te d a _ | .ldbuW te d a _ | .ldbuL te d a _ | .ldhW te d a _ | .ldhL te d a _ | .ldhuW te d a _ | .ldhuL te d a _
  | .ldwW te d a _ | .ldwL te d a _ | .ldwuW te d a _ | .ldwuL te d a _ | .lddW te d a _ | .lddL te d a _ | .rldW te _ _ d a _ | .rldL te _ _ d a _ =>
    some ([⟨a, te⟩], [d], false)
  | .ramoW te _ _ _ d a b _ | .ramoL te _ _ _ d a b _ => some ([⟨a, te⟩, ⟨b, te⟩], [d], false)
  | .rcasW te _ _ d a b _ | .rcasL te _ _ d a b _ => some ([⟨a, te⟩, ⟨b, te⟩, ⟨d, te⟩], [d], false)
  | _ => none

/-- The instructions that leave memory and all other threads as they are while they issue, with the register each of them writes, if any. -/
def writesOnly : Instr → Option (Option GReg)
  | .stb .. | .sth .. | .stw .. | .std .. | .stRel .. | .stbW .. | .stbL .. | .sthW .. | .sthL .. | .stwW .. | .stwL .. | .stdW .. | .stdL ..
  | .bCond .. | .jmp _ | .loop .. | .loopn .. | .nop | .hint .. | .setpri _ => some none
  | .add d .. | .sub d .. | .mul d .. | .mulh d .. | .mulhu d .. | .div d .. | .divu d .. | .rem d .. | .remu d .. | .and d .. | .or d ..
  | .xor d .. | .andn d .. | .shl d .. | .shr d .. | .sra d .. | .rol d .. | .min d .. | .max d .. | .minu d .. | .maxu d .. | .set _ d _ _
  | .fadd _ d _ _ | .fsub _ d _ _ | .fmul _ d _ _ | .ffma _ d _ _ | .fmin d .. | .fmax d .. | .fset _ d _ _ | .fcvt _ _ d _ | .sel d ..
  | .clz d _ | .ctz d _ | .popc d _ | .bswap d _ | .mov d _ | .addi d .. | .andi d .. | .ori d .. | .xori d .. | .shli d .. | .shri d .. | .srai d ..
  | .seti _ d _ _ | .ext d .. | .ins d .. | .li _ _ d _ | .tid d | .sread d _ | .fetst d _ | .rdctl d _
  | .ldb d .. | .ldbu d .. | .ldh d .. | .ldhu d .. | .ldw d .. | .ldwu d .. | .ldd d .. | .ldAcq _ _ d _ _
  | .ldbW _ d _ _ | .ldbL _ d _ _ | .ldbuW _ d _ _ | .ldbuL _ d _ _ | .ldhW _ d _ _ | .ldhL _ d _ _ | .ldhuW _ d _ _ | .ldhuL _ d _ _
  | .ldwW _ d _ _ | .ldwL _ d _ _ | .ldwuW _ d _ _ | .ldwuL _ d _ _ | .lddW _ d _ _ | .lddL _ d _ _ => some (some d)
  | _ => none

/-- Control registers with a reset value that is not zero (R7, R63, R87, R114, R126, R157, R166, R192, R203, R239, R246, R279). -/
def resetControls : List (Nat × Word) :=
  [(0x10, 0x40), (0x11, 248), (0x28, 4), (0x32, 0x10A), (0x38, 200), (0x43, 127), (0x48, 0x1000000), (0x50, 0xFFFFFFFF), (0x51, 0xFFFFFFFF),
   (0x52, 0xFFFFFFFF), (0x53, 0xFFFFFFFF), (0x54, 0xFFFFFFFF), (0x55, 0xFFFFFFFF), (0x56, 0xFFFFFFFF), (0x57, 0xFFFFFFFF), (0x60, 0x100000100),
   (0x71, 1), (0xA0, 0x400000), (0xA1, 8), (0xB0, 4), (0xF0, 4)]

/-- R34: a word that no instruction has: a thread whose next instruction begins with it stops with ILLEGAL, and the value is the word. -/
def IllegalWord (w : Nat) : Prop :=
  decodeTableWord 32 w = none ∧
  ∀ (s s1 : State) (tile slot : Nat) (t : Thread) (x : Words), s.thread? tile slot = some t → (∀ x, t.status ≠ .stopped x) →
    (∀ n c, t.status ≠ .blocked .dying n c) → t.held = [] → t.loopPending = false → t.blockedIn = none →
    ({ s with cur := (tile, slot) } : State).fetch (({ s with cur := (tile, slot) } : State).who t) t.born t.pc = (s1, .ok x) → x.bad = false →
    bytesToNat x.bytes % 2 ^ 32 = w →
    ∃ t1, s1.me = some t1 ∧ s.issueSlot tile slot = .next (s1.stopFor tile slot t1 (t1.before x.bytes.length 0x01 (BitVec.ofNat 64 w)))

end Sys2Proof.Spec

section
open Sys2Proof Sys2Proof.Machine Sys2Proof.Spec

/-! ### Integer results -/

/-- The two-source group: the results of R287, R288, R310, R311 and R322 on all 64 bits, poisoned if a source is, and nothing else written. -/
def Obligations.IntegerBinary : Prop :=
  ∀ (s : State) (t : Thread) (d : GReg) (a b : Src), Runs s t → Full t [a.reg, b.reg, d] →
    let x := t.val a.reg
    let y := t.val b.reg
    let k := y.toNat % 64
    let out (v : Word) : Thread := t.write d v (t.pois a.reg || t.pois b.reg)
    Completes (.add d a b) s s (out (BitVec.ofNat 64 (x.toNat + y.toNat))) ∧
    Completes (.sub d a b) s s (out (BitVec.ofInt 64 (x.toInt - y.toInt))) ∧
    Completes (.mul d a b) s s (out (BitVec.ofNat 64 (x.toNat * y.toNat))) ∧
    Completes (.mulh d a b) s s (out (BitVec.ofInt 64 (x.toInt * y.toInt / 2 ^ 64))) ∧
    Completes (.mulhu d a b) s s (out (BitVec.ofNat 64 (x.toNat * y.toNat / 2 ^ 64))) ∧
    Completes (.div d a b) s s (out (if y = 0 then BitVec.allOnes 64 else BitVec.ofInt 64 (x.toInt.tdiv y.toInt))) ∧
    Completes (.divu d a b) s s (out (if y = 0 then BitVec.allOnes 64 else BitVec.ofNat 64 (x.toNat / y.toNat))) ∧
    Completes (.rem d a b) s s (out (if y = 0 then x else BitVec.ofInt 64 (x.toInt.tmod y.toInt))) ∧
    Completes (.remu d a b) s s (out (if y = 0 then x else BitVec.ofNat 64 (x.toNat % y.toNat))) ∧
    Completes (.and d a b) s s (out (x &&& y)) ∧
    Completes (.or d a b) s s (out (x ||| y)) ∧
    Completes (.xor d a b) s s (out (x ^^^ y)) ∧
    Completes (.andn d a b) s s (out (x &&& ~~~y)) ∧
    Completes (.shl d a b) s s (out (x <<< k)) ∧
    Completes (.shr d a b) s s (out (x >>> k)) ∧
    Completes (.sra d a b) s s (out (BitVec.ofInt 64 (x.toInt / 2 ^ k))) ∧
    Completes (.rol d a b) s s (out ((x <<< k) ||| (x >>> (64 - k)))) ∧
    Completes (.min d a b) s s (out (if x.toInt < y.toInt then x else y)) ∧
    Completes (.max d a b) s s (out (if x.toInt < y.toInt then y else x)) ∧
    Completes (.minu d a b) s s (out (if x.toNat < y.toNat then x else y)) ∧
    Completes (.maxu d a b) s s (out (if x.toNat < y.toNat then y else x))

/-- The one-source and immediate forms of R287, R289, R310, R323 and the conditions of R48 (R324). -/
def Obligations.IntegerUnary : Prop :=
  ∀ (s : State) (t : Thread) (d : GReg) (a : Src), Runs s t → Full t [a.reg, d] →
    let x := t.val a.reg
    let out (v : Word) : Thread := t.write d v (t.pois a.reg)
    Completes (.mov d a) s s (out x) ∧
    (∃ v, Completes (.clz d a) s s (out v) ∧ v.toNat ≤ 64 ∧ (∀ k, 64 - v.toNat ≤ k → x.getLsbD k = false) ∧
      (v.toNat < 64 → x.getLsbD (63 - v.toNat) = true)) ∧
    (∃ v, Completes (.ctz d a) s s (out v) ∧ v.toNat ≤ 64 ∧ (∀ k, k < v.toNat → x.getLsbD k = false) ∧
      (v.toNat < 64 → x.getLsbD v.toNat = true)) ∧
    Completes (.popc d a) s s (out (BitVec.ofNat 64 ((List.range 64).countP fun k => x.getLsbD k))) ∧
    (∃ v, Completes (.bswap d a) s s (out v) ∧ ∀ k < 8, v.extractLsb' (8 * (7 - k)) 8 = x.extractLsb' (8 * k) 8) ∧
    (∀ imm : BitVec 15,
      Completes (.addi d a imm) s s (out (BitVec.ofInt 64 (x.toInt + imm.toInt))) ∧
      Completes (.andi d a imm) s s (out (x &&& imm.signExtend 64)) ∧
      Completes (.ori d a imm) s s (out (x ||| imm.zeroExtend 64)) ∧
      Completes (.xori d a imm) s s (out (x ^^^ imm.zeroExtend 64))) ∧
    (∀ n : BitVec 6,
      Completes (.shli d a n) s s (out (x <<< n.toNat)) ∧
      Completes (.shri d a n) s s (out (x >>> n.toNat)) ∧
      Completes (.srai d a n) s s (out (BitVec.ofInt 64 (x.toInt / 2 ^ n.toNat)))) ∧
    (∀ (c : IntCond) (imm : BitVec 11), Completes (.seti c d a imm) s s (out (if c.holds x (imm.signExtend 64) then 1 else 0))) ∧
    (∀ pos lm1 : BitVec 6, ∃ v, Completes (.ext d a pos lm1) s s (out v) ∧
      ∀ k, v.getLsbD k = (decide (k < lm1.toNat + 1) && x.getLsbD (pos.toNat + k)))

/-- R48: what each integer condition says of two register values. -/
def Sys2Proof.Spec.IntegerConditions : Prop :=
  ∀ x y : Word,
    (IntCond.holds .eq x y = true ↔ x = y) ∧ (IntCond.holds .ne x y = true ↔ x ≠ y) ∧
    (IntCond.holds .lt x y = true ↔ x.toInt < y.toInt) ∧ (IntCond.holds .ge x y = true ↔ y.toInt ≤ x.toInt) ∧
    (IntCond.holds .ltu x y = true ↔ x.toNat < y.toNat) ∧ (IntCond.holds .geu x y = true ↔ y.toNat ≤ x.toNat) ∧
    (IntCond.holds .le x y = true ↔ x.toInt ≤ y.toInt) ∧ (IntCond.holds .gt x y = true ↔ y.toInt < x.toInt) ∧
    (IntCond.holds .leu x y = true ↔ x.toNat ≤ y.toNat) ∧ (IntCond.holds .gtu x y = true ↔ y.toNat < x.toNat)

/-- SET, SEL, LI, NOP and hint space (R324, R325, R317, R318, R52). -/
def Sys2Proof.Spec.SelectAndLiteral : Prop :=
  ∀ (s : State) (t : Thread), Runs s t →
    (∀ (c : IntCond) (d : GReg) (a b : Src), Full t [a.reg, b.reg, d] →
      Completes (.set c d a b) s s (t.write d (if c.holds (t.val a.reg) (t.val b.reg) then 1 else 0) (t.pois a.reg || t.pois b.reg))) ∧
    (∀ (d : GReg) (c a b : Src), Full t [c.reg, a.reg, b.reg, d] →
      Completes (.sel d c a b) s s
        (t.write d (if t.val c.reg = 0 then t.val b.reg else t.val a.reg) (t.pois c.reg || t.pois a.reg || t.pois b.reg))) ∧
    (∀ (te : Bool) (d : GReg) (imm : BitVec 32), Full t [d] →
      Completes (.li false te d imm) s s (t.write d (imm.signExtend 64) false) ∧
      Completes (.li true te d imm) s s (t.write d (imm ++ (t.val d).extractLsb' 0 32) (t.pois d))) ∧
    Completes .nop s s t ∧
    (∀ (k : BitVec 2) (h : BitVec 24), Completes (.hint k h) s s t)

/-- SET, SEL, LI, NOP and hint space, and what each condition they test says (R48, R52, R317, R318, R324, R325). -/
def Obligations.SelectSetLiteral : Prop := IntegerConditions ∧ SelectAndLiteral

/-- R309: INS is S opcode 0x0D of the immediate layout; it replaces the field of gd and leaves its other bits, for every field that
decode lets through, and decode refuses a field past bit 63. -/
def Obligations.InsertField : Prop :=
  (∀ (d : GReg) (a : Src) (pos lm1 : BitVec 6), (Instr.ins d a pos lm1).wf = true →
    encodeNat (.ins d a pos lm1) = 4 * 0x0D + 2 ^ 8 * d.toNat + 2 ^ 12 * a.reg.toNat + 2 ^ 16 * b2n a.trap + 2 ^ 17 * pos.toNat + 2 ^ 23 * lm1.toNat ∧
    decodeTableWord 32 (encodeNat (.ins d a pos lm1)) = some (.ins d a pos lm1)) ∧
  (∀ n : Nat, fld n 0 8 = 0x34 → 64 < fld n 17 6 + (fld n 23 6 + 1) → IllegalWord (n % 2 ^ 32)) ∧
  (∀ (s : State) (t : Thread) (d : GReg) (a : Src) (pos lm1 : BitVec 6), Runs s t → Full t [a.reg, d] → pos.toNat + (lm1.toNat + 1) ≤ 64 →
    ∃ v, Completes (.ins d a pos lm1) s s (t.write d v (t.pois d || t.pois a.reg)) ∧
      ∀ k < 64, v.getLsbD k =
        if pos.toNat ≤ k ∧ k < pos.toNat + (lm1.toNat + 1) then (t.val a.reg).getLsbD (k - pos.toNat) else (t.val d).getLsbD k) ∧
  (∀ (s : State) (t : Thread) (d : GReg) (a : Src) (pos lm1 : BitVec 6), Runs s t → Full t [a.reg] → (t.reg d).prod ≠ none →
    ∃ rs, (∀ r, r ∈ rs ↔ r = d) ∧ Waits (.ins d a pos lm1) s s t (.regs rs))

/-! ### Floating point -/

/-- The scalar FP group (R305 to R308): operands in the low 32 bits, results zero-extended, events counted before the next instruction. -/
def Obligations.FloatingScalar : Prop :=
  ∀ (s : State) (t : Thread) (d : GReg) (a b : Src), Runs s t → Full t [a.reg, b.reg, d] →
    let x : BitVec 32 := (t.val a.reg).extractLsb' 0 32
    let y : BitVec 32 := (t.val b.reg).extractLsb' 0 32
    let z : BitVec 32 := (t.val d).extractLsb' 0 32
    let p := t.pois a.reg || t.pois b.reg
    let ends (i : Instr) (v : Word) (cs : List Nat) (p : Bool) : Prop :=
      ∃ t1, (Counted s t cs).me = some t1 ∧ Completes i s (Counted s t cs) (t1.write d v p)
    (∀ rm, ends (.fadd rm d a b) ((Fp.add32 rm x y).1.zeroExtend 64) (Fp.add32 rm x y).2 p ∧
      ends (.fsub rm d a b) ((Fp.sub32 rm x y).1.zeroExtend 64) (Fp.sub32 rm x y).2 p ∧
      ends (.fmul rm d a b) ((Fp.mul32 rm x y).1.zeroExtend 64) (Fp.mul32 rm x y).2 p ∧
      ends (.ffma rm d a b) ((Fp.fma32 rm x y z).1.zeroExtend 64) (Fp.fma32 rm x y z).2 (p || t.pois d)) ∧
    ends (.fmin d a b) (BitVec.ofNat 64 (Fp.minMaxNum Fp.f32 false x.toNat y.toNat).1) (Fp.minMaxNum Fp.f32 false x.toNat y.toNat).2 p ∧
    ends (.fmax d a b) (BitVec.ofNat 64 (Fp.minMaxNum Fp.f32 true x.toNat y.toNat).1) (Fp.minMaxNum Fp.f32 true x.toNat y.toNat).2 p ∧
    (∀ k rm, ends (.fcvt k rm d a) (Fp.convert k rm (t.val a.reg)).1 (Fp.convert k rm (t.val a.reg)).2 (t.pois a.reg)) ∧
    (∀ c, ends (.fset c d a b) (if Fp.holds Fp.f32 c x.toNat y.toNat then 1 else 0) (if Fp.cmpInvalid Fp.f32 c x.toNat y.toNat then [Class.inv] else []) p)

/-- R135, R148: an arithmetic result that is a NaN is the default quiet NaN; a NaN operand, the difference of like infinities and zero times infinity
give it, of either sign; these two and a signalling operand count invalid, and an infinity is otherwise exact. -/
def Sys2Proof.Spec.FloatNaN : Prop :=
  ∀ (rm : Rm) (x y z : BitVec 32),
    let zero (w : BitVec 32) : Bool := magOf w == 0
    let opposite : Bool := x.msb != y.msb
    let bad : BitVec 32 × List Nat := (0x7FC00000, [Class.inv])
    let product : Bool := (isInf x && zero y) || (zero x && isInf y)
    let infinite : Bool := !isNan x && !isNan y && !product && (isInf x || isInf y)
    (isNan (Fp.add32 rm x y).1 = true → (Fp.add32 rm x y).1 = 0x7FC00000) ∧
    (isNan (Fp.sub32 rm x y).1 = true → (Fp.sub32 rm x y).1 = 0x7FC00000) ∧
    (isNan (Fp.mul32 rm x y).1 = true → (Fp.mul32 rm x y).1 = 0x7FC00000) ∧
    (isNan (Fp.fma32 rm x y z).1 = true → (Fp.fma32 rm x y z).1 = 0x7FC00000) ∧
    ((isNan x || isNan y) = true → (Fp.add32 rm x y).1 = 0x7FC00000 ∧ (Fp.sub32 rm x y).1 = 0x7FC00000 ∧ (Fp.mul32 rm x y).1 = 0x7FC00000 ∧
      (Fp.fma32 rm x y z).1 = 0x7FC00000) ∧
    (isNan z = true → (Fp.fma32 rm x y z).1 = 0x7FC00000) ∧
    ((isSig x || isSig y) = true → Class.inv ∈ (Fp.add32 rm x y).2 ∧ Class.inv ∈ (Fp.sub32 rm x y).2 ∧ Class.inv ∈ (Fp.mul32 rm x y).2 ∧
      Class.inv ∈ (Fp.fma32 rm x y z).2) ∧
    (isSig z = true → Class.inv ∈ (Fp.fma32 rm x y z).2) ∧
    ((isNan x || isNan y) = true → (isSig x || isSig y) = false →
      (Fp.add32 rm x y).2 = [] ∧ (Fp.sub32 rm x y).2 = [] ∧ (Fp.mul32 rm x y).2 = [] ∧ (isSig z = false → (Fp.fma32 rm x y z).2 = [])) ∧
    (isInf x = true → isInf y = true →
      Fp.add32 rm x y = (if opposite then bad else (x, [])) ∧ Fp.sub32 rm x y = (if opposite then (x, []) else bad)) ∧
    (isInf x = true → isFinite y = true → Fp.add32 rm x y = (x, []) ∧ Fp.sub32 rm x y = (x, [])) ∧
    (isFinite x = true → isInf y = true → Fp.add32 rm x y = (y, []) ∧ Fp.sub32 rm x y = (y ^^^ 0x80000000, [])) ∧
    (product = true → Fp.mul32 rm x y = bad ∧ Fp.fma32 rm x y z = bad) ∧
    (infinite = true →
      Fp.mul32 rm x y = (if opposite then 0xFF800000 else 0x7F800000, []) ∧
      (isInf z = true → Fp.fma32 rm x y z = if z.msb = opposite then (z, []) else bad) ∧
      (isFinite z = true → Fp.fma32 rm x y z = (if opposite then 0xFF800000 else 0x7F800000, []))) ∧
    (isFinite x = true → isFinite y = true → isInf z = true → Fp.fma32 rm x y z = (z, []))

/-- R148, R306: of finite operands FADD, FSUB, FMUL and FFMA deliver the exact result rounded once in the mode, its sign, and the events of overflow and
of underflow; an exact zero takes the sign its zero operands agree in, or that of the mode. -/
def Sys2Proof.Spec.FloatRounding : Prop :=
  ∀ (rm : Rm) (x y z : BitVec 32), isFinite x = true → isFinite y = true →
    let down : Bool := rm == .rdn
    let zeros (u v : Bool) (a b : Nat) : Bool := if a = 0 ∧ b = 0 ∧ u = v then u else down
    let p : Int := if x.msb != y.msb then -((magOf x * magOf y : Nat) : Int) else ((magOf x * magOf y : Nat) : Int)
    Delivers rm (valueOf x + valueOf y) (zeros x.msb y.msb (magOf x) (magOf y)) (Fp.add32 rm x y) ∧
    Delivers rm (valueOf x - valueOf y) (zeros x.msb (!y.msb) (magOf x) (magOf y)) (Fp.sub32 rm x y) ∧
    Delivers rm p (x.msb != y.msb) (Fp.mul32 rm x y) ∧
    (isFinite z = true →
      Delivers rm (p + valueOf z) (zeros (x.msb != y.msb) z.msb (magOf x * magOf y) (magOf z)) (Fp.fma32 rm x y z))

/-- R149, R150, R308: what each kind of FCVT gives: an integer rounded by the mode, or the nearest end of the range and invalid; an integer in FP32; a
narrower format, rounded, saturated or overflowed, with underflow for an inexact zero or subnormal; a wider one, exact; NaN and infinity as the tables say. -/
def Sys2Proof.Spec.FloatConversions : Prop :=
  ∀ (rm : Rm) (g : Word),
    let x : BitVec 32 := g.extractLsb' 0 32
    let a := magOf x * 2 ^ 149
    let end_ (neg : Bool) : Word × List Nat := (if neg then 0x8000000000000000 else 0x7FFFFFFFFFFFFFFF, [Class.inv])
    let code (bits : Nat) (neg : Bool) (c : Nat) : Word := BitVec.ofNat 64 ((if neg then 2 ^ (bits - 1) else 0) + c)
    let narrowed (kind : CvtKind) (bits w b inf nan : Nat) : Prop :=
      let r := Fp.convert kind rm g
      (isNan x = true → r = (BitVec.ofNat 64 nan, if isSig x then [Class.inv] else [])) ∧
      (isInf x = true → r = (code bits x.msb inf, [])) ∧
      (isFinite x = true → ∃ c, Rounds w b inf rm x.msb a c ∧ r.1 = code bits x.msb c ∧
        (Overflows w b inf rm x.msb a → r.2 = [Class.ovf]) ∧
        (¬Overflows w b inf rm x.msb a → r.2 = if c < 2 ^ w ∧ magnitude w b c ≠ a then [Class.unf] else []))
    let widened (kind : CvtKind) (bits w b : Nat) (finite : Nat → Prop) : Prop :=
      let c := g.toNat % 2 ^ (bits - 1)
      finite c → ∃ y : BitVec 32, Fp.convert kind rm g = (y.zeroExtend 64, []) ∧ isFinite y = true ∧ y.msb = g.getLsbD (bits - 1) ∧
        magOf y * 2 ^ 149 = magnitude w b c
    ((isNan x = true → Fp.convert .f2i rm g = (0, [Class.inv])) ∧ (isInf x = true → Fp.convert .f2i rm g = end_ x.msb) ∧
      (isFinite x = true → ∃ n, Rounds 128 0 (2 ^ 129) rm x.msb a n ∧
        Fp.convert .f2i rm g = (if (x.msb = true ∧ 2 ^ 63 < n) ∨ (x.msb = false ∧ 2 ^ 63 ≤ n) then end_ x.msb
          else (BitVec.ofInt 64 (if x.msb then -(n : Int) else n), [])))) ∧
    (∃ y : BitVec 32, Fp.convert .i2f rm g = (y.zeroExtend 64, []) ∧ Delivers rm (g.toInt * 2 ^ 298) false (y, [])) ∧
    narrowed .f2bf 16 7 133 0x7F80 0x7FC0 ∧ narrowed .f2e5 8 2 16 0x7C 0x7E ∧
    ((isNan x = true → Fp.convert .f2e4 rm g = (0x7F, if isSig x then [Class.inv] else [])) ∧
      (isNan x = false → magnitude 3 9 0x7E < a → Fp.convert .f2e4 rm g = (code 8 x.msb 0x7E, [Class.sat])) ∧
      (isNan x = false → a ≤ magnitude 3 9 0x7E → ∃ c, Rounds 3 9 0x7F rm x.msb a c ∧
        Fp.convert .f2e4 rm g = (code 8 x.msb c, if c < 8 ∧ magnitude 3 9 c ≠ a then [Class.unf] else []))) ∧
    widened .bf2f 16 7 133 (fun c => c < 0x7F80) ∧ widened .e52f 8 2 16 (fun c => c < 0x7C) ∧ widened .e42f 8 3 9 (fun c => c < 0x7F) ∧
    (g.toNat % 2 ^ 15 = 0x7F80 → Fp.convert .bf2f rm g = (if g.getLsbD 15 then 0xFF800000 else 0x7F800000, [])) ∧
    (g.toNat % 2 ^ 7 = 0x7C → Fp.convert .e52f rm g = (if g.getLsbD 7 then 0xFF800000 else 0x7F800000, [])) ∧
    (0x7F80 < g.toNat % 2 ^ 15 → Fp.convert .bf2f rm g = (0x7FC00000, if g.getLsbD 6 then [] else [Class.inv])) ∧
    (0x7C < g.toNat % 2 ^ 7 → Fp.convert .e52f rm g = (0x7FC00000, if g.getLsbD 1 then [] else [Class.inv])) ∧
    (g.toNat % 2 ^ 7 = 0x7F → Fp.convert .e42f rm g = (0x7FC00000, []))

/-- R151, R152: zeros are equal, order is by sign and magnitude, a NaN is ordered with nothing, and the ordered conditions count invalid for any NaN and
the others for a signalling one only; FMIN and FMAX take a number before a NaN, and -0 is less than +0. -/
def Sys2Proof.Spec.FloatConditions : Prop :=
  ∀ x y : BitVec 32,
    let f := Fp.f32
    let un := isNan x || isNan y
    let sig := isSig x || isSig y
    let mx := x.toNat % 2 ^ 31
    let my := y.toNat % 2 ^ 31
    let holds (c : FpCond) : Bool := Fp.holds f c x.toNat y.toNat
    let less : Bool := holds .lt || (x == 0x80000000 && y == 0)
    holds .un = un ∧ holds .ord = !un ∧ holds .ne = !holds .eq ∧
    (un = true → holds .eq = false ∧ holds .lt = false ∧ holds .le = false ∧ holds .gt = false ∧ holds .ge = false) ∧
    (un = false → (holds .le = (holds .lt || holds .eq)) ∧ (holds .ge = !holds .lt) ∧ (holds .gt = !holds .le) ∧
      (holds .eq = true ↔ x = y ∨ (mx = 0 ∧ my = 0)) ∧
      (holds .lt = true ↔ (x.msb = false ∧ y.msb = false ∧ mx < my) ∨ (x.msb = true ∧ y.msb = true ∧ my < mx) ∨
        (x.msb = true ∧ y.msb = false ∧ 0 < mx + my))) ∧
    (∀ c ∈ [FpCond.eq, .ne, .un, .ord], Fp.cmpInvalid f c x.toNat y.toNat = sig) ∧
    (∀ c ∈ [FpCond.lt, .le, .gt, .ge], Fp.cmpInvalid f c x.toNat y.toNat = un) ∧
    (∀ max, (Fp.minMaxNum f max x.toNat y.toNat).2 = (if sig then [Class.inv] else []) ∧
      (isNan x = true → isNan y = true → (Fp.minMaxNum f max x.toNat y.toNat).1 = 0x7FC00000) ∧
      (isNan x = true → isNan y = false → (Fp.minMaxNum f max x.toNat y.toNat).1 = y.toNat) ∧
      (isNan x = false → isNan y = true → (Fp.minMaxNum f max x.toNat y.toNat).1 = x.toNat) ∧
      (un = false → (Fp.minMaxNum f max x.toNat y.toNat).1 = if less = max then y.toNat else x.toNat))

/-- The values, the NaN results, the conversions and the conditions of FP32, with the events they count (R135, R148 to R152, R306 to R308). -/
def Obligations.FloatCorners : Prop := FloatNaN ∧ FloatRounding ∧ FloatConversions ∧ FloatConditions

/-! ### Loads, stores and atomics -/

/-- Every load in every form (R101, R102, R104, R118, R314, R315): its checks in order, then the thread's own newer store, a wait, or the bank, which gives the
bytes of memory at the address in a free slot, of the sequencer for the own tile and of mesh-in for another; else the request waits there. Model choices:
entry 17 of the log. -/
def Sys2Proof.Spec.LoadForms : Prop :=
  ∀ (s : State) (t : Thread) (i : Instr) (z : LdSize) (d : GReg) (a : Src) (off : Word), loadForm i = some (z, d, a, off) →
    Runs s t → Full t [a.reg, d] →
    Checked i s t .read a.reg (t.val a.reg + off) z.bytes fun s1 pa =>
      (s1.forward s.cur.1 s.cur.2 pa z.bytes = .wait → Waits i s s1 t (.unitDrained (pa / 8 * 8))) ∧
      (∀ v p, s1.forward s.cur.1 s.cur.2 pa z.bytes = .value v p → v < 2 ^ (8 * z.bytes) ∧ Loaded i s s1 t d (extended z v) p) ∧
      (s1.forward s.cur.1 s.cur.2 pa z.bytes = .bank →
        (ServesRead s1 pa →
          let r := (s1.useSlot (bankOf pa)).readBytes pa z.bytes
          r.1.mem = s1.mem ∧ Loaded i s r.1 t d (extended z (leNat (memRead s1.mem pa z.bytes))) r.2.2) ∧
        (¬ServesRead s1 pa → Asks i s s1 t (t.val a.reg + off) pa (.load z d)))

/-- R99, R113, R252: what a bank gives for n bytes: the bytes of memory at the address, poisoned where a unit of theirs is. -/
def Sys2Proof.Spec.BankRead : Prop :=
  ∀ (s : State) (pa n : Nat),
    let r := s.readBytes pa n
    r.1.mem = s.mem ∧ r.2.1.length = n ∧ (∀ k < n, r.2.1.getD k 0 = s.byte (pa + k)) ∧
    ((∀ f ∈ s.flaws, ∀ u ∈ unitsOf pa n, f.at u = false) → (r.2.2 = true ↔ ∃ u ∈ unitsOf pa n, u ∈ s.poison))

/-- R104, R118: what a load finds before its bank: any pending bridge entry to its unit makes it wait; else the thread's newest entry to the unit gives
the bytes it covers, poisoned as the entry is or, for part of a unit, as the unit is; an entry that covers only some of the bytes makes it wait. -/
def Sys2Proof.Spec.Forwarding : Prop :=
  ∀ (s : State) (tile slot pa n : Nat), pa % 8 + n ≤ 8 →
    let unit := pa - pa % 8
    let bridged : Prop := ∃ b ∈ s.bridge, b.entry.unit = unit
    (bridged → s.forward tile slot pa n = .wait) ∧
    (¬bridged → (∀ e ∈ (s.tile tile).fifo, e.slot = slot → e.unit ≠ unit) → s.forward tile slot pa n = .bank) ∧
    (¬bridged → ∀ (l r : List FifoEntry) (e : FifoEntry), (s.tile tile).fifo = l ++ e :: r → e.slot = slot → e.unit = unit →
      (∀ f ∈ r, f.slot = slot → f.unit ≠ unit) →
      ((∃ k < n, e.mask.getLsbD (pa % 8 + k) = false) → s.forward tile slot pa n = .wait) ∧
      ((∀ k < n, e.mask.getLsbD (pa % 8 + k) = true) →
        s.forward tile slot pa n = .value (leNat ((List.range n).map fun k => e.data.extractLsb' (8 * (pa % 8 + k)) 8))
          (e.poison || (e.mask != 0xFF && s.poison.contains unit))))

/-- The loads, from their checks to what the thread's own stores and the bank give them (R104, R118, R314, R315). Model choices: entries 17, 75 of the log. -/
def Obligations.Loads : Prop := LoadForms ∧ BankRead ∧ Forwarding

/-- Every store in every form (R326, R327, R104): after its checks the entry joins the tile's FIFO and the thread goes on, or it waits. -/
def Sys2Proof.Spec.Stores : Prop :=
  ∀ (s : State) (t : Thread) (i : Instr) (n : Nat) (a g : Src) (off : Word) (rel : Option Scope), storeForm i = some (n, a, g, off, rel) →
    Runs s t → Full t [a.reg, g.reg] →
    Checked i s t .write a.reg (t.val a.reg + off) n fun s1 pa =>
      (s1.fifoRoom s.cur.1 s.cur.2 (t.since s1) = true →
        Completes i s (s1.enqueue s.cur.1 s.cur.2 t.ctx (s1.pageAt s.cur.1 t.ctx (t.val a.reg + off)) pa (t.val g.reg) n (t.pois g.reg) rel) t) ∧
      (s1.fifoRoom s.cur.1 s.cur.2 (t.since s1) = false → Waits i s s1 t .fifo)

/-- R104: what a store puts at the end of its tile's FIFO, byte by byte, and that it changes no memory. -/
def Sys2Proof.Spec.StoreEntry : Prop :=
  ∀ (s : State) (tile slot : Nat) (ctx : BitVec 6) (page : Nat × Nat) (pa : Nat) (data : Word) (n : Nat) (p : Bool) (rel : Option Scope), pa % 8 + n ≤ 8 →
    let s1 := s.enqueue tile slot ctx page pa data n p rel
    ∃ e : FifoEntry, (s1.tile tile).fifo = (s.tile tile).fifo ++ [e] ∧ e.slot = slot ∧ e.ctx = ctx ∧ e.page = page ∧ e.unit = pa - pa % 8 ∧ e.poison = p ∧ e.rel = rel ∧
      (∀ k < 8, e.mask.getLsbD k = decide (pa % 8 ≤ k ∧ k < pa % 8 + n)) ∧
      (∀ k < n, e.data.extractLsb' (8 * (pa % 8 + k)) 8 = data.extractLsb' (8 * k) 8) ∧
      s1.mem = s.mem ∧ s1.poison = s.poison ∧ (s1.tile tile).threads = (s.tile tile).threads

/-- Every store in every form, from its checks to the entry it leaves in the FIFO (R104, R326, R327). -/
def Obligations.StoreIssue : Prop := StoreEntry ∧ Stores

/-- A store has been performed: the bytes under its mask take its data, no other byte changes, and its unit is poisoned if its data is, and sound if it
covers the unit (R104, R252). -/
def Sys2Proof.Spec.Performed (s s1 : State) (e : FifoEntry) : Prop :=
  (∀ k < 8, s1.byte (e.unit + k) = if e.mask.getLsbD k then e.data.extractLsb' (8 * k) 8 else s.byte (e.unit + k)) ∧
  (∀ q, (q < e.unit ∨ e.unit + 8 ≤ q) → s1.byte q = s.byte q) ∧
  s1.poison = (if e.poison then setAdd s.poison e.unit else if e.mask = 0xFF then setDel s.poison e.unit else s.poison)

/-- A store of a tile has failed (R132, R254, R265, R329): no byte changes, it and every younger store of its thread are gone, STORE_FAIL is counted,
and the thread, if it still stands, is marked with the stores lost, of which its own is the first. -/
def Sys2Proof.Spec.StoreFailed (s s1 : State) (tile : Nat) (e : FifoEntry) : Prop :=
  let n (x : State) : BitVec 32 := Tab.get 0 (x.die (dieOf tile)).counts 5
  s1.mem = s.mem ∧
  (∀ f ∈ (s1.tile tile).fifo, f ∈ (s.tile tile).fifo ∧ (f.slot ≠ e.slot ∨ f.number < e.number)) ∧
  (∀ f ∈ (s.tile tile).fifo, f.slot ≠ e.slot → f.number ≠ e.number → f ∈ (s1.tile tile).fifo) ∧
  (∀ b ∈ s1.bridge, b ∈ s.bridge ∧ (b.tile ≠ tile ∨ b.entry.slot ≠ e.slot ∨ b.entry.number ≤ e.number)) ∧
  n s1 = (if n s = BitVec.allOnes 32 then n s else n s + 1) ∧
  ∀ t, s.thread? tile e.slot = some t → ∃ t1 es, s1.thread? tile e.slot = some t1 ∧
    t1.held = t.held ++ [.storeLost (⟨e.unit, e.mask, e.data⟩ :: es)] ∧ es.length < 8 ∧ t1.status = t.status ∧ t1.pc = t.pc

/-- What has gone bad in the unit of a store and a store of part of it would find: nothing, or what is corrected as it is read. -/
def Sys2Proof.Spec.Mendable (s : State) (e : FifoEntry) : Prop := e.mask = 0xFF ∨ ∀ f ∈ s.flaws, f.at e.unit = true → f.corrected = true

/-- A store that has left `gone` reaches its bank (R101, R102): in a free slot of its class it is performed or fails; else it stays and waits there. -/
def Sys2Proof.Spec.Reaches (s s' gone : State) (tile : Nat) (e : FifoEntry) : Prop :=
  let k := bankOf e.unit
  (s.storeQueued e = true → s' = s) ∧
  (s.storeQueued e = false → ¬SlotServes s (paTile e.unit = tile) k → s' = s.setBank k (s.bank k ++ [.store tile e.number])) ∧
  (s.storeQueued e = false → SlotServes s (paTile e.unit = tile) k →
    (Mendable s e → Performed s s' e ∧ (s'.tile tile).fifo = (gone.tile tile).fifo ∧ s'.bridge = gone.bridge ∧ s'.slotUsed k = true) ∧
    (s.mergeFails e = true → StoreFailed gone s' tile e ∧ s'.poison.contains e.unit = true ∧ s'.slotUsed k = true))

/-- STORE_DRAIN (R104, R118, R122, R252, R254): the oldest entry that no release holds is performed at its home bank, or goes to the bridge of
another die, or fails; only the bytes under its mask change. -/
def Sys2Proof.Spec.StoreDrain : Prop :=
  ∀ (s : State) (tile : Nat) (e : FifoEntry) (es : List FifoEntry), (s.tile tile).fifo = e :: es → Memory.wf s.mem = true →
    ∃ s', exec (.storeDrain tile) s = .next s' ∧
    let gone := s.setTile tile { s.tile tile with fifo := es }
    (s.headHeld tile e = true → s'.mem = s.mem ∧ s'.poison = s.poison ∧ s'.bridge = s.bridge ∧
      ∃ e1, (s'.tile tile).fifo = e1 :: es ∧ e1 = { e with relSince := e1.relSince } ∧ (e1.relSince = e.relSince ∨ e1.relSince = some s.cycle)) ∧
    (s.headHeld tile e = false → dieOf (paTile e.unit) ≠ dieOf tile →
      (s'.tile tile).fifo = es ∧ s'.bridge = s.bridge ++ [⟨tile, e⟩] ∧ s'.mem = s.mem ∧ s'.poison = s.poison) ∧
    (s.headHeld tile e = false → dieOf (paTile e.unit) = dieOf tile → Reaches s s' gone tile e)

/-- BRIDGE_BUFFER_PERFORM (R118, R252, R254, R265): the oldest entry of a die's buffer for a bank reaches the bank, where it is performed, fails or waits; one
that its bridge reports lost or corrupt fails, and BRIDGE_UE is counted. -/
def Sys2Proof.Spec.BridgeBufferPerform : Prop :=
  ∀ (s : State) (die bank : Nat) (b : BridgeEntry), s.bridgeHead die bank = some b → Memory.wf s.mem = true →
    ∃ s', exec (.bridgeBufferPerform die bank) s = .next s' ∧
    let gone := { s with bridge := s.bridge.erase b }
    let n (x : State) : BitVec 32 := Tab.get 0 (x.die (dieOf b.tile)).counts 6
    (s.bridgeLoss b = none → Reaches s s' gone b.tile b.entry) ∧
    (s.bridgeLoss b ≠ none → StoreFailed gone s' b.tile b.entry ∧ s'.poison = s.poison ∧ s'.bridgeLoss b = none ∧
      n s' = if n s = BitVec.allOnes 32 then n s else n s + 1)

/-- The store events: an entry leaves its FIFO or its bridge buffer and is performed at its bank, waits there or fails (R104, R118, R122, R132, R252, R254).
Model choices: entries 4, 17, 48, 56, 57, 75 of the log. -/
def Obligations.StorePerform : Prop := StoreDrain ∧ BridgeBufferPerform

/-- AMO and CAS (R292, R294): their checks, their waits, their slot, and the old value in gd. -/
def Sys2Proof.Spec.Atomics : Prop :=
  ∀ (s : State) (t : Thread) (z : AtSize) (ord : AtOrder) (d : GReg) (a b : Src), Runs s t → Full t [a.reg, b.reg, d] →
    let runs (i : Instr) (src : Bool) (op : BankOp) (bank : State → Nat → AtomicOut) : Prop :=
      Checked i s t .both a.reg (t.val a.reg) z.bytes fun s1 pa =>
        (s1.unitClear s.cur.1 s.cur.2 (pa / 8 * 8) = false → Waits i s s1 t (.unitDrained (pa / 8 * 8))) ∧
        (s1.unitClear s.cur.1 s.cur.2 (pa / 8 * 8) = true → ∀ sc, ord.release = some sc → s1.released s.cur.1 s.cur.2 sc = false →
          Waits i s s1 t (.release sc)) ∧
        (s1.unitClear s.cur.1 s.cur.2 (pa / 8 * 8) = true → (∀ sc, ord.release = some sc → s1.released s.cur.1 s.cur.2 sc = true) →
          (¬SlotServes s1 False (bankOf pa) → Asks i s s1 t (t.val a.reg) pa op) ∧
          (SlotServes s1 False (bankOf pa) →
            (∀ s2, s1.decideAt t.ctx 1 (unitSite pa) (t.contender s.cur) = .hold s2 ∨ s1.decideAt t.ctx 1 (unitSite pa) (t.contender s.cur) = .room s2 →
              Asks i s s2 t (t.val a.reg) pa op) ∧
            (∀ s2, s1.decideAt t.ctx 1 (unitSite pa) (t.contender s.cur) = .go s2 →
              let r := bank (s2.useSlot (bankOf pa)) pa
              let cs := r.classes ++ (if r.poisoned then [Class.psn] else [])
              ∃ t1, (Counted r.state t cs).me = some t1 ∧
                Completes i s (Counted r.state t cs) (t1.write d (BitVec.ofNat 64 r.old) (r.poisoned || src)))))
    (∀ op, runs (.amo op z ord d a b) (t.pois b.reg) (.amo op z d (t.val b.reg) (t.pois b.reg)) fun s2 pa => s2.bankAmo op z pa (t.val b.reg) (t.pois b.reg)) ∧
    runs (.cas z ord d a b) (t.pois d || t.pois b.reg) (.cas z d (t.val d) (t.val b.reg) (t.pois b.reg) (t.pois d || t.pois b.reg)) fun s2 pa =>
      s2.bankCas z pa (t.val d) (t.val b.reg) (t.pois b.reg)

/-- R293: what an atomic reads and writes at its bank: the addressed bytes only, and a CAS that fails or finds poison writes nothing. -/
def Sys2Proof.Spec.AtomicEffect : Prop :=
  ∀ (s : State) (z : AtSize) (pa : Nat) (v : Word) (p : Bool), Memory.wf s.mem = true → pa % z.bytes = 0 →
    let w := 8 * z.bytes
    let old := leNat (memRead s.mem pa z.bytes)
    let b := v.toNat % 2 ^ w
    let wrote (m : List Host.Cell) (new : Nat) : Prop :=
      leNat (memRead m pa z.bytes) = new ∧ ∀ q, (q < pa ∨ pa + z.bytes ≤ q) → memGet m q = memGet s.mem q
    (∀ op, (s.bankAmo op z pa v p).old = old ∧ wrote (s.bankAmo op z pa v p).state.mem ((amoNew op w old b).1 % 2 ^ w) ∧
      (s.bankAmo op z pa v p).classes = (amoNew op w old b).2) ∧
    (∀ e : Word, (s.bankCas z pa e v p).old = old ∧ (s.bankCas z pa e v p).classes = [] ∧
      ((s.bankCas z pa e v p).poisoned = false → old = e.toNat % 2 ^ w → wrote (s.bankCas z pa e v p).state.mem b) ∧
      ((s.bankCas z pa e v p).poisoned = true ∨ old ≠ e.toNat % 2 ^ w → (s.bankCas z pa e v p).state.mem = s.mem)) ∧
    (amoNew .add w old b).1 = (old + b) % 2 ^ w ∧ (amoNew .and w old b).1 = old &&& b ∧ (amoNew .or w old b).1 = old ||| b ∧
    (amoNew .xor w old b).1 = old ^^^ b ∧ (amoNew .minu w old b).1 = min old b ∧ (amoNew .maxu w old b).1 = max old b ∧
    (amoNew .swap w old b).1 = b ∧
    (BitVec.ofNat w (amoNew .min w old b).1).toInt = min (BitVec.ofNat w old).toInt (BitVec.ofNat w b).toInt ∧
    (BitVec.ofNat w (amoNew .max w old b).1).toInt = max (BitVec.ofNat w old).toInt (BitVec.ofNat w b).toInt ∧
    (∀ op, op ≠ .fadd → (amoNew op w old b).2 = []) ∧
    amoNew .fadd w old b = ((Fp.add32 .rne (BitVec.ofNat 32 old) (BitVec.ofNat 32 b)).1.toNat, (Fp.add32 .rne (BitVec.ofNat 32 old) (BitVec.ofNat 32 b)).2)

/-- R252, R293: poison at an atomic: a unit stays poisoned after it, but for a swap of the whole unit with sound data; poisoned data poisons what is
written; the other units are as they were, and a unit in which nothing had gone bad is found as it was marked. -/
def Sys2Proof.Spec.AtomicPoison : Prop :=
  ∀ (s : State) (z : AtSize) (pa : Nat) (v : Word) (p : Bool), pa % z.bytes = 0 → s.poison.Pairwise (· < ·) →
    let unit := pa - pa % 8
    let after (r : AtomicOut) (bad : Bool) : Prop := r.state.poison.contains unit = bad ∧ ∀ q, q ≠ unit → r.state.poison.contains q = s.poison.contains q
    (∀ op, let r := s.bankAmo op z pa v p
      after r (p || (r.poisoned && !(op == .swap && z == .d))) ∧ ((∀ f ∈ s.flaws, f.at unit = false) → r.poisoned = s.poison.contains unit) ∧
      ((∃ syn, Flaw.sramUe unit syn ∈ s.flaws) → r.poisoned = true)) ∧
    (∀ e : Word, let r := s.bankCas z pa e v p
      after r (r.poisoned || (p && r.old == e.toNat % 2 ^ (8 * z.bytes))) ∧ ((∀ f ∈ s.flaws, f.at unit = false) → r.poisoned = s.poison.contains unit) ∧
      ((∃ syn, Flaw.sramUe unit syn ∈ s.flaws) → r.poisoned = true))

/-- AMO and CAS, from their checks to the bytes and the poison they leave at their bank (R252, R292 to R294). Model choices: entries 17, 75 of the log. -/
def Obligations.AtomicOps : Prop := Atomics ∧ AtomicEffect ∧ AtomicPoison

/-- R105, R109: an address above bit 47 faults with PAGE; a cached page gives its leaf moved on by the offset when the leaf is populated SRAM
with the permission, and PROT in every other case, HBM and a remote leaf among them. -/
def Sys2Proof.Spec.Translation : Prop :=
  ∀ (s : State) (w : Issuer) (k : Access3) (va : Word),
    (2 ^ 48 ≤ va.toNat → ∃ s1, s.access w k false va = (s1, .error Cause.page) ∧ s1.mem = s.mem ∧ s1.poison = s.poison) ∧
    (va.toNat < 2 ^ 48 → ∀ e, tlbFind w.ctx va.toNat (s.tile w.tile).tlb = some e → ∃ s1 r, s.access w k false va = (s1, r) ∧ s1.mem = s.mem ∧
      (∀ pa x wr rd, e.leaf = .mem pa x wr rd →
        let q := pa + (va.toNat - e.base)
        (s.sramOn q = true → k.allowed x wr rd = true → r = .ok q) ∧
        (s.sramOn q = false ∨ k.allowed x wr rd = false → r = .error Cause.prot)) ∧
      (∀ dev win off c x wr rd, e.leaf = .remote dev win off c x wr rd → r = .error Cause.prot))

/-! ### Control flow -/

/-- B.cond and JMP (R291, R312, R68): the target, the loops a taken branch pops, and the untaken case. -/
def Sys2Proof.Spec.Branches : Prop :=
  ∀ (s : State) (t : Thread), Runs s t →
    (∀ (c : IntCond) (a b : Src) (off : BitVec 10), Full t [a.reg, b.reg] →
      (Clean t [a.reg, b.reg] → c.holds (t.val a.reg) (t.val b.reg) = true →
        exec (.bCond c a b off) s = .next (s.setMe (branched t (t.pc + 4 * off.signExtend 48)))) ∧
      (Clean t [a.reg, b.reg] → c.holds (t.val a.reg) (t.val b.reg) = false → Completes (.bCond c a b off) s s t) ∧
      (∀ r, (r = a.reg ∨ r = b.reg) → t.pois r = true → (∀ q, (q = a.reg ∨ q = b.reg) → t.pois q = true → r ≤ q) →
        Traps (.bCond c a b off) s s t Cause.poison (r.zeroExtend 64))) ∧
    (∀ off : BitVec 24, exec (.jmp off) s = .next (s.setMe (branched t (t.pc + 4 * off.signExtend 48))))

/-- JAL, JALR and RET (R312, R313, R251): the return stack of four, the link in g15, and the spill and refill of a full or empty stack; the poison of a
target is found behind what the spill finds (R253). -/
def Sys2Proof.Spec.CallsAndReturns : Prop :=
  ∀ (s : State) (t : Thread), Runs s t →
    let ptr : Word := BitVec.ofNat 64 (t.spill.toNat % 2 ^ 48 / 8 * 8)
    let calls (i : Instr) (pc : Pc) : Prop :=
      (t.rets.length < 4 → exec i s = .next (s.setMe (called t t.rets pc))) ∧
      (∀ o rest, t.rets = o :: rest → 3 ≤ rest.length → t.spill.toNat / 2 ^ 48 ≠ 0xFFFF → ∀ s1 pa,
        s.access (s.who t) .write false ptr = (s1, .ok pa) →
        (s1.fifoRoom s.cur.1 s.cur.2 (t.since s1) = true →
          exec i s = .next ((s1.enqueue s.cur.1 s.cur.2 t.ctx (s1.pageAt s.cur.1 t.ctx ptr) pa (o.zeroExtend 64) 8 false none).setMe
            (called { t with spill := spillMove t.spill true } rest pc))) ∧
        (s1.fifoRoom s.cur.1 s.cur.2 (t.since s1) = false → Waits i s s1 t .fifo))
    let faults (i : Instr) : Prop :=
      4 ≤ t.rets.length →
        (t.spill.toNat / 2 ^ 48 = 0xFFFF → Traps i s s t Cause.prot ptr) ∧
        (t.spill.toNat / 2 ^ 48 ≠ 0xFFFF → ∀ s1 c, s.access (s.who t) .write false ptr = (s1, .error c) → ∃ t1, s1.me = some t1 ∧ Traps i s s1 t1 c ptr)
    (∀ off : BitVec 24, Full t [15] → calls (.jal off) (t.pc + 4 * off.signExtend 48) ∧ faults (.jal off)) ∧
    (∀ a : Src, Full t [a.reg, 15] →
      ((t.val a.reg).toNat % 4 ≠ 0 → Traps (.jalr a) s s t Cause.align (t.val a.reg)) ∧
      ((t.val a.reg).toNat % 4 = 0 → faults (.jalr a) ∧
        (t.pois a.reg = false → calls (.jalr a) ((t.val a.reg).truncate 48)) ∧
        (t.pois a.reg = true →
          (t.rets.length < 4 → Traps (.jalr a) s s t Cause.poison (a.reg.zeroExtend 64)) ∧
          (4 ≤ t.rets.length → t.spill.toNat / 2 ^ 48 ≠ 0xFFFF → ∀ s1 pa, s.access (s.who t) .write false ptr = (s1, .ok pa) →
            Traps (.jalr a) s s1 t Cause.poison (a.reg.zeroExtend 64))))) ∧
    (∀ pc, t.rets.getLast? = some pc →
      exec .ret s = .next (s.setMe { t with rets := t.rets.dropLast, pc := pc, icount := t.icount + 1, status := .ready, instr := none })) ∧
    (t.rets = [] → t.spill.toNat < 2 ^ 48 → Traps .ret s s t Cause.prot 0) ∧
    (t.rets = [] → 2 ^ 48 ≤ t.spill.toNat →
      let va : Word := ptr - 8
      (∀ s1 c, s.access (s.who t) .read false va = (s1, .error c) → ∃ t1, s1.me = some t1 ∧ Traps .ret s s1 t1 c va) ∧
      (∀ s1 pa, s.access (s.who t) .read false va = (s1, .ok pa) →
        let gets (s2 : State) (v : Nat) (bad : Bool) : Prop :=
          (bad = true → Traps .ret s s2 t Cause.poison va) ∧
          (bad = false → exec .ret s = .next (s2.setMe
            { t with spill := spillMove t.spill false, pc := BitVec.ofNat 48 v, icount := t.icount + 1, status := .ready, instr := none }))
        let bank (s2 : State) : Prop := gets (s2.readBytes pa 8).1 (leNat (s2.readBytes pa 8).2.1) (s2.readBytes pa 8).2.2
        (s1.forward s.cur.1 s.cur.2 pa 8 = .wait → Waits .ret s s1 t (.unitDrained (pa / 8 * 8))) ∧
        (∀ v bad, s1.forward s.cur.1 s.cur.2 pa 8 = .value v bad → gets s1 v bad) ∧
        (s1.forward s.cur.1 s.cur.2 pa 8 = .bank →
          (ServesRead s1 pa → bank (s1.useSlot (bankOf pa))) ∧
          (¬ServesRead s1 pa → Asks .ret s s1 t va pa (.refill va)))))

/-- Branches, jumps, calls and returns (R68, R251, R253, R291, R312, R313). That a RET goes to a misaligned address from its spill slot without a trap is the
model's choice (entry 90). Model choices: entries 17, 35, 90 of the log. -/
def Obligations.ControlTransfer : Prop := Branches ∧ CallsAndReturns

/-- LOOP and LOOPN (R67): the entry they push, the body skipped by a count of zero, the nesting trap, and POISON for a poisoned count of LOOP. -/
def Sys2Proof.Spec.LoopsOpen : Prop :=
  ∀ (s : State) (t : Thread) (e : BitVec 4) (m : BitVec 6) (len : BitVec 9) (c : Src), Runs s t →
    let past := t.pc + 4 + 4 * len.zeroExtend 48
    let most := (m.toNat + 1) * 2 ^ e.toNat
    let n := (t.val c.reg).toNat
    let counted : Thread := { t with icount := t.icount + 1, status := .ready, instr := none }
    let opened (x : LoopEntry) : Thread := { counted with pc := t.pc + 4, loops := x :: t.loops }
    let nested (i : Instr) : Prop := exec i s = .next (s.stopFor s.cur.1 s.cur.2 t
      { cause := 0x07, kind := 0, value := 3, pc := t.pc, loop := t.pc, resume := t.pc, skip := t.pc + 4, popLoop := false, lost := [], written := false })
    (Full t [c.reg] → n ≠ 0 → t.loops.length < 2 → t.pois c.reg = false →
      exec (.loop e m len c) s = .next (s.setMe (opened ⟨false, t.pc + 4, past, t.pc, 0, most, n, c⟩))) ∧
    (Full t [c.reg] → n = 0 → t.pois c.reg = false → exec (.loop e m len c) s = .next (s.setMe { counted with pc := past })) ∧
    (Full t [c.reg] → n ≠ 0 → 2 ≤ t.loops.length → nested (.loop e m len c)) ∧
    (Full t [c.reg] → (n = 0 ∨ t.loops.length < 2) → t.pois c.reg = true → Traps (.loop e m len c) s s t Cause.poison (c.reg.zeroExtend 64)) ∧
    (t.loops.length < 2 → exec (.loopn e m len c) s = .next (s.setMe (opened ⟨true, t.pc + 4, past, t.pc, 0, most, 0, c⟩))) ∧
    (2 ≤ t.loops.length → nested (.loopn e m len c))

/-- Where an instruction of n bytes that completes in sequence leaves its thread (R33, R67, R243): `ends x` is said of the thread x that goes on, or stops for
the trap of after kind that it owes; `bound k x` of the thread x that a loop's bound stops, at the start of the loop and with LOOP_BOUND held when it owes a
trap; `test cause x` of the thread x whose LOOPN test finds its register empty or poisoned, and `waits x` of one that waits for it. -/
def Sys2Proof.Spec.EndsAt (t : Thread) (n : Nat) (ends : Thread → Prop) (bound : Nat → LoopEntry → Thread → Prop) (test : BitVec 8 → LoopEntry → Thread → Prop)
    (waits : LoopEntry → Thread → Prop) : Prop :=
  let next := t.pc + BitVec.ofNat 48 n
  let u : Thread := { t with icount := t.icount + 1, status := .ready, instr := none }
  ((∀ e r, t.loops = e :: r → next ≠ e.endNext) → ends { u with pc := next }) ∧
  (∀ e r, t.loops = e :: r → next = e.endNext →
    let k := e.trips + 1
    let goes (again : Bool) : Prop :=
      (again = true → k ≠ e.max → ends { u with pc := e.start, loops := { e with trips := k } :: r, loopPending := false }) ∧
      (again = true → k = e.max → bound k e { u with pc := next, loops := { e with trips := k } :: r, loopPending := false }) ∧
      (again = false → ends { u with pc := next, loops := r, loopPending := false })
    (e.loopn = false → goes (decide (k < e.n))) ∧
    (e.loopn = true → (t.reg e.gc.reg).prod = none → t.pois e.gc.reg = false → goes (decide (t.val e.gc.reg ≠ 0))) ∧
    (e.loopn = true → (t.reg e.gc.reg).prod ≠ none → e.gc.trap = false → waits e { u with pc := next, loopPending := true }) ∧
    (e.loopn = true → (t.reg e.gc.reg).prod ≠ none → e.gc.trap = true → test 0x06 e { u with pc := next, loopPending := true }) ∧
    (e.loopn = true → (t.reg e.gc.reg).prod = none → t.pois e.gc.reg = true → test 0x0E e { u with pc := next, loopPending := true }))

/-- A LOOPN test traps at its LOOPN, and ERET repeats it. -/
def Sys2Proof.Spec.TestTrap (s s1 : State) (tile slot : Nat) (cause : BitVec 8) (e : LoopEntry) (x : Thread) : Prop :=
  ∃ i, i.cause = cause ∧ i.pc = e.pc ∧ i.value = e.gc.reg.zeroExtend 64 ∧ i.resume = x.pc ∧ i.skip = x.pc ∧ i.popLoop = false ∧ s1 = s.stopFor tile slot x i

/-- R67, R33: an instruction that completes in sequence, of a thread that owes no trap: the thread goes on at the next instruction, back at the start of the
loop whose end it stands at, or past a finished loop, or stops with LOOP_BOUND, or at a LOOPN test. -/
def Sys2Proof.Spec.LoopEndCheck : Prop :=
  ∀ (s : State) (tile slot : Nat) (t : Thread) (n : Nat), t.owed = none →
    let s1 := s.retireAt tile slot t n
    EndsAt t n (fun x => s1 = s.setThread tile slot x)
      (fun k e x => s1 = s.stopFor tile slot x
        { cause := 0x07, kind := 1, value := BitVec.ofNat 64 k, pc := e.pc, loop := e.pc, resume := e.endNext, skip := e.endNext,
          popLoop := true, lost := [], written := false })
      (TestTrap s s1 tile slot) (fun e x => s1 = s.blockAt tile slot x (.loopTest e.gc.reg))

/-- LOOP and LOOPN, and what an instruction that completes in sequence does at the end of a loop (R67). That a skipped LOOP makes no end check of the loop
around it is the model's choice (entry 92). Model choices: entries 34, 35, 92 of the log. -/
def Obligations.Loops : Prop := LoopsOpen ∧ LoopEndCheck

/-- The place of the next record in a context's trap ring (R246). -/
def Sys2Proof.Spec.nextRecordAt (s : State) (ctx : BitVec 6) : Nat :=
  let c := s.ctx ctx
  c.trapRing.toNat % 2 ^ 48 / 32 * 32 + c.trapProd.toNat % 2 ^ (c.trapRing.toNat % 32) * 32

/-- R330: TRAP is S opcode 0x29 of the immediate layout with rd, ra and ea zero; it always raises SOFT, of after kind, with value n, the PC of the TRAP, and the
instruction that would have followed as its restart point; a LOOPN test at the end of its loop comes first (R67). It changes no register and no memory but
the record's, and runs in every slot. -/
def Obligations.SoftTrap : Prop :=
  (∀ n : BitVec 15, encodeNat (.trap n) = 4 * 0x29 + 2 ^ 17 * n.toNat ∧ decodeTableWord 32 (encodeNat (.trap n)) = some (.trap n)) ∧
  (∀ (n : BitVec 15) (r : BitVec 9), r ≠ 0 → IllegalWord (4 * 0x29 + 2 ^ 8 * r.toNat + 2 ^ 17 * n.toNat)) ∧
  (∀ (s : State) (t : Thread) (n : BitVec 15), Runs s t → ∃ s1 t1, exec (.trap n) s = .next s1 ∧ s1.me = some t1 ∧
    let owes (x : Thread) : Thread := { x with owed := some ⟨0x12, n.zeroExtend 64, t.pc⟩ }
    let soft (x : Thread) : Prop := ∃ i : TrapInfo, i.cause = 0x12 ∧ i.kind = 1 ∧ i.value = n.zeroExtend 64 ∧ i.pc = t.pc ∧ i.resume = x.pc ∧ i.skip = x.pc ∧
      i.popLoop = false ∧ i.lost = [] ∧ i.written = false ∧ s1 = s.stopFor s.cur.1 s.cur.2 { x with owed := none } i
    EndsAt t 4 soft (fun k e x => soft { x with pc := e.start, held := t.held ++ [.loopBound k e.pc e.start e.endNext] })
      (fun cause e x => TestTrap s s1 s.cur.1 s.cur.2 cause e (owes x)) (fun e x => s1 = s.blockAt s.cur.1 s.cur.2 (owes x) (.loopTest e.gc.reg)) ∧
    (∀ r, t1.val r = t.val r ∧ t1.pois r = t.pois r ∧ (t1.reg r).prod = (t.reg r).prod) ∧
    (Memory.wf s.mem = true → let a := nextRecordAt s t.ctx
      ∀ q, (q < a ∨ a + 32 ≤ q) → s1.byte q = s.byte q ∧ s1.poison.contains q = s.poison.contains q) ∧
    (s.trapRoom t.ctx 1 = false → s1.mem = s.mem ∧ s1.poison = s.poison))

/-! ### Threads -/

/-- SETPRI, YIELD and TID (R64, R59): the thread, the Wheel's pointer, and the fields of a thread id. -/
def Sys2Proof.Spec.Scheduling : Prop :=
  ∀ (s : State) (t : Thread), Runs s t →
    (∀ n, Completes (.setpri n) s s { t with pri := n, age := 0 }) ∧
    Completes .yield s (s.setTile s.cur.1 { s.tile s.cur.1 with ptr := (s.cur.2 + 1) % 256 }) { t with age := 0 } ∧
    (∀ d, Full t [d] → ∃ v : Word, Completes (.tid d) s s (t.write d v false) ∧
      v.extractLsb' 0 8 = BitVec.ofNat 8 s.cur.2 ∧ v.extractLsb' 8 11 = BitVec.ofNat 11 s.cur.1 ∧ v.extractLsb' 19 11 = s.fabSelf ∧
      v.extractLsb' 30 6 = t.ctx ∧ v.extractLsb' 36 8 = t.inst ∧ v.extractLsb' 44 20 = 0)

/-- R57, R58, R75: a thread is created in the lowest free user slot of an enabled tile, with its payload, everything else as R57 gives it, and
a new instance count, and issues from the next cycle on; nothing else changes. A bad target or PC and a full tile are refused. -/
def Sys2Proof.Spec.CreateThread : Prop :=
  ∀ (s : State) (tile : Nat) (c : BitVec 6) (pc : Word) (p : Payload) (pri : BitVec 3) (sid : BitVec 48) (h : Option Word),
    let r := s.createLocal tile c pc (payloadRegs p) pri sid h
    ((s.tileOn tile = false ∨ pc.toNat % 4 ≠ 0) → r = (s, .error 0x02)) ∧
    (s.tileOn tile = true → pc.toNat % 4 = 0 → (∀ k < 248, (s.thread? tile k).isSome) → r = (s, .error 0x01)) ∧
    (s.tileOn tile = true → pc.toNat % 4 = 0 → ∀ k, k < 248 → s.thread? tile k = none → (∀ j < k, (s.thread? tile j).isSome) →
      ∃ s1 t, r = (s1, .ok k) ∧ s1.thread? tile k = some t ∧
        t.pc = pc.truncate 48 ∧ t.ctx = c ∧ t.pri = pri ∧ t.sid = sid ∧ t.handle = h ∧ t.status = .ready ∧ t.loops = [] ∧ t.rets = [] ∧
        t.spill = 0 ∧ t.age = 0 ∧ t.latch = false ∧ t.icount = 0 ∧ t.instr = none ∧ t.held = [] ∧ t.pipe = s.cycle + 1 ∧ t.inst = Tab.get 0 (s.tile tile).insts k + 1 ∧
        t.reg 0 = ⟨p.g0, p.p0, none⟩ ∧ t.reg 1 = ⟨p.g1, p.p1, none⟩ ∧ t.reg 2 = ⟨p.g2, p.p2, none⟩ ∧ t.reg 3 = ⟨p.g3, p.p3, none⟩ ∧
        (∀ q : GReg, 4 ≤ q.toNat → t.reg q = ⟨0, false, none⟩) ∧
        (∀ tile' k', (tile' ≠ tile ∨ k' ≠ k) → s1.thread? tile' k' = s.thread? tile' k') ∧ s1.mem = s.mem ∧ s1.ctxs = s.ctxs)

/-- SPAWN (R73 to R75, R253, R361): a poisoned target or PC; after its release at the scope that contains the target: a bad target word, a local target, an
unreachable device, and a request that leaves gd empty. -/
def Sys2Proof.Spec.Spawn : Prop :=
  ∀ (s : State) (t : Thread) (d : GReg) (a b : Src) (pri : BitVec 3), Runs s t → Full t [a.reg, b.reg, 0, 1, 2, 3, d] →
    let i := Instr.spawn d a b pri
    Poisons i s s t [a.reg, b.reg] ∧ (Clean t [a.reg, b.reg] →
    let w := t.val a.reg
    let dev : BitVec 11 := w.extractLsb' 11 11
    let tile := w.toNat % 2048
    let u : Thread := { t with spawns := t.spawns + 1 }
    let good := w.toNat < 2 ^ 23 ∧ (w.getLsbD 22 = true ∨ dev = 0)
    let near := w.getLsbD 22 = false ∨ dev = s.fabSelf
    let sc : Scope := if dieOf s.cur.1 = dieOf tile then .die else .dev
    let named : Scope := if w.getLsbD 22 then .dom else sc
    (¬good → s.released s.cur.1 s.cur.2 named = false → Waits i s s t (.release named)) ∧
    (¬good → s.released s.cur.1 s.cur.2 named = true → Completes i s s (u.write d (status Code.badTarget) false)) ∧
    (good → near → s.released s.cur.1 s.cur.2 sc = false → Waits i s s t (.release sc)) ∧
    (good → near → s.released s.cur.1 s.cur.2 sc = true → ∀ s1 r, s.createLocal tile t.ctx (t.val b.reg) (payloadRegs t.payload) pri t.childSid none = (s1, r) →
      Completes i s s1 (u.write d (match r with
        | .ok k => s1.threadId tile k t.ctx (Tab.get 0 (s1.tile tile).insts k)
        | .error c => status c) false)) ∧
    (good → ¬near → s.released s.cur.1 s.cur.2 .dom = false → Waits i s s t (.release .dom)) ∧
    (good → ¬near → s.released s.cur.1 s.cur.2 .dom = true → s.reach dev = false →
      Completes i s s ({ u with losses := t.losses.lose 1 dev }.write d (status Code.peerLost) false)) ∧
    (good → ¬near → s.released s.cur.1 s.cur.2 .dom = true → s.reach dev = true →
      ∃ s1 rid, s.request s.cur.1 s.cur.2 t (s.header dev tile s.cur.1 t.ctx 1 0x09) false (some d) none 0 false
          (.spawn (t.val b.reg) t.payload pri t.childSid) = (s1, rid) ∧
        Completes i s s1 (u.markEmpty d (.access rid))))

/-- SPAWN and the thread it creates (R57, R58, R73 to R75, R253, R361). That an entry PC above 48 bits is truncated is the model's reading (entry 35). Model
choices: entries 15, 24, 28, 35, 60 of the log. -/
def Obligations.SpawnThread : Prop := CreateThread ∧ Spawn

/-- R214, R212: a request leaves an access of its own at the tile and no trace in memory; its packet goes to the fabric, or to this device. -/
def Sys2Proof.Spec.RequestSent : Prop :=
  ∀ (s : State) (tile slot : Nat) (t : Thread) (h : Hdr) (entry : Bool) (dst : Option GReg) (page : Option (Nat × Nat)) (handle : Word) (p : Bool) (b : Body),
    let r := s.request tile slot t h entry dst page handle p b
    ∃ x : Access, (r.1.tile tile).accs = (s.tile tile).accs ++ [x] ∧ r.2 = x.rid ∧ x.rid = s.serial ∧ r.1.serial = s.serial + 1 ∧
      x.entry = entry ∧ x.slot = slot ∧ x.inst = t.inst ∧ x.dst = dst ∧ x.dev = h.dev ∧ x.cls = h.cls ∧ x.page = page ∧ x.handle = handle ∧ x.taken = false ∧
      x.pkt.body = b ∧ x.pkt.hdr.dev = h.dev ∧ x.pkt.rid = s.serial ∧ x.pkt.sid = t.sid ∧
      r.1.mem = s.mem ∧ (r.1.tile tile).threads = (s.tile tile).threads ∧
      (h.dev ≠ s.fabSelf → r.1.inflight = s.inflight ++ [.packetHop x.pkt]) ∧
      (h.dev = s.fabSelf → h.cls ≠ 1 → r.1.inflight = s.inflight ++ [x.pkt.event])

/-- JOIN (R77): PROT for another tile, another context or the thread itself; completion for a slot that is free or holds another instance. -/
def Sys2Proof.Spec.Join : Prop :=
  ∀ (s : State) (t : Thread) (a : Src), Runs s t → Full t [a.reg] →
    let w := t.val a.reg
    let slot := w.toNat % 256
    let inst : BitVec 8 := w.extractLsb' 36 8
    let foreign := w.toNat / 2 ^ 8 % 2048 ≠ s.cur.1 ∨ w.extractLsb' 19 11 ≠ s.fabSelf ∨ w.extractLsb' 30 6 ≠ t.ctx ∨ (slot = s.cur.2 ∧ inst = t.inst)
    (foreign → Traps (.join a) s s t Cause.prot w) ∧
    (¬foreign → t.pois a.reg = true → Traps (.join a) s s t Cause.poison (a.reg.zeroExtend 64)) ∧
    (¬foreign → t.pois a.reg = false → (∀ u, s.thread? s.cur.1 slot = some u → u.inst ≠ inst) → Completes (.join a) s s t) ∧
    (¬foreign → t.pois a.reg = false → (∃ u, s.thread? s.cur.1 slot = some u ∧ u.inst = inst) → Waits (.join a) s s t (.join s.cur.1 slot inst))

/-- QUIT (R76): units released, producers withdrawn, stores drained, and then the slot is free; a chain that the release discards traps. -/
def Sys2Proof.Spec.Quit : Prop :=
  ∀ (s : State) (t : Thread), Runs s t →
    (∀ s1 pc, s.lfree s.cur.1 s.cur.2 t = (s1, some pc) → Traps .quit s s1 t Cause.chainOpen (chainValue 1 pc)) ∧
    (∀ s1, s.lfree s.cur.1 s.cur.2 t = (s1, none) →
      let ts := s1.owned s.cur.1 s.cur.2 t
      let s2 := (s1.freeTiles s.cur.1 ts).withdrawAll s.cur.1 s.cur.2 t
      ((s1.cluster (clusterOf s.cur.1)).tilesFree ts = false → Waits .quit s s1 t (.tiles ts)) ∧
      ((s1.cluster (clusterOf s.cur.1)).tilesFree ts = true → s2.fifoOf s.cur.1 s.cur.2 ≠ [] → Waits .quit s s2 t.cancelAll .drained) ∧
      ((s1.cluster (clusterOf s.cur.1)).tilesFree ts = true → s2.fifoOf s.cur.1 s.cur.2 = [] → ∃ s', exec .quit s = .next s' ∧
        s'.thread? s.cur.1 s.cur.2 = none ∧ (t.handle = none → t.launch = none → s' = s2.vacate s.cur.1 s.cur.2)))

/-- JOIN and QUIT (R76, R77). Model choices: entries 25, 48 of the log. -/
def Obligations.JoinAndQuit : Prop := Join ∧ Quit

/-- MIGRATE and its arrival (R78, R109, R233): the checks, PAGE and PROT among them, the move to the current tile, the message, and the lowest free slot of the
target. Model choices: entries 28, 48, 66 of the log. -/
def Obligations.Migrate : Prop :=
  (∀ (s : State) (t : Thread) (a : Src), Runs s t → Full t [a.reg] →
    let i := Instr.migrate a
    (s.settled s.cur.1 s.cur.2 t = false → Waits i s s t .migrating) ∧
    (s.settled s.cur.1 s.cur.2 t = true → ∀ s1 c, s.access (s.who t) .read false (t.val a.reg) = (s1, .error c) →
      ∃ t1, s1.me = some t1 ∧ Traps i s s1 t1 c (t.val a.reg)) ∧
    (s.settled s.cur.1 s.cur.2 t = true → ∀ s1 pa, s.access (s.who t) .read false (t.val a.reg) = (s1, .ok pa) →
      let tied := ((s1.innings s.cur.1 s.cur.2 t).isSome = true ∨ s1.owned s.cur.1 s.cur.2 t ≠ []) ∧ clusterOf (paTile pa) ≠ clusterOf s.cur.1
      (tied → Traps i s s1 t Cause.prot (t.val a.reg)) ∧
      (¬tied → t.pois a.reg = true → Traps i s s1 t Cause.poison (a.reg.zeroExtend 64)) ∧
      (¬tied → t.pois a.reg = false → paTile pa = s.cur.1 → Completes i s s1 t) ∧
      (¬tied → t.pois a.reg = false → paTile pa ≠ s.cur.1 → exec i s =
        .next ((s1.blockAt s.cur.1 s.cur.2 t (.moving (paTile pa))).cause (.migrateArrival s.cur.1 s.cur.2 (paTile pa)))))) ∧
  (∀ (s : State) (tile slot target n c : Nat) (t : Thread), s.thread? tile slot = some t → t.status = .blocked (.moving target) n c →
    (s.freeSlot target = none → exec (.migrateArrival tile slot target) s = .next (s.retireAt tile slot t 4)) ∧
    (∀ k, s.freeSlot target = some k → tile ≠ target →
      let s1 := s.moveThread tile slot t target k
      let u : Thread := { t with age := 0, inst := Tab.get 0 (s.tile target).insts k + 1, pipe := s.cycle + 1 }
      s1.thread? target k = some u ∧ s1.thread? tile slot = none ∧ s1.mem = s.mem ∧
      (t.handle = none → exec (.migrateArrival tile slot target) s = .next (s1.retireAt target k u 4)) ∧
      (∀ h, t.handle = some h → exec (.migrateArrival tile slot target) s = .next (s1.tellHome target k u h))))

/-- LAUNCH (R90, R92): alignment, the snapshot of 128 bytes, and the record queued or refused with its code. -/
def Sys2Proof.Spec.LaunchRecord : Prop :=
  ∀ (s : State) (t : Thread) (d : GReg) (a : Src), Runs s t → Full t [a.reg, d] →
    let i := Instr.launch d a
    let va := t.val a.reg
    (va.toNat % 64 ≠ 0 → Traps i s s t Cause.align va) ∧
    (va.toNat % 64 = 0 → ∀ s1 c, s.access (s.who t) .read false va = (s1, .error c) → ∃ t1, s1.me = some t1 ∧ Traps i s s1 t1 c va) ∧
    (va.toNat % 64 = 0 → ∀ s1 pa s2 c, s.access (s.who t) .read false va = (s1, .ok pa) → s1.access (s.who t) .read false (va + 64) = (s2, .error c) →
      ∃ t1, s2.me = some t1 ∧ Traps i s s2 t1 c (va + 64)) ∧
    (va.toNat % 64 = 0 → ∀ s1 pa s2 pb, s.access (s.who t) .read false va = (s1, .ok pa) → s1.access (s.who t) .read false (va + 64) = (s2, .ok pb) →
      (t.pois a.reg = true → Traps i s s2 t Cause.poison (a.reg.zeroExtend 64)) ∧
      (t.pois a.reg = false → s2.released s.cur.1 s.cur.2 .dev = false → Waits i s s2 t (.release .dev)) ∧
      (t.pois a.reg = false → s2.released s.cur.1 s.cur.2 .dev = true →
        let r1 := s2.readBytes pa 64
        let r2 := r1.1.readBytes pb 64
        let ws := wordsOf 16 (r1.2.1 ++ r2.2.1)
        let code := r2.1.admitCode t.ctx ws
        let u := { t with spawns := t.spawns + 1 }.write d (code ++ (0 : BitVec 56)) false
        (code = 0x00 → ∃ l : Launch, l.words = ws ∧ l.origin = t.childSid ∧ l.ring = none ∧ l.cycle = s.cycle ∧ l.by' = some (s.cur.1, s.cur.2, t.inst, d) ∧ Completes i s (r2.1.queueLaunch t.ctx l) u) ∧
        (code ≠ 0x00 → Completes i s r2.1 u)))

/-- The dispatcher has a record to take: the context is live, or its tear-down refuses what comes; records are unread; the next one stands in memory, and
does not wait for room in the queue (R93, R95). -/
def Sys2Proof.Spec.Admits (s : State) (c : BitVec 6) : Prop :=
  let x := s.ctx c
  let pa := x.admitBase.toNat % 2 ^ 48 / 128 * 128 + x.consumed.toNat % 2 ^ x.admitLog.toNat * 128
  let r := s.readBytes pa 128
  (x.state = .live ∨ s.tornDown c = true) ∧ x.consumed ≠ x.target ∧ (∀ u ∈ unitsOf pa 128, s.sramOn u = true ∨ inHbm u = true) ∧
    r.1.admitCode c (wordsOf 16 r.2.1) ≠ Code.queueFull

/-- A launch is ready (R91, R95): it was queued in an earlier cycle, and every bit of its wait mask was set by one and is still set. -/
def Sys2Proof.Spec.LaunchReady (s : State) (c : BitVec 6) (l : Launch) : Prop :=
  l.cycle < s.cycle ∧ recordWait l.words &&& ~~~((s.ctx c).evec &&& ~~~((s.ctx c).eventsAt s.cycle).2) = 0

/-- What a pass does for the launches of a context (R91): in admission order each one that is ready starts, before the next is examined, up to one that
cannot be placed. -/
def Sys2Proof.Spec.Serves (c : BitVec 6) : List Launch → State → State → Prop
  | [], s, s1 => s1 = s
  | l :: r, s, s1 =>
    (¬LaunchReady s c l → Serves c r s s1) ∧
    (LaunchReady s c l → (s.startLaunch c l = none → s1 = s) ∧ ∀ s2, s.startLaunch c l = some s2 → Serves c r s2 s1)

/-- The dispatcher (R88, R91, R93 to R95): a ring record is taken in order and queued, or answered in place; a pass takes the contexts in turn after the one
that last started a launch, and their launches in order; it starts nothing for a context that is not live, and no launch queued, or made ready by an event set,
in this cycle; a launch that starts has every thread placed. -/
def Sys2Proof.Spec.Dispatcher : Prop :=
  (∀ (s : State) (c : BitVec 6), Admits s c →
    let pa := (s.ctx c).ringRecord
    let r := s.readBytes pa 128
    let ws := wordsOf 16 r.2.1
    let code := r.1.admitCode c ws
    let s2 := r.1.setCtx c { r.1.ctx c with consumed := (s.ctx c).consumed + 1 }
    (code = 0x00 → ∃ l : Launch, l.words = ws ∧ l.ring = some pa ∧ l.cycle = s.cycle ∧ l.by' = none ∧ l.origin = BitVec.ofNat 48 (2 ^ 47 + (s.ctx c).consumed.toNat) ∧
      exec (.ringAdmission c) s = .next (s2.queueLaunch c l)) ∧
    (code ≠ 0x00 → exec (.ringAdmission c) s = .next (s2.writeBytes (pa + 0x38) (leBytes ((code.toNat ||| 0x80) * 2 ^ 56) 8) false))) ∧
  (∀ (s : State) (c : BitVec 6), ¬Admits s c → exec (.ringAdmission c) s = .next s) ∧
  (∀ s : State, ∃ σ : Nat → State, σ 0 = s ∧ exec .launchStart s = .next (σ 64) ∧ ∀ k < 64,
    let y := σ k
    let c := BitVec.ofNat 6 (s.lastCtx + 1 + k)
    ((y.ctx c).state = .live → y.tornDown c = false → Serves c (y.ctx c).queue y (σ (k + 1))) ∧
    (((y.ctx c).state ≠ .live ∨ y.tornDown c = true) → σ (k + 1) = y)) ∧
  (∀ s : State, (∀ p ∈ s.ctxs, p.2.state ≠ .live) → exec .launchStart s = .next s) ∧
  (∀ (s s1 : State) (c : BitVec 6) (l : Launch), s.startLaunch c l = some s1 →
    (s1.ctx c).queue = (s.ctx c).queue.erase l ∧ s1.lastCtx = c.toNat ∧ s1.mem = s.mem ∧
    ∃ x : Running, (s1.ctx c).running = (s.ctx c).running ++ [x] ∧ x.left = recordStages l.words * recordCrews l.words * recordTasks l.words) ∧
  (∀ (s s1 : State) (c : BitVec 6) (l : Launch), (s.ctx c).state = .live → s.tornDown c = false → (s.ctx c).queue = [l] →
    l.cycle < s.cycle → recordWait l.words &&& ~~~((s.ctx c).evec &&& ~~~((s.ctx c).eventsAt s.cycle).2) = 0 → s.startLaunch c l = some s1 → (∀ x, x ≠ c → (s.ctx x).state ≠ .live ∨ (s.ctx x).queue = []) →
    exec .launchStart s = .next s1) ∧
  (∀ s : State, (∀ c : BitVec 6, (s.ctx c).state = .live → ∀ l ∈ (s.ctx c).queue,
      s.cycle ≤ l.cycle ∨ recordWait l.words &&& ~~~((s.ctx c).evec &&& ~~~((s.ctx c).eventsAt s.cycle).2) ≠ 0) →
    exec .launchStart s = .next s)

/-- R88, R89: where the threads of a launch that starts stand, and what each of them starts with: stage g and crew c on the physical cluster of logical
cluster first + g x C + c, task t on tile t mod 4 of it, in a user slot that was free. -/
def Sys2Proof.Spec.TasksPlaced : Prop :=
  ∀ (s s1 : State) (ctx : BitVec 6) (l : Launch), s.startLaunch ctx l = some s1 →
    let w (k : Nat) : Word := l.words.getD k 0
    let C := (w 5).toNat / 2 ^ 16 % 2 ^ 16
    let T := (w 5).toNat % 2 ^ 16
    ∀ g c t : Nat, g ≤ (w 5).toNat / 2 ^ 32 % 2 ^ 4 → c < C → t < T → ∃ cl slot u,
      s.mapped (s.ctx ctx) ((w 5).toNat / 2 ^ 36 % 2 ^ 9 + g * C + c) = some cl ∧ slot < 248 ∧
      s.thread? (tileId cl (t % 4)) slot = none ∧ s1.thread? (tileId cl (t % 4)) slot = some u ∧
      u.pc = (w 0).truncate 48 ∧ u.ctx = ctx ∧ u.pri = (w 6).extractLsb' 0 3 ∧ u.status = .ready ∧
      u.reg 0 = ⟨w 1, false, none⟩ ∧ u.reg 1 = ⟨w 2, false, none⟩ ∧ u.reg 2 = ⟨w 3, false, none⟩ ∧ u.reg 3 = ⟨w 4, false, none⟩ ∧
      u.reg 4 = ⟨BitVec.ofNat 64 (t + c * 2 ^ 16 + g * 2 ^ 32), false, none⟩ ∧ u.reg 5 = ⟨w 5, false, none⟩ ∧
      (∀ q : GReg, 6 ≤ q.toNat → u.reg q = ⟨0, false, none⟩) ∧
      u.launch = some (s.ctx ctx).launches ∧ u.sid = mix l.origin.toNat ((g * C + c) * T + t)

/-- LAUNCH, and the dispatcher that admits ring records and starts queued ones (R88 to R95). That a task's PC is truncated to 48 bits is the model's reading
(entry 35), and so is that a ring record is refused in its place while a tear-down waits (entry 38). Model choices: entries 33, 35, 38, 48, 53, 63, 64, 65 of
the log. -/
def Obligations.Launches : Prop := LaunchRecord ∧ Dispatcher ∧ TasksPlaced

/-- The event vector (R94, R337): EVSET after its release, EVCLR, over which a set of the same cycle wins, and WFE with its latch. -/
def Sys2Proof.Spec.EventVector : Prop :=
  ∀ (s : State) (t : Thread), Runs s t →
    (∀ n : BitVec 8, s.released s.cur.1 s.cur.2 .dev = false → Waits (.evset n) s s t (.release .dev)) ∧
    (∀ n : BitVec 8, s.released s.cur.1 s.cur.2 .dev = true → ∃ s1 t1, s1.me = some t1 ∧ Completes (.evset n) s s1 t1 ∧
      (∀ k, (s1.ctx t.ctx).evec.getLsbD k = ((s.ctx t.ctx).evec.getLsbD k || decide (k = n.toNat))) ∧
      (∀ k, ((s1.ctx t.ctx).eventsAt s.cycle).1.getLsbD k = (((s.ctx t.ctx).eventsAt s.cycle).1.getLsbD k || decide (k = n.toNat))) ∧
      (∀ c, c ≠ t.ctx → s1.ctx c = s.ctx c) ∧ s1.mem = s.mem ∧
      (∀ tile slot u, s.thread? tile slot = some u →
        s1.thread? tile slot = some (if u.ctx = t.ctx then { u with latch := true } else u))) ∧
    (∀ n : BitVec 8, ∃ s1, Completes (.evclr n) s s1 t ∧ s1 = s.setCtx t.ctx { s.ctx t.ctx with evec := (s1.ctx t.ctx).evec } ∧
      ∀ k, (s1.ctx t.ctx).evec.getLsbD k =
        ((s.ctx t.ctx).evec.getLsbD k && (decide (k ≠ n.toNat) || ((s.ctx t.ctx).eventsAt s.cycle).1.getLsbD k))) ∧
    (t.latch = true → Completes .wfe s s { t with latch := false }) ∧
    (t.latch = false → Waits .wfe s s t .wfe)

/-- R60, R61, R268: a thread that is stopped, or whose last instruction is in the pipeline, is not ready; of the ready ones the Wheel issues the first of the
highest effective priority in cyclic order from ptr, ages the others, and moves ptr past it; before an image runs nothing issues. -/
def Sys2Proof.Spec.WheelOrder : Prop :=
  (∀ (s : State) (tile slot : Nat) (t : Thread),
    (∀ x, t.status = .stopped x → s.ready tile slot t = false) ∧
    (s.cycle < t.pipe → s.ready tile slot t = false) ∧
    (t.status = .ready → t.pipe ≤ s.cycle → (s.ctx t.ctx).state = .live → s.ready tile slot t = true) ∧
    ((s.ctx t.ctx).state = .saved → s.ready tile slot t = false) ∧
    (∀ rs n c, t.status = .blocked (.regs rs) n c → t.pipe ≤ s.cycle → (s.ctx t.ctx).state = .live → t.held = [] →
      (s.ready tile slot t = true ↔ Full t rs))) ∧
  (∀ (s : State) (tile : Nat),
    let x := s.tile tile
    let A := x.agestep.toNat
    let eff (t : Thread) : Nat := min 7 (t.pri.toNat + t.age / A)
    let turn (k : Nat) : Nat := (k + 256 - x.ptr) % 256
    (x.threads.map (·.1)).Pairwise (· < ·) → (∀ p ∈ x.threads, p.1 < 256) → x.ptr < 256 →
    ((s.boot.phase ≠ .running ∨ ∀ p ∈ x.threads, s.ready tile p.1 p.2 = false) → s.wheel tile = .next s) ∧
    (∀ best t, s.boot.phase = .running → (best, t) ∈ x.threads → s.ready tile best t = true →
      (∀ p ∈ x.threads, s.ready tile p.1 p.2 = true → p.1 ≠ best → eff p.2 < eff t ∨ (eff p.2 = eff t ∧ turn best < turn p.1)) →
      s.wheel tile = (s.setTile tile { x with
        threads := x.threads.map fun p =>
          (p.1, { p.2 with
            age := if p.1 = best then 0 else if s.ready tile p.1 p.2 = true then min (p.2.age + 1) 0xFFFFF else p.2.age
            pipe := if p.1 = best then s.cycle + 8 else p.2.pipe }),
        ptr := (best + 1) % 256 }).issueSlot tile best))

/-- SETPRI, YIELD and TID, EVSET, EVCLR and WFE, and the Wheel (R59 to R61, R64, R94, R337). That the algorithm of R61 stands against the cycles of R340 is
the model's reading (entry 93). Model choices: entries 26, 93 of the log. -/
def Obligations.SchedulingAndEvents : Prop := Scheduling ∧ EventVector ∧ WheelOrder

/-- R71: FETST with a full destination gd writes 1 for a full ga and 0 for an empty one, and never waits for ga, which may be gd; an encoding with ea set is
refused. That an empty gd makes it wait, also where it is ga, is the model's reading (entry 31 of the log) and stands in EmptyOperands. -/
def Obligations.TestFull : Prop :=
  (∀ (s : State) (t : Thread) (d a : GReg), Runs s t → Full t [d] →
    ((t.reg a).prod = none → Completes (.fetst d a) s s (t.write d 1 false)) ∧
    ((t.reg a).prod ≠ none → Completes (.fetst d a) s s (t.write d 0 false))) ∧
  (∀ d a : GReg, decodeTableWord 32 (encodeNat (.fetst d a)) = some (.fetst d a) ∧ IllegalWord (encodeNat (.fetst d a) + 2 ^ 20))

/-- FECAN (R72): an empty register is filled with CANCELLED and its producer withdrawn, one that waits in a RECV with every register of that RECV, an innings granted in this cycle is released, a response of this cycle
is discarded, and a register that is full otherwise is left. -/
def Obligations.CancelProducer : Prop :=
  ∀ (s : State) (t : Thread) (d : GReg), Runs s t →
    let granted := (t.reg d).prod = none ∧ ∃ l, s.innings s.cur.1 s.cur.2 t = some l ∧ l.d = d ∧ l.cycle = s.cycle
    let out := t.write d (status Code.cancelled) false
    (granted → Completes (.fecan d) s (s.lfree s.cur.1 s.cur.2 t).1 out) ∧
    (¬granted → (t.reg d).prod = none → t.fills.1 = s.cycle → d ∈ t.fills.2 → Completes (.fecan d) s s out) ∧
    (¬granted → (t.reg d).prod = none → (t.fills.1 ≠ s.cycle ∨ d ∉ t.fills.2) → Completes (.fecan d) s s t) ∧
    (∀ rid, (t.reg d).prod = some (.access rid) →
      Completes (.fecan d) s (s.setTile s.cur.1 { s.tile s.cur.1 with accs := (s.tile s.cur.1).accs.map fun x => if x.rid = rid then x.orphan else x }) out) ∧
    (∀ h, (t.reg d).prod = some (.hget h) → Completes (.fecan d) s s out) ∧
    (∀ n, (t.reg d).prod = some (.lease n) ∨ (t.reg d).prod = some .vred → Completes (.fecan d) s (s.withdraw s.cur.1 s.cur.2 t d) out) ∧
    ((t.reg d).prod = some .recv → ∃ u : Thread, Completes (.fecan d) s s u ∧ u = { t with regs := u.regs } ∧
      ∀ r, u.reg r = if (t.reg r).prod = some .recv then ⟨status Code.cancelled, false, none⟩ else t.reg r)

/-- A stopped thread goes on at a restart point (R230, R246, R249): its record stays held until it is in the ring, each register that waits for an HGET has the
request sent anew, or PEER_LOST, and the others are as they were. -/
def Sys2Proof.Spec.Resumed (s s1 : State) (tile slot : Nat) (t : Thread) (i : TrapInfo) (pc : Pc) : Prop :=
  let back : Thread := { t with pc := pc, loops := (if i.popLoop then t.loops.drop 1 else t.loops), status := .ready, instr := none, age := 0 }
  let asks (d : GReg) (dev : BitVec 11) : Prop := ∃ rid k a h, (t.reg d).prod = some (.access rid) ∧ s.access? rid = some (k, a) ∧ a.pkt.body = .hget h ∧
    dev = handleDev a.handle
  s1.mem = s.mem ∧
  (s1.tile tile).records = (s.tile tile).records ++ (if i.written then [] else [(t.ctx, decide (248 ≤ slot), trapPieces tile slot t i)]) ∧
  ((∀ d dev, ¬asks d dev) → s1.thread? tile slot = some back ∧ s1.inflight = s.inflight) ∧
  ((∀ p ∈ s.tiles, ∀ a ∈ p.2.accs, a.rid < s.serial) → (∀ d rid, (t.reg d).prod = some (.access rid) → rid < s.serial) → ∃ u, s1.thread? tile slot = some u ∧ u = { back with regs := u.regs } ∧
    ∀ d, ((∀ dev, ¬asks d dev) → u.reg d = t.reg d) ∧
      (∀ dev, asks d dev → s.reach dev = true → ∃ rid, s.serial ≤ rid ∧ (u.reg d).prod = some (.access rid)) ∧
      (∀ dev, asks d dev → s.reach dev = false → u.reg d = ⟨status Code.peerLost, false, none⟩))

/-- ERET and trap.gval (R230, R246, R248, R249): resume, skip and kill of the selected stopped thread, bit 50, and a register repaired. Model choices: entry
37 of the log. -/
def Obligations.ReturnFromTrap : Prop :=
  (∀ (s : State) (f : Thread), Runs s f → Firmware s →
    (s.selectedTrap s.cur.1 = none → Completes .eret s (s.setTrapDone s.cur.1 false) f) ∧
    (∀ slot t i, s.selectedTrap s.cur.1 = some (slot, t, i) → slot ≠ s.cur.2 → t.regs.length = 16 →
      let goes (pc : Pc) : Prop := ∃ s1, Resumed s s1 s.cur.1 slot t i pc ∧ Completes .eret s (s1.setTrapDone s.cur.1 true) f
      let a := (s.tile s.cur.1).trapSel.toNat / 2 ^ 48 % 4
      (a = 0 ∨ a = 3 → goes i.resume) ∧ (a = 1 → goes i.skip) ∧
      (a = 2 → ∃ f1, ((s.kill s.cur.1 slot t).setTrapDone s.cur.1 true).me = some f1 ∧
        Completes .eret s ((s.kill s.cur.1 slot t).setTrapDone s.cur.1 true) f1))) ∧
  (∀ (s : State) (tile : Nat) (c : BitVec 6) (v : Word),
    (s.selectedTrap tile = none → exec (.trapGvalWrite tile c v) s = .next s) ∧
    (∀ slot t i, s.selectedTrap tile = some (slot, t, i) →
      let d : GReg := (s.tile tile).trapSel.extractLsb' 44 4
      exec (.trapGvalWrite tile c v) s = .next ((s.withdraw tile slot t d).setThread tile slot ((t.cancel d).write d v false))))

/-! ### Remote accesses, packets and windows -/

/-- The issue of every remote access (R213, R214, R109, R216): its checks in order, the unreachable device, the full table of accesses, and
the request with an empty destination, which in class O waits for those the thread made from another seat. That a class O access waits behind one that its
thread made from another tile is the model's reading (entry 28). Model choices: entries 28, 52, 58 of the log. -/
def Obligations.RemoteIssue : Prop :=
  ∀ (s : State) (t : Thread) (i : Instr) (f : RemoteForm), remoteForm i = some f → Runs s t → Full t (f.srcs ++ f.d.toList) →
    let va := t.val f.a + f.off
    (va.toNat % f.sz.bytes ≠ 0 → Traps i s s t Cause.align va) ∧
    (va.toNat % f.sz.bytes = 0 → ∀ s1,
      (∀ c, s.translate (s.who t) va = (s1, .bad c) → ∃ t1, s1.me = some t1 ∧ Traps i s s1 t1 c va) ∧
      (∀ pa x w r e, s.translate (s.who t) va = (s1, .ok (.mem pa x w r) e) → Traps i s s1 t Cause.prot va) ∧
      (∀ dev win wo cls x w r e, s.translate (s.who t) va = (s1, .ok (.remote dev win wo cls x w r) e) →
        let k := f.cls.code2 cls
        (f.kind.allowed x w r = false → Traps i s s1 t Cause.prot va) ∧
        (f.kind.allowed x w r = true → e.revoked = true → Traps i s s1 t Cause.window va) ∧
        (f.kind.allowed x w r = true → e.revoked = false → t.pois f.a = true → Traps i s s1 t Cause.poison (f.a.zeroExtend 64)) ∧
        (f.kind.allowed x w r = true → e.revoked = false → t.pois f.a = false →
          (s1.reach dev = false → Completes i s s1 (writeTo { t with losses := t.losses.lose k dev } f.d (status Code.peerLost))) ∧
          (s1.reach dev = true → s1.accessRoom s.cur.1 = false → Waits i s s1 t .accessRoom) ∧
          (s1.reach dev = true → s1.accessRoom s.cur.1 = true → k = 1 → s1.oBehind s.cur.1 s.cur.2 dev = true → Waits i s s1 t (.oOrder dev)) ∧
          (s1.reach dev = true → s1.accessRoom s.cur.1 = true → (k = 1 → s1.oBehind s.cur.1 s.cur.2 dev = false) → ∃ s2 rid,
            s1.request s.cur.1 s.cur.2 t { s1.header dev (s1.homeTile dev win wo) s.cur.1 t.ctx k (f.body t wo).op with win, gen := e.gen } true f.d
              (some (e.base, e.size)) 0 (f.poison t)
              (f.body t wo) = (s2, rid) ∧
            Completes i s s2 (match f.d with
              | some d => t.markEmpty d (.access rid)
              | none => t)))))

/-- R215: a request at its target waits at the bank of its unit when its window lets it through, and is logged and answered with the code of
the first failing check otherwise; a walk that reads a poisoned entry counts POISON at an issuing tile of this device (R108). -/
def Sys2Proof.Spec.RemoteRequests : Prop :=
  ∀ (s : State) (p : Packet) (i : Instr) (wo n : Nat) (rd w : Bool), requestNeeds p = some (i, wo, n, rd, w) →
    let x := s.window p.hdr.win.toNat
    let closed := x.state ≠ .opened ∨ (p.hdr.gen ≠ 0 ∧ p.hdr.gen ≠ x.gen)
    let logged (y : State) : BitVec 32 := Tab.get 0 (y.die 0).counts 9
    let refused (c : BitVec 8) : Prop := ∃ s2 : State, s2.mem = s.mem ∧ s2.banks = s.banks ∧
      logged s2 = (if logged s = BitVec.allOnes 32 then logged s else logged s + 1) ∧ exec i s = .next (s2.reply p 0 (.error c))
    let lets := ¬closed ∧ (s.ctx x.ctx).state.suspended = false ∧ wo + n ≤ x.size.toNat ∧ (rd = true → x.rd = true) ∧ (w = true → x.w = true)
    (closed → refused 0x17) ∧
    (¬closed → (s.ctx x.ctx).state.suspended = true → refused 0x03) ∧
    (¬closed → (s.ctx x.ctx).state.suspended = false → x.size.toNat < wo + n → refused 0x19) ∧
    (¬closed → (s.ctx x.ctx).state.suspended = false → wo + n ≤ x.size.toNat → (rd = true ∧ x.rd = false) ∨ (w = true ∧ x.w = false) → refused 0x18) ∧
    (lets → ∀ s1 es r bad, s.translateIn [] 1 (clusterOf p.hdr.tile.toNat) x.ctx (x.base + BitVec.ofNat 64 wo) = (s1, es, r, bad) →
      let fits : Prop := ∃ pa y lw lr e, r = .ok (.mem pa y lw lr) e ∧ s1.sramOn pa = true ∧ (rd = true → lr = true) ∧ (w = true → lw = true)
      (¬fits → refused 0x1A ∧ (bad = true → p.hdr.sdev = s.fabSelf → ∀ k y, s.access? p.rid = some (k, y) → ∃ s2, exec i s = .next s2 ∧
        s2.tctx k p.hdr.ctx = (s1.countAll ⟨p.hdr.ctx, k, y.slot, y.inst, y.pc, 0, k, y.slot, y.inst⟩ [Class.psn]).tctx k p.hdr.ctx)) ∧
      (∀ pa y lw lr e, r = .ok (.mem pa y lw lr) e → s1.sramOn pa = true → (rd = true → lr = true) → (w = true → lw = true) → ∃ k,
        exec i s = .next ((s1.setBank (paTile pa * 16 + paBank pa)
          (s1.bank (paTile pa * 16 + paBank pa) ++ [.remote p pa x.ctx (e.base, e.size) k])).tickSerial)))

/-- A request that the slot of this cycle can serve (R101, R118, R296): the slot is its class's, it has reached the bank, and no store of a bridge buffer
to a unit that it reads is pending; a barrier request once its cycle is over. -/
def Sys2Proof.Spec.Present (s : State) (k : Nat) (r : BankReq) : Prop :=
  ((OwnTile k r ∧ s.cycle % 8 = 2) ∨ (¬OwnTile k r ∧ s.cycle % 8 = 6)) ∧ match r with
    | .thread _ _ _ op pa _ c .. => (if op.isBarrier then c < s.cycle else c ≤ s.cycle) ∧ ∀ e ∈ s.bridge, match op with
      | .load .. | .refill _ | .amo .. | .cas .. => e.entry.unit ≠ pa - pa % 8
      | .bread .. => e.entry.unit / 16 ≠ pa / 16
      | .descriptor .. => e.entry.unit / 64 ≠ pa / 64
      | .binit _ | .barr .. | .bexp _ => True
    | _ => True

/-- BANK_SLOT_SERVICE (R101, R102, R236): in the slot of a class, once in a cycle, a bank serves the class's oldest request that is present and passes its order
point; at any other time nothing happens. -/
def Sys2Proof.Spec.BankSlot : Prop :=
  ∀ (s : State) (tile bank : Nat),
    let k := tile * 16 + bank
    (((s.cycle % 8 ≠ 2 ∧ s.cycle % 8 ≠ 6) ∨ s.slotUsed k = true) → exec (.bankSlotService tile bank) s = .next s) ∧
    (s.slotUsed k = false → (∀ x ∈ s.bank k, s.bankLive x = true) → ∀ l r rest, s.bank k = l ++ r :: rest →
      (∀ x ∈ l, ¬Present s k x) → Present s k r →
      let s0 := s.contend k (s.bank k)
      let serves (s1 : State) : Prop :=
        let s2 := (s1.setBank k (l ++ rest)).useSlot k
        (∀ p pa c page n, r = .remote p pa c page n → exec (.bankSlotService tile bank) s = .next (s2.performRequest p pa)) ∧
        (∀ tl n, r = .store tl n → exec (.bankSlotService tile bank) s = .next (s2.serveStore tl n)) ∧
        (∀ tl slot inst op pa size c page n, r = .thread tl slot inst op pa size c page n →
          exec (.bankSlotService tile bank) s = s2.serveThread tl slot op pa size)
      (s.bankPoint k r = none → serves s0) ∧
      (∀ x s1, s.bankPoint k r = some x → s0.decideAt x.1 x.2.1 x.2.2.1 x.2.2.2 = .go s1 → serves s1)) ∧
    -- where no order log decides, the requests do not contend before their turn
    ((∀ r ∈ s.bank k, ∀ x, s.bankPoint k r = some x → (s.ctx x.1).mode = 0) → s.contend k (s.bank k) = s)

/-- R101: the slots of the engines: what the Millstone reads for weights, scales and rows in slots 0 and 4, what the Tailrace does at the banks in 1 and 5,
and the bank of every byte of an access of a Flume in 3 and 7. -/
def Sys2Proof.Spec.EngineSlots : Prop :=
  (∀ (s : State) (cl k : Nat) (x : MillQueued), s.millNow cl k = some x ↔ s.millReady cl k = some x ∧ match x.cmd with
    | .scld .. | .wld .. => s.cycle % 4 = 0
    | .mma _ _ _ rows .. => (∃ r ∈ rows, r.1 ≠ none) → s.cycle % 4 = 0
    | .che _ _ _ _ _ _ _ mask _ _ => mask ≠ none → s.cycle % 4 = 1
    | .asave .. | .aload .. => s.cycle % 4 = 1
    | .scales .. | .grant => True) ∧
  (∀ (s : State) (ks : List Nat), (s.flumeSlot ks = true ↔ ∀ k ∈ ks, s.cycle % 4 = 3 ∧ s.slotUsed k = false) ∧
    ∀ k ∈ ks, (s.useSlots ks).slotUsed k = true) ∧
  (∀ pa n, (∀ j < n, inSram (pa + j) = true) → ∀ j < n, bankOf (pa + j) ∈ banksOf pa n)

/-- What the bank of its unit does with a request of another device or of this one, and what it answers (R131, R215, R252, R293). -/
def Sys2Proof.Spec.RequestPerformed : Prop :=
  ∀ (s : State) (p : Packet) (pa wo : Nat) (z : AtSize), Memory.wf s.mem = true → pa % z.bytes = 0 →
    let s1 := s.performRequest p pa
    let gen := (s.window p.hdr.win.toNat).gen
    (∀ v q sem, (p.body = .store wo z v q ∨ p.body = .wim wo z v q sem) →
      leNat (memRead s1.mem pa z.bytes) = v.toNat % 2 ^ (8 * z.bytes) ∧ (∀ a, (a < pa ∨ pa + z.bytes ≤ a) → s1.byte a = s.byte a) ∧
      ∃ s2 : State, s1 = s2.reply p gen .ack ∧
        (p.body = .wim wo z v q sem → (s.sem (paTile pa) sem.toNat).setAt ≠ some s.cycle → Bumped (s.sem (paTile pa) sem.toNat) (s2.sem (paTile pa) sem.toNat) 1)) ∧
    (p.body = .load wo z → ∃ s2 : State, ∃ bad, s2.mem = s.mem ∧
      s1 = s2.reply p gen (.data (BitVec.ofNat 64 (leNat (memRead s.mem pa z.bytes))) bad []) ∧
      ((∀ f ∈ s.flaws, ∀ u ∈ unitsOf pa z.bytes, f.at u = false) → (bad = true ↔ ∃ u ∈ unitsOf pa z.bytes, u ∈ s.poison))) ∧
    (∀ op v q, p.body = .amo wo z op v q → let r := s.bankAmo op z pa v q
      s1 = r.state.reply p gen (.data (BitVec.ofNat 64 r.old) r.poisoned r.classes)) ∧
    (∀ e v q q1, p.body = .cas wo z e v q q1 → let r := s.bankCas z pa e v q
      s1 = r.state.reply p gen (.data (BitVec.ofNat 64 r.old) r.poisoned r.classes))

/-- What a bank does for a thread of this device whose load or atomic has waited for its slot: it completes as at issue (R101, R293, R315), and the thread's
next instruction issues no earlier than in the next cycle (R319). A Flume descriptor gives its command, which joins the queue (R198). -/
def Sys2Proof.Spec.ThreadServed : Prop :=
  ∀ (s : State) (tile slot pa size : Nat) (t : Thread), s.thread? tile slot = some t →
    let t0 : Thread := { t with pipe := max t.pipe (s.cycle + 1) }
    let s0 : State := ({ s with cur := (tile, slot) } : State).setMe t0
    let ends (op : BankOp) (s1 : State) (d : GReg) (v : Word) (cs : List Nat) (p : Bool) : Prop := ∃ t1,
      ((s1.setMe t0).countAll (s1.who t0) cs).me = some t1 ∧
      s.serveThread tile slot op pa size = .next { ((s1.setMe t0).countAll (s1.who t0) cs).retireAt tile slot (t1.write d v p) size with cur := s.cur }
    (∀ z d, let r := s0.readBytes pa z.bytes
      ends (.load z d) r.1 d (extended z (leNat r.2.1)) (if r.2.2 then [Class.psn] else []) r.2.2) ∧
    (∀ op z d v q, let r := s0.bankAmo op z pa v q
      ends (.amo op z d v q) r.state d (BitVec.ofNat 64 r.old) (r.classes ++ if r.poisoned then [Class.psn] else []) (r.poisoned || q)) ∧
    (∀ z d e v q src, let r := s0.bankCas z pa e v q
      ends (.cas z d e v q src) r.state d (BitVec.ofNat 64 r.old) (if r.poisoned then [Class.psn] else []) (r.poisoned || src)) ∧
    (∀ k i va regs, let r := s0.readBytes pa 64
      let x := r.1.flume (flumeOf tile)
      let len := if k.kind = .cpysel then manifestAt r.2.1 4 4 else manifestAt r.2.1 0 4 * manifestAt r.2.1 4 4 * manifestAt r.2.1 8 4
      (k.kind = .cpys ∨ k.kind = .cpysel) → (∀ j < 8, r.1.poison.contains (pa + 8 * j) = false) → Describes k.kind r.2.1 → len ≠ 0 → Clean t regs →
      x.queue.length < 32 →
      let y : FRun := { number := r.1.serial, cmd := { k with desc := r.2.1, len := len }, pos := 0, done := false, fault := none, packets := [], sel := none, parts := [], classes := [] }
      s.serveThread tile slot (.descriptor k i va regs) pa size =
        .next { ({ r.1.setFlume (flumeOf tile) { x with queue := x.queue ++ [y] } with serial := r.1.serial + 1 } : State).retireAt tile slot t0 i.size with cur := s.cur })

/-- A request at its target: the window check, the slot of the bank, and what is done and answered there (R101, R102, R131, R215, R236). That the answer
carries the window's generation of its performance is the model's choice (entry 79), and so is that an error carries generation 0 (entry 98) and that a
poisoned table entry counts POISON once (entry 52). Model choices: entries 17, 52, 75, 79, 98 of the log. -/
def Obligations.BankRequests : Prop := RemoteRequests ∧ BankSlot ∧ EngineSlots ∧ RequestPerformed ∧ ThreadServed

/-- A response has settled an access: it is gone, and class A entropy has moved on with the congestion mark (R210, R216). -/
def Sys2Proof.Spec.Settled (s s1 : State) (p : Packet) (tile : Nat) (x : Access) : Prop :=
  s1.mem = s.mem ∧ (∀ y ∈ (s1.tile tile).accs, y.rid ≠ p.rid) ∧
  ∀ dev : BitVec 11, Tab.get 0 (s1.tile p.hdr.tile.toNat).entropy dev.toNat =
    Tab.get 0 (s.tile p.hdr.tile.toNat).entropy dev.toNat + if x.cls = 2 ∧ p.hdr.cm = 1 ∧ dev = x.dev then (1 : BitVec 4) else 0

/-- The TLB entry an access went through, unless filled since, learns from its response (R216). -/
def Sys2Proof.Spec.Learnt (s s1 : State) (p : Packet) (x : Access) (f : TlbEntry → TlbEntry) : Prop :=
  (s1.tile p.hdr.tile.toNat).tlb = (s.tile p.hdr.tile.toNat).tlb.map fun e =>
    if x.page.map (·.1) = some e.base ∧ e.ctx = p.hdr.ctx ∧ e.filled ≤ x.since then f e else e

/-- RESPONSE and ERROR_RESPONSE (R126, R210, R214, R216, R252): a response settles its access and fills the register that waits for it, poisoned with its data or
its operands; an HGET that its home has only accepted goes on waiting (R124); the entry it went through, unless filled since, learns the window's generation or
its revocation, class A entropy moves on with the congestion mark, and
the events it carries are counted at the issuing tile. -/
def Sys2Proof.Spec.Responses : Prop :=
  (∀ (s : State) (p : Packet), s.access? p.rid = none → exec (.response p) s = .next s ∧ exec (.errorResponse p) s = .next s) ∧
  (∀ (s : State) (p : Packet) (tile : Nat) (x : Access) (d : GReg) (t : Thread), s.access? p.rid = some (tile, x) → x.rid = p.rid →
    x.dst = some d → s.thread? tile x.slot = some t → t.inst = x.inst → t.regs.length = 16 → (t.reg d).prod = some (.access p.rid) → t.status = .ready →
    let who : Issuer := ⟨p.hdr.ctx, tile, x.slot, x.inst, x.pc, 0, tile, x.slot, x.inst⟩
    let filled (s1 : State) (v : Word) (q : Bool) : Prop := ∃ t1, s1.thread? tile x.slot = some t1 ∧ t1.regs = (t.write d v q).regs ∧
      t1.pc = t.pc ∧ t1.status = .ready ∧ t1.fills.1 = s.cycle ∧ d ∈ t1.fills.2
    let settled (s1 : State) : Prop := Settled s s1 p tile x
    let learnt (s1 : State) (f : TlbEntry → TlbEntry) : Prop := Learnt s s1 p x f
    (∀ v q cs, p.body = .data v q cs → ∃ s1, exec (.response p) s =
        .next (s1.countAll who (if x.entry then cs ++ (if q then [Class.psn] else []) else [])) ∧
      filled s1 v (q || x.poison) ∧ settled s1 ∧ learnt s1 fun e => if e.gen = 0 then { e with gen := p.hdr.gen } else e) ∧
    (∀ v, p.body = .status v → ∃ s1, exec (.response p) s = .next (s1.brokenTrap tile x.slot x.inst x.handle) ∧ filled s1 v false ∧ settled s1) ∧
    (p.body = .ack → (∀ h, x.pkt.body ≠ .hget h) → ∃ s1, exec (.response p) s = .next s1 ∧ settled s1) ∧
    (∀ h, p.body = .ack → x.pkt.body = .hget h → ∃ s1, exec (.response p) s = .next s1 ∧ s1.mem = s.mem ∧ s1.thread? tile x.slot = some t ∧
      (s1.tile tile).accs = (s.tile tile).accs.map fun y => if y.rid = p.rid then { y with taken := true } else y) ∧
    (∀ c, p.body = .error c → ∃ s1 t1, exec (.errorResponse p) s = .next s1 ∧ filled s1 (status c) false ∧ settled s1 ∧
      (learnt s1 fun e => if c = Code.revoked then { e with revoked := true } else e) ∧ s1.thread? tile x.slot = some t1 ∧
      t1.losses.rejected = t.losses.rejected ++ if x.entry then [x.cls] else []))

/-- The answers to an access that fills no register, a store, a message or a request on a handle (R83, R126, R216): an acknowledgement settles it, a rejection
counts for FENCE as rejected, and a message that comes back as lost and undeliverable at its device. -/
def Sys2Proof.Spec.Acknowledgements : Prop :=
  ∀ (s : State) (p : Packet) (tile : Nat) (x : Access), s.access? p.rid = some (tile, x) → x.rid = p.rid → x.dst = none →
    (∀ t, s.thread? tile x.slot = some t → ∀ d n c, t.status ≠ .blocked (.htest p.rid d) n c ∧ t.status ≠ .blocked (.located p.rid) n c) →
    (p.body = .ack → (∀ h, x.pkt.body ≠ .hget h) → ∃ s1, exec (.response p) s = .next s1 ∧ Settled s s1 p tile x ∧
      (Learnt s s1 p x fun e => if e.gen = 0 then { e with gen := p.hdr.gen } else e) ∧ ∀ k j, s1.thread? k j = s.thread? k j) ∧
    (∀ c, p.body = .error c → ∃ s1, exec (.errorResponse p) s = .next s1 ∧ Settled s s1 p tile x ∧
      (Learnt s s1 p x fun e => if c = Code.revoked then { e with revoked := true } else e) ∧
      (∀ t, s.thread? tile x.slot = some t → t.inst = x.inst → s1.thread? tile x.slot = some { t with losses :=
        if x.entry then { t.losses with rejected := t.losses.rejected ++ [x.cls] } else { t.losses with lost := t.losses.lost ++ [(1, x.dev, true)] } }) ∧
      ((∀ t, s.thread? tile x.slot = some t → t.inst ≠ x.inst) → ∀ k j, s1.thread? k j = s.thread? k j))

/-- The answers that a blocked thread waits for (R231, R233): HTEST completes with the code in its register, MIGRATE with the acknowledgement of its home. -/
def Sys2Proof.Spec.AnswersBlocked : Prop :=
  ∀ (s : State) (p : Packet) (tile : Nat) (x : Access) (t : Thread) (n c : Nat), s.access? p.rid = some (tile, x) → x.rid = p.rid → x.dst = none →
    x.entry = false → s.thread? tile x.slot = some t →
    let goesOn (u : Thread) : Prop := ∃ s0, exec (.response p) s = .next (s0.retireAt tile x.slot u 4) ∧ Settled s s0 p tile x ∧
      ∀ k j, s0.thread? k j = s.thread? k j
    (∀ d v q cs, t.status = .blocked (.htest p.rid d) n c → p.body = .data v q cs → goesOn (t.write d v false)) ∧
    (t.status = .blocked (.located p.rid) n c → p.body = .ack → (∀ h, x.pkt.body ≠ .hget h) → goesOn t)

/-- The access a request leaves at its tile, and the response that settles it (R83, R126, R210, R212, R214, R216, R231, R233). That nothing of a generation is
learnt from an error response is the model's choice (entry 98). Model choices: entries 1, 21, 48, 52, 98 of the log. -/
def Obligations.RequestAndResponse : Prop := RequestSent ∧ Responses ∧ Acknowledgements ∧ AnswersBlocked

/-- A port of 12 lies in a direction that shortens the minimal path to a device (R209): port 4 x dimension + 2 x direction + plane. -/
def Sys2Proof.Spec.Shortens (s : State) (dev : BitVec 11) (k : Nat) : Prop :=
  let j := k / 4
  let at_ (x : BitVec 11) : Nat := if j = 0 then x.toNat / 128 else if j = 1 then x.toNat / 8 % 16 else x.toNat % 8
  let n := at_ s.fabDims + 1
  let ahead := (at_ dev + n - at_ s.fabSelf % n) % n
  k < 12 ∧ ahead ≠ 0 ∧ (k / 2 % 2 = 0 → 2 * ahead ≤ n) ∧ (k / 2 % 2 = 1 → n ≤ 2 * ahead)

/-- R208, R209: the port and the channel of a class A packet: in its adaptive channel, of the ports of its plane that shorten its path and have room the first
in its order of dimensions, or, where none has room, the route table's port in channel 0 or 1, which it then keeps to. -/
def Sys2Proof.Spec.Adapts (s : State) (p q : Packet) (k : Nat) : Prop :=
  let good (j : Nat) : Prop := Shortens s p.hdr.dev j ∧ j % 2 = p.hdr.ent.toNat / 8 ∧ Config.outRoom ((s.port j).channel 2).length = true
  let turn (j : Nat) : Nat := (j / 4 + 3 - p.hdr.ent.toNat % 3) % 3 * 2 + j / 2 % 2
  let escapes := k = s.tablePort p.hdr.dev ∧ (q.hdr.vc = 0 ∨ q.hdr.vc = 1)
  (p.hdr.vc ≠ 2 → escapes) ∧
  (p.hdr.vc = 2 → (∀ j, ¬good j) → escapes) ∧
  (p.hdr.vc = 2 → (∃ j, good j) → good k ∧ q.hdr.vc = 2 ∧ ∀ j, good j → turn k ≤ turn j)

/-- PACKET_HOP and CLASS_O_PASS (R207, R209, R211, R212): malformed packets are discarded, packets for this device arrive, the others leave by
one port, in class A one that shortens the path where there is room; class O requests of a thread pass in the order of their numbers. Model choices: entries
15, 48, 78 of the log. -/
def Obligations.PacketRouting : Prop :=
  (∀ (s : State) (p : Packet),
    (p.malformed = true → exec (.packetHop p) s = .next (s.logDiscard p)) ∧
    (p.malformed = false → p.hdr.cls ≠ 3 → p.hdr.dev = s.fabSelf → exec (.packetHop p) s = .next (s.arrive p)) ∧
    (p.malformed = false → p.hdr.cls ≠ 3 → p.hdr.dev ≠ s.fabSelf → s.reach p.hdr.dev = false → exec (.packetHop p) s = .next s) ∧
    (p.malformed = false → p.hdr.cls ≠ 3 → p.hdr.dev ≠ s.fabSelf → s.reach p.hdr.dev = true → ∃ k q,
      exec (.packetHop p) s = .next (s.setPort k { s.port k with out := (s.port k).out ++ [q] }) ∧ q.body = p.body ∧ q.hdr.dev = p.hdr.dev ∧
      q.hdr.seq = p.hdr.seq ∧ (p.hdr.cls = 1 → k = s.tablePort p.hdr.dev ∧ (q.hdr.vc = 0 ∨ q.hdr.vc = 1)) ∧
      (p.hdr.cls = 0 → k = s.tablePort p.hdr.dev ∧ (q.hdr.vc = 8 ∨ q.hdr.vc = 9)) ∧ (p.hdr.cls = 2 → Adapts s p q k)) ∧
    (p.malformed = false → p.hdr.cls = 3 →
      let leaves (goal : BitVec 11) (ph : BitVec 1) (vc : Nat) : Prop :=
        (s.reach goal = false → exec (.packetHop p) s = .next s) ∧
        (s.reach goal = true → ∃ q, let k := s.tablePort goal
          exec (.packetHop p) s = .next (s.setPort k { s.port k with out := (s.port k).out ++ [q] }) ∧ q.body = p.body ∧ q.hdr.dev = p.hdr.dev ∧
          q.hdr.mid = p.hdr.mid ∧ q.hdr.ph = ph ∧ (q.hdr.vc.toNat = vc ∨ q.hdr.vc.toNat = vc + 1))
      (p.hdr.ph = 0 → p.hdr.mid ≠ s.fabSelf → leaves p.hdr.mid 0 3) ∧
      (p.hdr.ph = 0 → p.hdr.mid = s.fabSelf → p.hdr.dev ≠ s.fabSelf → leaves p.hdr.dev 1 5) ∧
      (p.hdr.ph = 1 → p.hdr.dev ≠ s.fabSelf → leaves p.hdr.dev 1 5) ∧
      ((p.hdr.ph = 1 ∨ p.hdr.mid = s.fabSelf) → p.hdr.dev = s.fabSelf → exec (.packetHop p) s = .next (s.arrive p)))) ∧
  (∀ (s : State) (sdev stile : BitVec 11) (slot : BitVec 8),
    let k := threadKey sdev stile slot
    (s.nextO k = none → exec (.classOPass sdev stile slot) s = .next s) ∧
    (∀ p, s.nextO k = some p → p.hdr.seq = (Tab.get (0, false) s.oExpect k).1 ∧ exec (.classOPass sdev stile slot) s =
      .next { s with oHold := s.oHold.erase p, oExpect := Tab.put s.oExpect k (p.hdr.seq, true), inflight := s.inflight ++ [p.event] }))

/-- WOPEN (R218, R219, R253): alignment, the limits of the size word, a poisoned register, and the lowest free entry. -/
def Sys2Proof.Spec.WindowOpen : Prop :=
  ∀ (s : State) (t : Thread) (d : GReg) (a b : Src), Runs s t → Full t [a.reg, b.reg, d] →
    let i := Instr.wopen d a b
    let x := t.val a.reg
    let y := t.val b.reg
    let size := y.toNat % 2 ^ 36
    let bad := y.toNat / 2 ^ 36 % 2 ^ 26 ≠ 0 ∨ size = 0 ∨ size % 65536 ≠ 0 ∨ 2 ^ 48 < x.toNat + size
    (x.toNat % 65536 ≠ 0 → Traps i s s t Cause.align x) ∧
    (x.toNat % 65536 = 0 → bad → Traps i s s t Cause.prot y) ∧
    (x.toNat % 65536 = 0 → ¬bad → Poisons i s s t [a.reg, b.reg]) ∧
    (x.toNat % 65536 = 0 → ¬bad → Clean t [a.reg, b.reg] →
      ((∀ w < 1024, (s.window w).state ≠ .free) → Completes i s s (t.write d (status Code.noWindow) false)) ∧
      (∀ w, w < 1024 → (s.window w).state = .free → (∀ v < w, (s.window v).state ≠ .free) →
        Completes i s
          (s.setWindow w { state := .opened, gen := (s.window w).gen, ctx := t.ctx, base := x, size := BitVec.ofNat 36 size, rd := y.getLsbD 62, w := y.getLsbD 63 })
          (t.write d (BitVec.ofNat 64 ((s.window w).gen.toNat * 1024 + w)) false)))

/-- WREVOKE and its completion (R220): the generation moves at once, and the entry is free when no accepted request is left. -/
def Sys2Proof.Spec.WindowRevoke : Prop :=
  (∀ (s : State) (t : Thread) (d : GReg) (a : Src), Runs s t → Full t [a.reg, d] →
    let i := Instr.wrevoke d a
    let w := (t.val a.reg).toNat % 1024
    let x := s.window w
    let g : BitVec 14 := if x.gen.toNat = 16383 then 1 else x.gen + 1
    (1024 ≤ (t.val a.reg).toNat → Traps i s s t Cause.prot (t.val a.reg)) ∧
    ((t.val a.reg).toNat < 1024 → t.pois a.reg = true → Traps i s s t Cause.poison (a.reg.zeroExtend 64)) ∧
    ((t.val a.reg).toNat < 1024 → t.pois a.reg = false →
      (x.state = .free ∨ x.ctx ≠ t.ctx → Completes i s s (t.write d (status Code.notOwner) false)) ∧
      (x.state = .revoking → x.ctx = t.ctx → Completes i s s (t.write d (status Code.revoked) false)) ∧
      (x.state = .opened → x.ctx = t.ctx → s.windowBusy w = true → Waits i s (s.setWindow w { x with state := .revoking, gen := g }) t (.wrevoke w d)) ∧
      (x.state = .opened → x.ctx = t.ctx → s.windowBusy w = false → ∃ s1, s1.window w = { x with state := .free, gen := g } ∧ s1.mem = s.mem ∧ s1.tiles = s.tiles ∧
        Completes i s s1 (t.write d (BitVec.ofNat 64 (g.toNat * 1024 + w)) false)))) ∧
  (∀ (s : State) (w tile slot n c : Nat) (d : GReg) (t : Thread), (s.window w).state = .revoking →
    (s.windowBusy w = true → exec (.wrevokeComplete w) s = .next s) ∧
    (s.windowBusy w = false → s.revoker w = some (tile, slot, d) → s.thread? tile slot = some t → t.status = .blocked (.wrevoke w d) n c →
      exec (.wrevokeComplete w) s =
        .next ((s.setWindow w { s.window w with state := .free }).retireAt tile slot (t.write d (BitVec.ofNat 64 ((s.window w).gen.toNat * 1024 + w)) false) 4)))

/-- WOPEN, WREVOKE and the end of a revocation (R218 to R220). A poisoned window id or size word raises POISON. Model choices: entries 25, 48 of the log. -/
def Obligations.Windows : Prop := WindowOpen ∧ WindowRevoke

/-! ### Handles -/

/-- R26, R221, R223, R228: an invocation's handle names the entry it takes, which is then found through it and through no word of another context or
generation; no other entry changes. -/
def Sys2Proof.Spec.HandleEntry : Prop :=
  ∀ (s : State) (tile e : Nat) (c : BitVec 6) (u : HrtUse) (dev tl : BitVec 11), tile < 2048 → e < 4095 → u.isHandle = true →
    let r := s.openEntry tile e c u dev tl
    handleDev r.2 = s.fabSelf ∧ handleTile r.2 = tile ∧ handleSlot r.2 = e ∧ handleGen r.2 = (s.hrt tile e).gen ∧ handleCtx r.2 = c ∧ r.2.toNat % 1024 = 0 ∧
    (∃ x, r.1.lookup r.2 = some (x, u) ∧ x.ctx = c ∧ x.dev = dev ∧ x.tile = tl ∧ x.chain = [] ∧ x.dropped = false ∧ x.derived = false) ∧
    (∀ tile' e', (tile' ≠ tile ∨ e' ≠ e) → r.1.hrt tile' e' = s.hrt tile' e') ∧
    (∀ h, r.1.lookup h ≠ none → handleTile h = tile → handleSlot h = e → handleCtx h = c ∧ handleGen h = (s.hrt tile e).gen) ∧
    (∀ h, (s.freeEntry tile e).lookup h ≠ none → handleTile h ≠ tile ∨ handleSlot h ≠ e)

/-- INVOKE and INVOKEH (R130, R222, R228, R253, R361): the checks, POISON of a target, handle or PC, the release, the order of class O, the null handle of a full table, and the handle in gd with the message on its way. -/
def Sys2Proof.Spec.Invocation : Prop :=
  ∀ (s : State) (t : Thread) (d : GReg) (a b : Src), Runs s t → Full t [a.reg, b.reg, 0, 1, 2, 3, d] →
    let x := t.val a.reg
    let ends (i : Instr) (u : HrtUse) (dev tl : BitVec 11) (next : State → Word → State) : Prop :=
      (s.freeEntry? s.cur.1 = none → Completes i s s ({ t with spawns := t.spawns + 1 }.write d (handleWord s.fabSelf s.cur.1 4095 1 t.ctx) false)) ∧
      (∀ e, s.freeEntry? s.cur.1 = some e →
        let r := s.openEntry s.cur.1 e t.ctx u dev tl
        ∃ t1, (next r.1 r.2).me = some t1 ∧ Completes i s (next r.1 r.2) ({ t1 with spawns := t1.spawns + 1 }.write d r.2 false))
    let named : Scope := if x.getLsbD 22 then .dom else if dieOf s.cur.1 = dieOf (x.toNat % 2048) then .die else .dev
    Poisons (.invoke d a b) s s t [a.reg, b.reg] ∧
    (x.toNat % 1024 = 0 → (handleDev x = s.fabSelf → handleCtx x = t.ctx) → Poisons (.invokeh d a b) s s t [a.reg, b.reg]) ∧
    (Clean t [a.reg, b.reg] → s.target x = none →
      (s.released s.cur.1 s.cur.2 named = false → Waits (.invoke d a b) s s t (.release named)) ∧
      (s.released s.cur.1 s.cur.2 named = true →
        ends (.invoke d a b) .running 0 0 fun s1 h => s1.breakHandle s.cur.1 t.ctx h Code.badTarget false)) ∧
    (Clean t [a.reg, b.reg] → ∀ near dev tile, s.target x = some (near, dev, tile) →
      (s.released s.cur.1 s.cur.2 (s.scopeTo s.cur.1 dev tile) = false → Waits (.invoke d a b) s s t (.release (s.scopeTo s.cur.1 dev tile))) ∧
      (s.released s.cur.1 s.cur.2 (s.scopeTo s.cur.1 dev tile) = true → s.oBehind s.cur.1 s.cur.2 dev = true → Waits (.invoke d a b) s s t (.oOrder dev)) ∧
      (s.released s.cur.1 s.cur.2 (s.scopeTo s.cur.1 dev tile) = true → s.oBehind s.cur.1 s.cur.2 dev = false → ends (.invoke d a b) .running dev (BitVec.ofNat 11 tile) fun s1 h =>
        s1.sendInvocation t dev tile h (.invoke (t.val b.reg) t.payload t.pri t.childSid h x))) ∧
    (x.toNat % 1024 ≠ 0 → Traps (.invokeh d a b) s s t Cause.malformedHandle x) ∧
    (x.toNat % 1024 = 0 → handleDev x = s.fabSelf → handleCtx x ≠ t.ctx → Traps (.invokeh d a b) s s t Cause.prot x) ∧
    (x.toNat % 1024 = 0 → (handleDev x = s.fabSelf → handleCtx x = t.ctx) → Clean t [a.reg, b.reg] →
      let sc := s.scopeTo s.cur.1 (handleDev x) (handleTile x)
      let w (fed : Word) := Body.waiter x (t.val b.reg) t.payload t.pri t.childSid fed
      (s.released s.cur.1 s.cur.2 sc = false → Waits (.invokeh d a b) s s t (.release sc)) ∧
      let late := s.oBehind s.cur.1 s.cur.2 (handleDev x)
      (s.released s.cur.1 s.cur.2 sc = true → late = true → Waits (.invokeh d a b) s s t (.oOrder (handleDev x))) ∧
      (s.released s.cur.1 s.cur.2 sc = true → late = false → handleNull x = true →
        ends (.invokeh d a b) .held 0 0 fun s1 fed => s1.breakHandle s.cur.1 t.ctx fed (handleCause x) true) ∧
      (s.released s.cur.1 s.cur.2 sc = true → late = false → handleNull x = false → handleDev x = s.fabSelf → handleTile x = s.cur.1 →
        ends (.invokeh d a b) .held 0 0 fun s1 fed => s1.waiterArrives s.cur.1 (s1.localWaiter t x (w fed)) x fed) ∧
      (s.released s.cur.1 s.cur.2 sc = true → late = false → handleNull x = false → (handleDev x ≠ s.fabSelf ∨ handleTile x ≠ s.cur.1) →
        ends (.invokeh d a b) .held 0 0 fun s1 fed => s1.sendInvocation t (handleDev x) (handleTile x) fed (w fed)))

/-- INVOKE and INVOKEH, and the handle entry they take (R221 to R223, R228, R253, R361). Model choices: entries 15, 24, 28, 47, 60 of the log. -/
def Obligations.Invocations : Prop := HandleEntry ∧ Invocation

/-- DONE (R76, R229): PROT without a handle, CHAIN_OPEN for a chain that its release discards, a wait for tiles with work; otherwise the result goes to the
handle's home, or is dropped when that is out of reach, and the thread ends as QUIT does. -/
def Sys2Proof.Spec.HandleDone : Prop :=
  ∀ (s : State) (t : Thread) (a : Src), Runs s t → Full t [a.reg] →
    (t.handle = none → Traps (.done a) s s t Cause.prot 0) ∧
    (∀ h s1 pc, t.handle = some h → s.lfree s.cur.1 s.cur.2 t = (s1, some pc) → Traps (.done a) s s1 t Cause.chainOpen (chainValue 1 pc)) ∧
    (∀ h s1, t.handle = some h → s.lfree s.cur.1 s.cur.2 t = (s1, none) →
      (s1.cluster (clusterOf s.cur.1)).tilesFree (s1.owned s.cur.1 s.cur.2 t) = false → Waits (.done a) s s1 t (.tiles (s1.owned s.cur.1 s.cur.2 t))) ∧
    (∀ h s1, t.handle = some h → s.lfree s.cur.1 s.cur.2 t = (s1, none) →
      (s1.cluster (clusterOf s.cur.1)).tilesFree (s1.owned s.cur.1 s.cur.2 t) = true →
      let s2 := s1.freeTiles s.cur.1 (s1.owned s.cur.1 s.cur.2 t)
      (s2.released s.cur.1 s.cur.2 .dom = false → Waits (.done a) s s2 t (.release .dom)) ∧
      (s2.released s.cur.1 s.cur.2 .dom = true → s2.reach (handleDev h) = false → ∃ s', exec (.done a) s = .next s' ∧ s'.thread? s.cur.1 s.cur.2 = none ∧
        s'.inflight = s2.inflight ∧ (t.launch = none → s' = (s2.withdrawAll s.cur.1 s.cur.2 t).vacate s.cur.1 s.cur.2)) ∧
      (s2.released s.cur.1 s.cur.2 .dom = true → s2.reach (handleDev h) = true → ∃ s3 rid s',
        s2.request s.cur.1 s.cur.2 t (s2.header (handleDev h) (handleTile h) s.cur.1 t.ctx 1 0x0B) false none none h false
          (.fulfil h (t.val a.reg) (t.pois a.reg) s.fabSelf (BitVec.ofNat 11 s.cur.1)) = (s3, rid) ∧
        exec (.done a) s = .next s' ∧ s'.thread? s.cur.1 s.cur.2 = none ∧
        (t.launch = none → s' = (s3.withdrawAll s.cur.1 s.cur.2 t).vacate s.cur.1 s.cur.2)))

/-- HGET, HTEST, HDROP and HCANCEL (R222, R226, R230, R231, R235): the checks, a handle of the own tile, at which HCANCEL acts when its cycle is over, and the
request to another home. -/
def Sys2Proof.Spec.HandleRequests : Prop :=
  ∀ (s : State) (t : Thread) (d : GReg) (a : Src), Runs s t → Full t [a.reg, d] →
    let h := t.val a.reg
    let here := handleNull h = true ∨ (handleDev h = s.fabSelf ∧ handleTile h = s.cur.1)
    let sent (s1 : State) (rid : Nat) (dst : Option GReg) (b : Body) : Prop :=
      s.request s.cur.1 s.cur.2 t (s.header (handleDev h) (handleTile h) s.cur.1 t.ctx 1 0x0B) false dst none h false b = (s1, rid)
    (∀ i ∈ [Instr.hget d a, .htest d a, .hdrop a, .hcancel a],
      (h.toNat % 1024 ≠ 0 → Traps i s s t Cause.malformedHandle h) ∧
      (h.toNat % 1024 = 0 → handleDev h = s.fabSelf → handleCtx h ≠ t.ctx → Traps i s s t Cause.prot h) ∧
      (h.toNat % 1024 = 0 → (handleDev h = s.fabSelf → handleCtx h = t.ctx) → t.pois a.reg = true → Traps i s s t Cause.poison (a.reg.zeroExtend 64))) ∧
    (h.toNat % 1024 = 0 → (handleDev h = s.fabSelf → handleCtx h = t.ctx) → t.pois a.reg = false →
      (here → ∀ v p, s.readHandle h = .value v p → Completes (.hget d a) s s (t.write d v p)) ∧
      (here → ∀ v, s.readHandle h = .broken v → (s.tctx s.cur.1 t.ctx).hndTrapb = false → Completes (.hget d a) s s (t.write d v false)) ∧
      (here → ∀ v, s.readHandle h = .broken v → (s.tctx s.cur.1 t.ctx).hndTrapb = true →
        Completes (.hget d a) s s { t.write d v false with held := t.held ++ [.brokenHandle h] }) ∧
      (here → s.readHandle h = .wait → Waits (.hget d a) s s (t.markEmpty d (.hget h)) (.hget h d)) ∧
      (here → Completes (.htest d a) s s (t.write d (s.testHandle h) false)) ∧
      (handleNull h = true → Completes (.hdrop a) s s t ∧ Completes (.hcancel a) s s t) ∧
      (handleNull h = false → here → (∃ t1, (s.dropHandle h).me = some t1 ∧ Completes (.hdrop a) s (s.dropHandle h) t1) ∧
        Completes (.hcancel a) s (s.later h (.hcancelRequest { s.localWaiter t h (.hcancel h) with acked := true })) t) ∧
      (¬here → s.reach (handleDev h) = true → s.oBehind s.cur.1 s.cur.2 (handleDev h) = true →
        ∀ i ∈ [Instr.hget d a, .htest d a, .hdrop a, .hcancel a], Waits i s s t (.oOrder (handleDev h))) ∧
      (¬here → s.reach (handleDev h) = false →
        Completes (.hget d a) s s (t.write d (status Code.peerLost) false) ∧ Completes (.htest d a) s s (t.write d (status Code.peerLost) false) ∧
        Completes (.hdrop a) s s { t with losses := t.losses.lose 1 (handleDev h) } ∧ Completes (.hcancel a) s s { t with losses := t.losses.lose 1 (handleDev h) }) ∧
      (¬here → s.reach (handleDev h) = true → s.oBehind s.cur.1 s.cur.2 (handleDev h) = false →
        (∃ s1 rid, sent s1 rid (some d) (.hget h) ∧ Completes (.hget d a) s s1 (t.markEmpty d (.access rid))) ∧
        (∃ s1 rid, sent s1 rid none (.htest h) ∧ Waits (.htest d a) s s1 t (.htest rid d)) ∧
        (∃ s1 rid, sent s1 rid none (.hdrop h) ∧ Completes (.hdrop a) s s1 t) ∧
        (∃ s1 rid, sent s1 rid none (.hcancel h) ∧ Completes (.hcancel a) s s1 t)))

/-- R230: an HGET that a thread executes again, after a trap or CTXLOAD, while gd is still empty for a handle of its own tile, reads the handle as at first. -/
def Sys2Proof.Spec.HgetAgain : Prop :=
  ∀ (s : State) (t : Thread) (d : GReg) (a : Src) (k : Word), Runs s t → (t.reg d).prod = some (.hget k) →
    (handleNull k = true ∨ (handleDev k = s.fabSelf ∧ handleTile k = s.cur.1)) → (a.reg = d ∨ Full t [a.reg]) →
    let h := t.val a.reg
    h.toNat % 1024 = 0 → handleDev h = s.fabSelf → handleTile h = s.cur.1 → handleCtx h = t.ctx → t.pois a.reg = false →
    (∀ v p, s.readHandle h = .value v p → Completes (.hget d a) s s (t.write d v p)) ∧
    (∀ v, s.readHandle h = .broken v → Completes (.hget d a) s s
      (if (s.tctx s.cur.1 t.ctx).hndTrapb then { t.write d v false with held := t.held ++ [.brokenHandle h] } else t.write d v false)) ∧
    (s.readHandle h = .wait → Waits (.hget d a) s s (t.markEmpty d (.hget h)) (.hget h d))

/-- DONE, HGET, HTEST, HDROP and HCANCEL (R76, R130, R222, R229 to R231). Model choices: entries 15, 21, 28, 47, 67 of the log. -/
def Obligations.HandleUse : Prop := HandleDone ∧ HandleRequests ∧ HgetAgain

/-- A context that is dead and in which no thread runs any more: nothing starts in it (R257). -/
def Sys2Proof.Spec.Ended (s : State) (c : BitVec 6) : Prop :=
  ((s.ctx c).state = .free ∨ (s.ctx c).state = .lost) ∧ ∀ p ∈ s.tiles, ∀ q ∈ p.2.threads, q.2.ctx ≠ c

/-- The arrivals that create threads (R75, R224, R228, R234, R257): SPAWN_REQUEST, INVOKE_REQUEST and SUCCESSOR_CREATE in the acting context, held while it
is suspended, those of its image among the 64, refused with their codes, CTX_DEAD for a context that has ended. -/
def Sys2Proof.Spec.CreatingArrivals : Prop :=
  let waiting (s : State) (c : BitVec 6) : Nat := (s.ctx c).kept.length + (s.ctx c).arrivals.length
  (∀ (s : State) (p : Packet) (pc : Word) (pl : Payload) (pri : BitVec 3) (sid : BitVec 48), p.body = .spawn pc pl pri sid →
    (s.actingCtx p.hdr.sdev p.hdr.ctx p.peer = none → exec (.spawnRequest p) s = .next (s.reply p 0 (.data (status Code.badTarget) false []))) ∧
    (∀ c, s.actingCtx p.hdr.sdev p.hdr.ctx p.peer = some c → (s.ctx c).state.suspended = true →
      (waiting s c < 64 → ∃ s', exec (.spawnRequest p) s = .next s' ∧ ∃ q, (s'.ctx c).arrivals = (s.ctx c).arrivals ++ [q] ∧ q.body = p.body) ∧
      (64 ≤ waiting s c → exec (.spawnRequest p) s = .next (s.reply p 0 (.data (status Code.suspended) false [])))) ∧
    (∀ c, s.actingCtx p.hdr.sdev p.hdr.ctx p.peer = some c → Ended s c → exec (.spawnRequest p) s = .next (s.reply p 0 (.data (status Code.ctxDead) false []))) ∧
    (∀ c s1 r, s.actingCtx p.hdr.sdev p.hdr.ctx p.peer = some c → (s.ctx c).state.suspended = false → ¬Ended s c →
      s.createLocal p.hdr.tile.toNat c pc (payloadRegs pl) pri sid none = (s1, r) →
      exec (.spawnRequest p) s = .next (s1.reply p 0 (.data (s1.createdStatus p.hdr.tile.toNat c r) false [])))) ∧
  (∀ (s : State) (p : Packet) (pc : Word) (pl : Payload) (pri : BitVec 3) (sid : BitVec 48) (h w : Word), p.body = .invoke pc pl pri sid h w →
    let refuses (c : BitVec 8) : Prop :=
      exec (.invokeRequest p) s = .next ((s.accepted p).homeSend p.hdr.tile.toNat p.hdr.ctx none (handleDev h) (handleTile h) (.broken h c false))
    (s.actingCtx p.hdr.sdev p.hdr.ctx p.peer = none → refuses Code.badTarget) ∧
    (∀ c, s.actingCtx p.hdr.sdev p.hdr.ctx p.peer = some c → (s.ctx c).state.suspended = true → 64 ≤ waiting s c → refuses Code.suspended) ∧
    (∀ c, s.actingCtx p.hdr.sdev p.hdr.ctx p.peer = some c → (s.ctx c).state.suspended = true → waiting s c < 64 →
      ∃ s', exec (.invokeRequest p) s = .next s' ∧ (s'.ctx c).arrivals = (s.ctx c).arrivals ++ [{ p with acked := true }] ∧ s'.inflight = (s.accepted p).inflight) ∧
    (∀ c, s.actingCtx p.hdr.sdev p.hdr.ctx p.peer = some c → Ended s c → refuses Code.ctxDead) ∧
    (∀ c, s.actingCtx p.hdr.sdev p.hdr.ctx p.peer = some c → (s.ctx c).state.suspended = false → ¬Ended s c →
      (∀ code, s.createLocal p.hdr.tile.toNat c pc (payloadRegs pl) pri sid (some h) = (s, .error code) → refuses code) ∧
      (∀ s1 slot, s.createLocal p.hdr.tile.toNat c pc (payloadRegs pl) pri sid (some h) = (s1, .ok slot) → exec (.invokeRequest p) s = .next (s1.accepted p)))) ∧
  (∀ (s : State) (p : Packet) (pc g0 : Word) (p0 : Bool) (pl : Payload) (pri : BitVec 3) (sid : BitVec 48) (fed : Word) (odev : BitVec 11) (octx c : BitVec 6)
    (s1 : State) (r : Except (BitVec 8) Nat), p.body = .successor pc g0 p0 pl pri sid fed odev octx → s.actingCtx odev octx p.peer = some c →
    let tells (s0 : State) (b : Body) : Prop :=
      exec (.successorCreate p) s = .next ((s0.accepted p).homeSend p.hdr.tile.toNat octx none (handleDev fed) (handleTile fed) b)
    ((s.ctx c).state.suspended = true → 64 ≤ waiting s c → tells s (.broken fed Code.suspended false)) ∧
    (Ended s c → tells s (.broken fed Code.ctxDead false)) ∧
    ((s.ctx c).state.suspended = false → ¬Ended s c →
      s.createLocal p.hdr.tile.toNat c pc [⟨g0, p0, none⟩, ⟨pl.g1, pl.p1, none⟩, ⟨pl.g2, pl.p2, none⟩, ⟨pl.g3, pl.p3, none⟩, ⟨pl.g0, pl.p0, none⟩] pri sid (some fed) =
        (s1, r) →
      (∀ slot, r = .ok slot → tells s1 (.location fed s.fabSelf p.hdr.tile)) ∧ (∀ code, r = .error code → tells s1 (.broken fed code false))))

/-- The arrivals at the home of a handle (R226, R228 to R233), for a context that is not suspended: the entry is fulfilled, dropped, broken or moved, and
the threads of the tile that wait for it go on. -/
def Sys2Proof.Spec.HomeArrivals : Prop :=
  ∀ (s : State) (p : Packet) (h : Word) (x : HrtEntry) (u : HrtUse), (s.ctx (handleCtx h)).state.suspended = false → s.lookup h = some (x, u) →
    p.hdr.tile.toNat = handleTile h → h.toNat % 1024 = 0 → handleDev h = s.fabSelf → ((s.tile (handleTile h)).threads.map (·.1)).Pairwise (· < ·) →
    let tile := handleTile h
    let e := handleSlot h
    -- the threads that wait for the handle stand at no loop's end and owe no trap; how such a thread goes on is said in `Loops`
    let plain := ∀ slot t d n c, s.thread? tile slot = some t → t.status = .blocked (.hget h d) n c → t.loops = [] ∧ t.owed = none
    let waits (slot : Nat) (t : Thread) (d : GReg) : Prop := ∃ n c, t.status = .blocked (.hget h d) n c ∧ s.mayRun tile slot t = true
    let goesOn (s' : State) (v : Word) (q broken : Bool) : Prop := ∀ slot t, s.thread? tile slot = some t →
      ((∀ d, ¬waits slot t d) → s'.thread? tile slot = some t) ∧
      ∀ d, waits slot t d → s'.thread? tile slot = some { t.write d v q with
        pc := t.pc + 4, icount := t.icount + 1, status := .ready, instr := none,
        held := t.held ++ if broken = true ∧ (s.tctx tile t.ctx).hndTrapb = true then [.brokenHandle h] else [] }
    (∀ v q dev tl, p.body = .fulfil h v q dev tl → x.chain = [] → x.dropped = false → u.pending = true → plain → ∃ s', exec (.fulfilmentArrival p) s = .next s' ∧
      s'.hrt tile e = { x with use := some (.fulfilled v q), dev := dev, tile := tl } ∧ s'.mem = s.mem ∧ goesOn s' v q false) ∧
    (∀ v q dev tl, p.body = .fulfil h v q dev tl → u.pending = false →
      exec (.fulfilmentArrival p) s = .next ((s.accepted p).unhold p.hdr.tile.toNat (.fulfilmentArrival p))) ∧
    (∀ pc pl pri sid fed, p.body = .waiter h pc pl pri sid fed → p.acked = true → s.behindCancel h = false →
      exec (.waiterRecordArrival p) s = .next ((s.performedO p).waiterArrives tile p h fed)) ∧
    (p.body = .hget h → s.behindCancel h = false → s.peerOk p x.ctx = true → handleNull h = false →
      (∀ v q, u = .fulfilled v q → exec (.hgetRequest p) s = .next (s.reply p 0 (.data v q []))) ∧
      (∀ c, u = .broken c → exec (.hgetRequest p) s = .next (s.reply p 0 (.status (x.statusWord u)))) ∧
      (u.pending = true → ∀ r, s.freeEntry? tile = some r → r ≠ e → ∃ s', exec (.hgetRequest p) s = .next s' ∧ (s'.hrt tile e).chain = x.chain ++ [r] ∧
        (s'.hrt tile r).use = some (.waiter p e) ∧ s'.inflight = (s.accepted p).inflight)) ∧
    (p.body = .htest h → s.behindCancel h = false → s.peerOk p x.ctx = true → exec (.htestRequest p) s = .next (s.reply p 0 (.data (s.testHandle h) false []))) ∧
    (p.body = .hdrop h → s.behindCancel h = false → p.acked = true → p.hdr.cls ≠ 1 → s.peerOk p x.ctx = true →
      exec (.hdropRequest p) s = .next ((s.setHrt tile e { x with dropped := true }).settleEntry tile e)) ∧
    -- an HCANCEL acts when its cycle is over, behind the fulfilments of the cycle and before what has come after it (R226, R235)
    (p.body = .hcancel h → exec (.hcancelRequest p) s = .next (s.later h (.hcancelRequest p)) ∧
      (.hcancelRequest p ∉ (s.tile tile).late → ((s.later h (.hcancelRequest p)).tile tile).late = (s.tile tile).late ++ [.hcancelRequest p] ∧
        (s.later h (.hcancelRequest p)).behindCancel h = true)) ∧
    (s.behindCancel h = true →
      (p.body = .hget h → exec (.hgetRequest p) s = .next (s.later h (.hgetRequest p))) ∧
      (p.body = .htest h → exec (.htestRequest p) s = .next (s.later h (.htestRequest p))) ∧
      (p.body = .hdrop h → exec (.hdropRequest p) s = .next (s.later h (.hdropRequest p))) ∧
      (∀ pc pl pri sid fed, p.body = .waiter h pc pl pri sid fed → exec (.waiterRecordArrival p) s = .next (s.later h (.waiterRecordArrival p)))) ∧
    (p.body = .hcancel h → p.acked = true → p.hdr.cls ≠ 1 → s.peerOk p x.ctx = true →
      (u.pending = true → x.chain = [] → x.dropped = false → plain → let s' := s.cancelArrives p h
        s'.hrt tile e = { x with use := some (.broken Code.cancelled), derived := false } ∧ s'.mem = s.mem ∧ goesOn s' (status Code.cancelled) false true) ∧
      (u.pending = false → s.cancelArrives p h = s)) ∧
    (∀ dev tl, p.body = .location h dev tl → p.acked = true → p.hdr.cls ≠ 1 → u.pending = true →
      exec (.locationUpdate p) s = .next (s.setHrt tile e { x with use := some .running, dev := dev, tile := tl })) ∧
    (∀ c b, p.body = .broken h c b → p.acked = true → p.hdr.cls ≠ 1 → u.pending = true → x.chain = [] → x.dropped = false → plain →
      ∃ s', exec (.handleBreakArrival p) s = .next s' ∧ s'.hrt tile e = { x with use := some (.broken c), derived := b } ∧ s'.mem = s.mem ∧
        goesOn s' (c ++ BitVec.ofBool b ++ (0 : BitVec 55)) false true)

/-- The end of a cycle in which one HCANCEL has come, and nothing on its handle after it (R226, R235). -/
def Sys2Proof.Spec.CancelsAct : Prop :=
  ∀ (s : State) (p : Packet) (h : Word) (k : Nat), p.body = .hcancel h → (s.tiles.map (·.1)).Nodup → (∀ q ∈ s.tiles, q.1 ≠ k → q.2.late = []) →
    (s.tile k).late = [.hcancelRequest p] → s.settleLate = (s.setTile k { s.tile k with late := [] }).cancelArrives p h

/-- Class O messages at their target: the ones that create threads, and the ones for the home of a handle. Model choices: entries 1, 15, 21, 47, 48, 61, 80 of
the log. -/
def Obligations.ClassOArrivals : Prop := CreatingArrivals ∧ HomeArrivals ∧ CancelsAct

/-! ### Semaphores and messages -/

/-- R79 to R82: SSIG saturates and follows its release, SSET clears the error fields and wins over the signals of its cycle, SREAD gives the 32 bits; the register forms take ra[23:0]. -/
def Sys2Proof.Spec.SemaphoreSignals : Prop :=
  ∀ (s : State) (t : Thread) (k : BitVec 8), Runs s t →
    let x := s.sem s.cur.1 k.toNat
    let signals (i : Instr) (n : Nat) : Prop :=
      (s.released s.cur.1 s.cur.2 .die = false → Waits i s s t (.release .die)) ∧
      (s.released s.cur.1 s.cur.2 .die = true →
        (x.setAt = some s.cycle → Completes i s s t) ∧
        (x.setAt ≠ some s.cycle →
          Completes i s (s.setSem s.cur.1 k.toNat { x with count := BitVec.ofNat 24 (min 0xFFFFFF (x.count.toNat + n)), changed := some s.cycle }) t))
    (∀ n : BitVec 6, signals (.ssig k n) n.toNat ∧ Completes (.sset k n) s (s.setSem s.cur.1 k.toNat ⟨false, 0, n.zeroExtend 24, some s.cycle, some s.cycle⟩) t) ∧
    (∀ a : Src, Full t [a.reg] →
      (t.pois a.reg = false → signals (.ssigReg k a) ((t.val a.reg).toNat % 2 ^ 24) ∧
        Completes (.ssetReg k a) s (s.setSem s.cur.1 k.toNat ⟨false, 0, (t.val a.reg).truncate 24, some s.cycle, some s.cycle⟩) t) ∧
      (t.pois a.reg = true → Traps (.ssigReg k a) s s t Cause.poison (a.reg.zeroExtend 64) ∧ Traps (.ssetReg k a) s s t Cause.poison (a.reg.zeroExtend 64))) ∧
    (∀ d, Full t [d] → Completes (.sread d k) s s
      (t.write d (BitVec.ofNat 64 (x.err.toNat * 2 ^ 31 + x.errcnt.toNat * 2 ^ 24 + x.count.toNat)) false))

/-- SWAIT and SEMAPHORE_SERVE (R81, R82): the count is taken when it suffices, an error ends the wait without it, and a waiter waits otherwise. A test sees
what the cycles before have left, so a semaphore that this cycle has changed, by a signal, an SSET or the service of a waiter, serves no one in it. -/
def Sys2Proof.Spec.SemaphoreWaits : Prop :=
  (∀ (s : State) (t : Thread) (d : GReg) (k : BitVec 8), Runs s t → Full t [d] →
    let x := s.sem s.cur.1 k.toNat
    let word (c : Nat) (sat : Nat) : Word := BitVec.ofNat 64 (sat * 2 ^ 32 + x.err.toNat * 2 ^ 31 + x.errcnt.toNat * 2 ^ 24 + c)
    let waits (i : Instr) (n : BitVec 24) : Prop :=
      (x.count < n → x.err = false → Waits i s s t (.sem k n d)) ∧
      (n ≤ x.count → (n = 0 ∨ (s.semWaiters s.cur.1 k.toNat = [] ∧ x.changed ≠ some s.cycle ∧ Unlogged s t.ctx 5 (siteOf s.cur.1 k.toNat))) →
        Completes i s (s.setSem s.cur.1 k.toNat ⟨false, 0, x.count - n, x.setAt, some s.cycle⟩) (t.write d (word (x.count - n).toNat 1) false)) ∧
      (x.count < n → x.err = true → s.semWaiters s.cur.1 k.toNat = [] → x.changed ≠ some s.cycle → Unlogged s t.ctx 5 (siteOf s.cur.1 k.toNat) →
        Completes i s (s.setSem s.cur.1 k.toNat ⟨false, 0, x.count, x.setAt, some s.cycle⟩) (t.write d (word x.count.toNat 0) false)) ∧
      ((n ≤ x.count ∨ x.err = true) → n ≠ 0 → (s.semWaiters s.cur.1 k.toNat ≠ [] ∨ x.changed = some s.cycle) → Waits i s s t (.sem k n d))
    (∀ n : BitVec 6, waits (.swait d k n) (n.zeroExtend 24)) ∧
    (∀ a : Src, Full t [a.reg] → Poisons (.swaitReg d k a) s s t [a.reg] ∧ (t.pois a.reg = false → waits (.swaitReg d k a) ((t.val a.reg).truncate 24)))) ∧
  (∀ (s : State) (tile k : Nat),
    (s.semWaiters tile k = [] → exec (.semaphoreServe tile k) s = .next s) ∧
    ((s.sem tile k).changed = some s.cycle → exec (.semaphoreServe tile k) s = .next s) ∧
    (∀ w r x v, (s.sem tile k).changed ≠ some s.cycle → s.semWaiters tile k = w :: r → Unlogged s w.t.ctx 5 (siteOf tile k) →
      ((s.sem tile k).serve w.n = some (x, v) → exec (.semaphoreServe tile k) s = .next ((s.setSem tile k { x with changed := some s.cycle }).retireAt tile w.slot (w.t.write w.d v false) 4)) ∧
      ((s.sem tile k).serve w.n = none → exec (.semaphoreServe tile k) s = .next s)))

/-- SSIG, SWAIT and SREAD, and the signals and waits they leave. That a semaphore changed in a cycle is tested at the start of the next one is the model's
choice (entry 1). Model choices: entries 1, 25, 27, 48 of the log. -/
def Obligations.Semaphores : Prop := SemaphoreSignals ∧ SemaphoreWaits

/-- SEND, RECV and RQCNT (R83 to R85, R130, R253, R361). -/
def Sys2Proof.Spec.Messages : Prop :=
  ∀ (s : State) (t : Thread), Runs s t →
    (∀ a b : Src, Full t [a.reg, b.reg, 1, 2, 3] →
      let i := Instr.send a b
      (s.target (t.val a.reg) = none → Traps i s s t Cause.prot (t.val a.reg)) ∧
      (∀ near dev tile, s.target (t.val a.reg) = some (near, dev, tile) →
        (near = true → s.tileOn tile = false → Traps i s s t Cause.prot (t.val a.reg)) ∧
        ((near = false ∨ s.tileOn tile = true) → Poisons i s s t [a.reg]) ∧
        ((near = false ∨ s.tileOn tile = true) → t.pois a.reg = false →
          let sc := s.scopeTo s.cur.1 dev tile
          (s.released s.cur.1 s.cur.2 sc = false → Waits i s s t (.release sc)) ∧
          (s.released s.cur.1 s.cur.2 sc = true → s.reach dev = false → Completes i s s { t with losses := t.losses.lose 1 dev }) ∧
          (s.released s.cur.1 s.cur.2 sc = true → s.reach dev = true → s.oBehind s.cur.1 s.cur.2 dev = true → Waits i s s t (.oOrder dev)) ∧
          (s.released s.cur.1 s.cur.2 sc = true → s.reach dev = true → s.oBehind s.cur.1 s.cur.2 dev = false → ∃ s1 rid,
            s.request s.cur.1 s.cur.2 t (s.header dev tile s.cur.1 t.ctx 1 0x08) false none none 0 false
              (.message ((t.val b.reg).truncate 16) (s.threadId s.cur.1 s.cur.2 t.ctx t.inst)
                ⟨0, t.val 1, t.val 2, t.val 3, false, t.pois 1, t.pois 2, t.pois 3⟩) = (s1, rid) ∧
            Completes i s s1 t)))) ∧
    ((∀ r ∈ payload, (t.reg r).prod = none ∨ (t.reg r).prod = some .recv) →
      let t1 := (((t.markEmpty 0 .recv).markEmpty 1 .recv).markEmpty 2 .recv).markEmpty 3 .recv
      exec .recv s = .next ((s.blockAt s.cur.1 s.cur.2 t1 .recv).serveRecv s.cur.1) ∧
      ((s.tile s.cur.1).rq = [] → Waits .recv s s t1 .recv)) ∧
    (∀ d, Full t [d] → (s.tile s.cur.1).rq.length ≤ 32 → ∃ v : Word, Completes (.rqcnt d) s s (t.write d v false) ∧
      (v.extractLsb' 0 6).toNat = (s.tile s.cur.1).rq.length ∧ v.extractLsb' 6 10 = 0 ∧
      (v.extractLsb' 16 16).toNat = min 0xFFFF (s.sluicedFor s.cur.1) ∧ v.extractLsb' 32 32 = 0)

/-- R83, R84, R86: a message enters the receive queue while it has room and the Sluice holds none for the tile, a waiting RECV takes it, and an absent tile
returns BAD_TARGET; a replayed message comes back from the heap. -/
def Sys2Proof.Spec.MessageArrivals : Prop :=
  ∀ (s : State) (p : Packet) (m : Message), p.toMessage (s.receiving p) = some m →
    (∀ k ∈ [(3 : BitVec 6), 4], Unlogged s (s.receiving p) k (siteOf p.hdr.tile.toNat 0)) →
    let tile := p.hdr.tile.toNat
    let c := s.receiving p
    (s.tileOn tile = false → exec (.messageEntry p) s = .next ((s.logDiscard p).reply p 0 (.error Code.badTarget))) ∧
    (s.tileOn tile = true → s.messagesAhead tile c (.messageEntry p) = true → exec (.messageEntry p) s = .next (s.keepHeld tile (.messageEntry p))) ∧
    (s.tileOn tile = true → s.messagesAhead tile c (.messageEntry p) = false → (s.tile tile).rq.length < 32 → (s.ctx c).sluiceFor tile = [] →
      exec (.messageEntry p) s = .next (((s.accepted p).unhold tile (.messageEntry p)).enqueueMessage tile m)) ∧
    (s.tileOn tile = true → (32 ≤ (s.tile tile).rq.length ∨ (s.ctx c).sluiceFor tile ≠ []) → s.heapRoom c = false →
      exec (.messageEntry p) s = .next (s.keepHeld tile (.messageEntry p))) ∧
    (s.tileOn tile = true → s.messagesAhead tile c (.messageEntry p) = false → (32 ≤ (s.tile tile).rq.length ∨ (s.ctx c).sluiceFor tile ≠ []) → s.heapRoom c = true →
      exec (.messageEntry p) s = .next (((s.accepted p).unhold tile (.messageEntry p)).sluiceStore c tile m)) ∧
    (∀ (w : Nat × Nat × Thread) r, (s.tile tile).rq = [] → s.recvWaiters tile = w :: r → Unlogged s w.2.2.ctx 6 (siteOf tile 0) →
      s.enqueueMessage tile m = (s.setTile tile { s.tile tile with rq := [] }).retireAt tile w.2.1 (w.2.2.receive m) 4) ∧
    (∀ k r, (s.ctx c).sluiceFor tile = (k, tile, m) :: r → (s.tile tile).rq.length < 32 → ∃ s', exec (.sluiceReplay c tile) s = .next s' ∧
      (s'.ctx c).sluice = (s.ctx c).sluice.erase (k, tile, m) ∧ (s'.tile tile).rq.length ≤ (s.tile tile).rq.length + 1)

/-- SEND and RECV, and a message that arrives or comes back from the heap (R83 to R86, R130, R253, R361). Model choices: entries 15, 24, 28, 29, 30, 47, 48,
60, 68, 69 of the log. -/
def Obligations.Messaging : Prop := Messages ∧ MessageArrivals

/-! ### Barriers -/

/-- R253, R296: the checks every barrier instruction makes on its object, in order, and the registers whose poison each of them reports. -/
def Sys2Proof.Spec.BarrierChecks : Prop :=
  ∀ (s : State) (t : Thread) (a b : Src) (c d : GReg) (n m : BitVec 10), Runs s t → Full t [a.reg, b.reg, c, d] →
    let va := t.val a.reg
    let x := (t.val b.reg).toInt
    let g := t.val c
    let checks (i : Instr) (k : Access3) (rs : List GReg) : Prop :=
      (va.toNat % 16 ≠ 0 → Traps i s s t Cause.align va) ∧
      (va.toNat % 16 = 0 → ∀ s1 cause, s.access (s.who t) k false va = (s1, .error cause) → ∃ t1, s1.me = some t1 ∧ Traps i s s1 t1 cause va) ∧
      (va.toNat % 16 = 0 → ∀ s1 pa, s.access (s.who t) k false va = (s1, .ok pa) → Poisons i s s1 t rs)
    ((t.val b.reg).toNat < 1 ∨ 65535 < (t.val b.reg).toNat → Traps (.binit a b c) s s t Cause.prot (t.val b.reg)) ∧
    (1 ≤ (t.val b.reg).toNat → (t.val b.reg).toNat ≤ 65535 → (2 ^ 20 ≤ g.toNat ∨ (g.getLsbD 19 = true ∧ s.tileOn (g.toNat / 2 ^ 8 % 2048) = false)) →
      Traps (.binit a b c) s s t Cause.prot g) ∧
    (1 ≤ (t.val b.reg).toNat → (t.val b.reg).toNat ≤ 65535 → g.toNat < 2 ^ 20 → (g.getLsbD 19 = false ∨ s.tileOn (g.toNat / 2 ^ 8 % 2048) = true) → checks (.binit a b c) .both [a.reg, b.reg, c]) ∧
    checks (.barr d a n) .both [a.reg] ∧
    (x < -32768 ∨ 32767 < x → Traps (.bexp a b) s s t Cause.prot (t.val b.reg)) ∧
    (-32768 ≤ x → x ≤ 32767 → checks (.bexp a b) .both [a.reg, b.reg]) ∧
    (16 ≤ (t.val b.reg).toNat → Traps (.bwait d a b m) s s t Cause.prot (t.val b.reg)) ∧
    ((t.val b.reg).toNat < 16 → checks (.bwait d a b m) .read [a.reg])

/-- What BINIT does at the bank (R298): both words are written, the watchers read the object again, and the instruction ends. -/
def Sys2Proof.Spec.BinitEffect (s : State) (pa : Nat) (o : Barrier) (ends : State → Thread → Prop) : Prop :=
  ∃ t2, ((s.writeBarrier pa o).wakeWatchers pa (Barrier.ofNat o.toNat)).me = some t2 ∧
    ends ((s.writeBarrier pa o).wakeWatchers pa (Barrier.ofNat o.toNat)) t2

/-- BARR and BWAIT on a poisoned object: gd is poisoned with an open value, and POISON is counted. -/
def Sys2Proof.Spec.PoisonedObject (s : State) (t : Thread) (d : GReg) (ends : State → Thread → Prop) : Prop :=
  let s2 := (State.setMe { s with fresh := s.fresh + 1 } t).countAll (s.who t) [Class.psn]
  ∃ t1, s2.me = some t1 ∧ ends s2 (t1.write d (Config.freeWord s.fresh) true)

/-- What BARR does at the bank (R299, R300): the status, an overrun, arrivals, and the last arrival with its signal. -/
def Sys2Proof.Spec.BarrEffect (s : State) (t : Thread) (pa n : Nat) (d : GReg) (ends : State → Thread → Prop) : Prop :=
  let r := s.readBarrier pa
  let o := r.2.2
  (r.2.1 = true → PoisonedObject r.1 t d ends) ∧
  (r.2.1 = false → o.valid = false → ends r.1 (t.write d (status Code.badBarrier) false)) ∧
  (r.2.1 = false → o.valid = true → o.expected < o.arrived + n →
    ∃ t2 s2, s2 = r.1.writeBarrier pa { o with overrun := true, ovarr := min 0xFFFF (o.ovarr + n) } ∧
      s2.me = some t2 ∧ ends s2 (t2.write d (barrStatus Code.overrun false o.phase o.expected o.arrived) false)) ∧
  (r.2.1 = false → o.valid = true → o.arrived + n < o.expected → ∃ t2 s2, s2 = r.1.writeBarrier pa { o with arrived := o.arrived + n } ∧
    s2.me = some t2 ∧ ends s2 (t2.write d (barrStatus Code.ok false o.phase o.expected o.arrived) false)) ∧
  (r.2.1 = false → o.valid = true → o.arrived + n = o.expected → ∃ t2 s2 s3 o2, s2 = (r.1.writeBarrier pa o2).wakeWatchers pa o2 ∧
    o2 = { o with phase := (o.phase + 1) % 16, arrived := 0, addend := 0, expected := o2.expected, rearm := o2.expected } ∧
    (o2.expected : Int) = min 65535 (max 1 (o.rearm + o.addend.toInt)) ∧
    s3 = (if o.en = true ∧ s2.tileOn o.tile.toNat = true then s2.signal o.tile.toNat o.sem.toNat 1 else s2) ∧
    s3.me = some t2 ∧ ends s3 (t2.write d (barrStatus Code.ok true o.phase o.expected o.arrived) false))

/-- What BEXP does at the bank (R301): the addend, clamped, of a valid object; a poisoned object counts POISON. -/
def Sys2Proof.Spec.BexpEffect (s : State) (t : Thread) (pa : Nat) (n : Int) (ends : State → Thread → Prop) : Prop :=
  let r := s.readBarrier pa
  let o := r.2.2
  (r.2.1 = true → let s2 := (r.1.setMe t).countAll (r.1.who t) [Class.psn]; ∃ t1, s2.me = some t1 ∧ ends s2 t1) ∧
  (r.2.1 = false → o.valid = true → ends (r.1.writeBarrier pa { o with addend := BitVec.ofInt 16 (min 32767 (max (-32768) (o.addend.toInt + n))) }) t) ∧
  (r.2.1 = false → o.valid = false → ends r.1 t)

/-- What the read of BWAIT does (R302): an invalid object or a phase that has passed ends it, else the thread watches; gd is poisoned with gb. -/
def Sys2Proof.Spec.BreadEffect (s : State) (t : Thread) (pa : Nat) (d : GReg) (ph : BitVec 4) (bound : Nat) (bad : Bool)
    (ends : State → Thread → Prop) (waits : State → Wait → Prop) : Prop :=
  let r := s.readBarrier pa
  (r.2.1 = true → PoisonedObject r.1 t d ends) ∧
  (r.2.1 = false → r.2.2.valid = false → ends r.1 (t.write d (status Code.badBarrier) bad)) ∧
  (r.2.1 = false → r.2.2.valid = true → r.2.2.phase ≠ ph.toNat → ends r.1 (t.write d 0 bad)) ∧
  (r.2.1 = false → r.2.2.valid = true → r.2.2.phase = ph.toNat → waits r.1 (.bwait pa ph bound d bad))

/-- BINIT, BARR, BEXP and BWAIT once their checks have passed (R296, R298 to R302), with the order log off: the release at .dev, the request to another
thread's bank, and the effect where the slot of this cycle serves it at once. -/
def Sys2Proof.Spec.Barriers : Prop :=
  ∀ (s : State) (t : Thread) (a b : Src) (c d : GReg) (n m : BitVec 10) (s1 : State) (pa : Nat), Runs s t → Full t [a.reg, b.reg, c, d] → t.pois a.reg = false →
    (t.val a.reg).toNat % 16 = 0 →
    let y := (t.val b.reg).toNat
    let g := t.val c
    let va := t.val a.reg
    let s2 := s1.useSlot (bankOf pa)
    let bound := 64 * m.toNat
    let reaches (i : Instr) (op : BankOp) (effect : (State → Thread → Prop) → Prop) : Prop :=
      (s1.released s.cur.1 s.cur.2 .dev = false → Waits i s s1 t (.release .dev)) ∧
      (s1.released s.cur.1 s.cur.2 .dev = true → (¬SlotServes s1 False (bankOf pa) ∨ s1.alone = false) → Asks i s s1 t va pa op) ∧
      (s1.released s.cur.1 s.cur.2 .dev = true → SlotServes s1 False (bankOf pa) → s1.alone = true → Unlogged s1 t.ctx 7 (barrierSite pa) →
        effect (Completes i s))
    (s.access (s.who t) .both false va = (s1, .ok pa) →
      (1 ≤ y → y ≤ 65535 → g.toNat < 2 ^ 20 → (g.getLsbD 19 = false ∨ s.tileOn (g.toNat / 2 ^ 8 % 2048) = true) → Clean t [b.reg, c] →
        ∃ o : Barrier, o.expected = y ∧ o.rearm = y ∧ o.arrived = 0 ∧ o.phase = 0 ∧ o.addend = 0 ∧ o.overrun = false ∧ o.sem = g.truncate 8 ∧
          o.tile.toNat = g.toNat / 2 ^ 8 % 2048 ∧ o.en = g.getLsbD 19 ∧ o.ovarr = 0 ∧ o.spare = false ∧
          reaches (.binit a b c) (.binit o.toNat) (BinitEffect s2 pa o)) ∧
      reaches (.barr d a n) (.barr d n.toNat) (BarrEffect s2 t pa n.toNat d) ∧
      (-32768 ≤ (t.val b.reg).toInt → (t.val b.reg).toInt ≤ 32767 → t.pois b.reg = false →
        reaches (.bexp a b) (.bexp (t.val b.reg).toInt) (BexpEffect s2 t pa (t.val b.reg).toInt))) ∧
    (s.access (s.who t) .read false va = (s1, .ok pa) → y < 16 →
      let i := Instr.bwait d a b m
      let ph : BitVec 4 := BitVec.ofNat 4 y
      (s1.unitClear s.cur.1 s.cur.2 pa = false → Waits i s s1 t (.unitDrained pa)) ∧
      (s1.unitClear s.cur.1 s.cur.2 pa = true → s1.unitClear s.cur.1 s.cur.2 (pa + 8) = false → Waits i s s1 t (.unitDrained (pa + 8))) ∧
      (s1.unitClear s.cur.1 s.cur.2 pa = true → s1.unitClear s.cur.1 s.cur.2 (pa + 8) = true →
        (ServesRead s1 pa → BreadEffect s2 t pa d ph bound (t.pois b.reg) (Completes i s) fun s3 w => Waits i s s3 t w) ∧
        (¬ServesRead s1 pa → Asks i s s1 t va pa (.bread d ph bound (t.pois b.reg)))))

/-- A barrier operation that has waited at its bank has the same effect there (R296); requests of one cycle stand in the queue in the order BINIT, BARR,
BEXP, then tile and slot, and none is served before its cycle is over. -/
def Sys2Proof.Spec.BarriersServed : Prop :=
  (∀ (s : State) (tile slot pa size n bound : Nat) (t : Thread) (o : Barrier) (d : GReg) (ph : BitVec 4) (bad : Bool) (k : Int), s.thread? tile slot = some t →
    let t0 : Thread := { t with pipe := max t.pipe (s.cycle + 1) }
    let s0 : State := ({ s with cur := (tile, slot) } : State).setMe t0
    let ends (op : BankOp) (s1 : State) (t1 : Thread) : Prop := s.serveThread tile slot op pa size = .next { s1.retireAt tile slot t1 size with cur := s.cur }
    BinitEffect s0 pa o (ends (.binit o.toNat)) ∧ BarrEffect s0 t0 pa n d (ends (.barr d n)) ∧ BexpEffect s0 t0 pa k (ends (.bexp k)) ∧
    BreadEffect s0 t0 pa d ph bound bad (ends (.bread d ph bound bad)) fun s1 w =>
      s.serveThread tile slot (.bread d ph bound bad) pa size = .next { s1.blockAt tile slot t0 w with cur := s.cur }) ∧
  (∀ (r : BankReq) (q : List BankReq),
    let rank (op : BankOp) : Option Nat := match op with
      | .binit _ => some 0
      | .barr .. => some 1
      | .bexp _ => some 2
      | _ => none
    let before (x y : BankReq) : Prop := match x, y with
      | .thread tx sx _ ox _ _ cx _ _, .thread ty sy _ oy _ _ cy _ _ => cx = cy ∧ ∃ m n, rank ox = some m ∧ rank oy = some n ∧
        m * 2 ^ 20 + (tx * 256 + sx) < n * 2 ^ 20 + (ty * 256 + sy)
      | _, _ => False
    ∃ pre post, q = pre ++ post ∧ enterQueue r q = pre ++ r :: post ∧ (∀ x ∈ pre, ¬before r x) ∧ ∀ x, post.head? = some x → before r x) ∧
  (∀ (s : State) (bank tile slot pa size c : Nat) (inst : BitVec 8) (op : BankOp) (page : Nat × Nat) (number : Nat), op.isBarrier = true →
    (s.bankHere bank (.thread tile slot inst op pa size c page number) = true ↔ s.cycle % 8 = 6 ∧ c < s.cycle))

/-- R295: an object's fields as its sixteen bytes hold them. -/
def Sys2Proof.Spec.BarrierLayout : Prop :=
  (∀ o : Barrier, o.expected < 2 ^ 16 → o.arrived < 2 ^ 16 → o.phase < 16 → o.rearm < 2 ^ 16 → o.ovarr < 2 ^ 16 → o.spare = false → Barrier.ofNat o.toNat = o ∧ o.toNat < 2 ^ 128) ∧
  (∀ (s : State) (pa : Nat) (o : Barrier), Memory.wf s.mem = true → memRead (s.writeBarrier pa o).mem pa 16 = leBytes o.toNat 16) ∧
  (∀ (s : State) (pa a : Nat) (o : Barrier), Memory.wf s.mem = true → (a < pa ∨ pa + 16 ≤ a) → (s.writeBarrier pa o).byte a = s.byte a)

/-- BINIT, BARR, BEXP and BWAIT, and their object in memory (R253, R295 to R302). Model choices: entries 3, 17, 32, 48, 75 of the log. -/
def Obligations.BarrierObjects : Prop := BarrierChecks ∧ Barriers ∧ BarriersServed ∧ BarrierLayout

/-- The ends of a blocked BWAIT and the end of an ALIGN that waits too long (R302, R66): a completion or BINIT wakes the watchers whose phase has passed and
whose bound has not run out; a thread whose context is suspended executes BWAIT again on resume, and ALIGN then waits on. -/
def Sys2Proof.Spec.WaitsEnd : Prop :=
  ∀ (s : State) (tile slot n c : Nat) (t : Thread), s.thread? tile slot = some t →
    let ends (d : GReg) (v : Word) (bad : Bool) : State :=
      if s.mayRun tile slot t then s.retireAt tile slot (t.write d v bad) 4 else s.setThread tile slot { t with status := .ready }
    (∀ d bad, t.status = .blocked (.bwoken d bad) n c → exec (.bwaitWake tile slot) s = .next (ends d 0 bad)) ∧
    (∀ o ph bound d bad, t.status = .blocked (.bwait o ph bound d bad) n c →
      (bound ≠ 0 → c + bound < s.cycle → exec (.bwaitTimeout tile slot) s = .next (ends d (status Code.timeout) bad)) ∧
      ((bound = 0 ∨ s.cycle ≤ c + bound) → exec (.bwaitTimeout tile slot) s = .next s) ∧
      (∀ b : Barrier, let s1 := s.wakeWatchers o b
        (b.valid = true → b.phase ≠ ph.toNat → (bound = 0 ∨ s.cycle ≤ c + bound) →
          s1.thread? tile slot = some { t with status := .blocked (.bwoken d bad) n c } ∧ .bwaitWake tile slot ∈ s1.inflight) ∧
        ((b.valid = false ∨ b.phase = ph.toNat ∨ (bound ≠ 0 ∧ c + bound < s.cycle)) → s1.thread? tile slot = some t))) ∧
    (∀ k ctx pc,
      let ended (e : AlignEntry) : Prop := e.ctx = ctx ∧ e.pc = pc ∧ e.first + e.bound ≤ s.cycle
      (((s.ctx ctx).state.suspended = true ∨ ∀ e ∈ (s.cluster k).align, ¬ended e) → exec (.alignTimeout k ctx pc) s = .next s) ∧
      (∀ pre e post, (s.cluster k).align = pre ++ e :: post → (∀ y ∈ pre, ¬ended y) → ended e → (s.ctx ctx).state.suspended = false →
        exec (.alignTimeout k ctx pc) s = .next (s.alignRelease k e)))

/-- ALIGN (R66): without a launch or with a full table it is a NOP; otherwise the thread joins or allocates its entry and waits, and the last of the crew
releases them all. -/
def Sys2Proof.Spec.Align : Prop :=
  ∀ (s : State) (t : Thread) (n : BitVec 15), Runs s t →
    let k := clusterOf s.cur.1
    let x := s.cluster k
    let mine (e : AlignEntry) : Prop := e.ctx = t.ctx ∧ e.pc = t.pc
    (t.launch = none → Completes (.align n) s s t) ∧
    (t.launch ≠ none → (∀ e ∈ x.align, ¬mine e) → 8 ≤ x.align.length → Completes (.align n) s s t) ∧
    (t.launch ≠ none → (∀ e ∈ x.align, ¬mine e) → x.align.length < 8 → 1 < t.crew →
      Waits (.align n) s (s.setCluster k { x with align := x.align ++ [⟨t.ctx, t.pc, s.cycle, n.toNat, t.crew⟩] }) t (.align t.pc)) ∧
    (t.launch ≠ none → (∀ e ∈ x.align, ¬mine e) → x.align.length < 8 → t.crew ≤ 1 →
      let e : AlignEntry := ⟨t.ctx, t.pc, s.cycle, n.toNat, t.crew⟩
      exec (.align n) s = .next (((s.setCluster k { x with align := x.align ++ [e] }).blockAt s.cur.1 s.cur.2 t (.align t.pc)).alignRelease k e)) ∧
    (t.launch ≠ none → ∀ pre e post, x.align = pre ++ e :: post → (∀ y ∈ pre, ¬mine y) → mine e →
      let s1 := s.blockAt s.cur.1 s.cur.2 t (.align t.pc)
      ((s1.aligned k e.ctx e.pc).length < e.crew → Waits (.align n) s s t (.align t.pc)) ∧
      (e.crew ≤ (s1.aligned k e.ctx e.pc).length → exec (.align n) s = .next (s1.alignRelease k e)))

/-- What a release leaves (R66, R67): the entry is free and the others are kept, every thread that waited at it has completed its ALIGN, where no loop ends there
at the next instruction, and no other thread has changed; one thread at the end of a loop makes that loop's end check. -/
def Sys2Proof.Spec.AlignReleases : Prop :=
  ∀ (s : State) (k : Nat) (e : AlignEntry), (∀ tile, ((s.tile tile).threads.map (·.1)).Pairwise (· < ·)) →
    let waits (tile : Nat) (u : Thread) : Prop := (∃ j < 4, tile = k / 96 * 512 + k % 96 * 4 + j) ∧ u.ctx = e.ctx ∧ ∃ n c, u.status = .blocked (.align e.pc) n c
    let s1 := s.alignRelease k e
    s1.mem = s.mem ∧ (s1.cluster k).align = (s.cluster k).align.erase e ∧
    ((∀ tile slot u, s.thread? tile slot = some u → waits tile u → u.owed = none ∧ ∀ x r, u.loops = x :: r → u.pc + 4 ≠ x.endNext) →
      (∀ tile slot u, s.thread? tile slot = some u →
        (waits tile u → s1.thread? tile slot = some { u with pc := u.pc + 4, icount := u.icount + 1, status := .ready, instr := none }) ∧
        (¬waits tile u → s1.thread? tile slot = some u))) ∧
    (∀ tile slot u, s.thread? tile slot = some u → waits tile u → (∀ τ κ w, s.thread? τ κ = some w → waits τ w → (τ, κ) = (tile, slot)) →
      s1 = (s.setCluster k { s.cluster k with align := (s.cluster k).align.erase e }).retireAt tile slot u 4)

/-- ALIGN and its release, and the ends of a blocked BWAIT (R66, R302). That an entry counts the threads that wait at it against the crew of its first arrival
is the model's choice (entry 91). Model choices: entries 48, 91 of the log. -/
def Obligations.AlignAndTimeouts : Prop := Align ∧ AlignReleases ∧ WaitsEnd

/-! ### Fences, TLBs, capabilities -/

/-- FENCE (R124, R125): it waits for what its scope and mask cover, with the fence.timeout of its issue as the bound, and at .dom and .sys reports and clears the losses of its classes: the code, the first
lost peer, the classes, and how many accesses were rejected and lost. -/
def Sys2Proof.Spec.Fence : Prop :=
  ∀ (s : State) (t : Thread) (sc : Scope) (d : GReg) (mask : BitVec 3), Runs s t → Full t [d] →
    (s.fenced s.cur.1 s.cur.2 sc mask = false →
      ((∀ q r T n c, t.status ≠ .blocked (.fence q r T) n c) →
        Waits (.fence sc d mask) s s t (.fence sc mask ((s.ctx t.ctx).timeout.toNat * Config.cyclesPerMicrosecond))) ∧
      (∀ q r T n c, t.status = .blocked (.fence q r T) n c → Waits (.fence sc d mask) s s t (.fence sc mask T))) ∧
    (s.fenced s.cur.1 s.cur.2 sc mask = true → (sc = .die ∨ sc = .dev) → Completes (.fence sc d mask) s s (t.write d 0 false)) ∧
    (s.fenced s.cur.1 s.cur.2 sc mask = true → (sc = .dom ∨ sc = .sys) →
      let mine (x : BitVec 2 × BitVec 11 × Bool) : Bool := x.2.2 || inMask mask x.1
      let lost := t.losses.lost.filter mine
      let rejected := t.losses.rejected.filter (inMask mask)
      ∃ v : Word, Completes (.fence sc d mask) s s
        ({ t with losses := ⟨t.losses.lost.filter fun x => !mine x, t.losses.rejected.filter fun c => !inMask mask c⟩ }.write d v false) ∧
      (lost ≠ [] → v.extractLsb' 56 8 = 0x0D) ∧
      (lost = [] → rejected ≠ [] → v.extractLsb' 56 8 = 0x14) ∧
      (lost = [] → rejected = [] → v = 0) ∧
      (∀ x, lost.head? = some x → v.extractLsb' 45 11 = x.2.1) ∧ (lost = [] → v.extractLsb' 45 11 = 0) ∧ v.extractLsb' 43 2 = 0 ∧
      (∀ k < 3, v.getLsbD (40 + k) = true ↔ (∃ x ∈ lost, x.1.toNat = k + 1) ∨ ∃ c ∈ rejected, c.toNat = k + 1) ∧
      (v.extractLsb' 24 16).toNat = min 0xFFFF rejected.length ∧ (v.extractLsb' 0 24).toNat = min 0xFFFFFF lost.length) ∧
    (s.fenced s.cur.1 s.cur.2 sc mask = true ↔ s.fifoOf s.cur.1 s.cur.2 = [] ∧ (sc ≠ .die → s.bridgeOf s.cur.1 s.cur.2 = []) ∧
      ((sc = .dom ∨ sc = .sys) → ∀ a ∈ s.accsOf s.cur.1 s.cur.2, inMask mask a.cls = false))

/-- FENCE_TIMEOUT (R126): every access whose wait has expired is abandoned, its register filled with PEER_LOST, and no other. -/
def Sys2Proof.Spec.FenceTimeout : Prop :=
  ∀ (s : State) (tile slot : Nat), 
    exec (.fenceTimeout tile slot) s = .next (s.abandonAll tile (s.expired tile slot)) ∧
    ((∀ x ∈ (s.tile tile).accs, s.expired tile slot x = false) → exec (.fenceTimeout tile slot) s = .next s) ∧
    (∀ (x : Access) (t : Thread) (d : GReg), x.dst = some d → s.thread? tile x.slot = some t → t.inst = x.inst → (t.reg d).prod = some (.access x.rid) → t.status = .ready →
      ∃ t', (s.abandon tile x).thread? tile x.slot = some t' ∧ t'.regs = (t.write d (status Code.peerLost) false).regs ∧ t'.losses.lost = t.losses.lost ++ [(x.cls, x.dev, false)] ∧
        (s.abandon tile x).mem = s.mem) ∧
    (∀ x : Access, x.counted = false → s.expired tile slot x = false) ∧
    (∀ (x : Access) (t : Thread) (sc : Scope) (mask : BitVec 3) (T n c : Nat), x.slot = slot → s.thread? tile slot = some t → t.status = .blocked (.fence sc mask T) n c →
      (sc = .dom ∨ sc = .sys) → x.counted = true → inMask mask x.cls = true →
      (s.fifoOf tile slot = [] → s.bridgeOf tile slot = [] → c + T ≤ s.cycle → s.expired tile slot x = true) ∧
      ((∀ e ∈ (s.tile tile).fifo, e.rel = none) → (s.fifoOf tile slot ≠ [] ∨ s.bridgeOf tile slot ≠ [] ∨ s.cycle < c + T) →
        s.expired tile slot x = false))

/-- FENCE and the accesses abandoned by its timeout (R124 to R126). Model choices: entries 21, 36, 48, 54 of the log. -/
def Obligations.Fences : Prop := Fence ∧ FenceTimeout

/-- TLBINV (R111, R53): the entries of the set are gone from every TLB when it completes, and it waits for the accesses that began before it. -/
def Sys2Proof.Spec.TlbInvalidate : Prop :=
  ∀ (s : State) (t : Thread) (a : Src), Runs s t → Firmware s → Full t [a.reg] → t.pois a.reg = false →
    let runs (i : Instr) (c : BitVec 6) (page : Option Word) : Prop :=
      let s1 := s.flush c page
      let fresh := ∀ q r n k, t.status ≠ .blocked (.tlbinv q r) n k
      (fresh → s1.tlbClear c page s.serial s.cycle = true → ∃ t1, (s1.abandonSet c page s.serial).me = some t1 ∧ Completes i s (s1.abandonSet c page s.serial) t1) ∧
      (fresh → s1.tlbClear c page s.serial s.cycle = false → Waits i s s1 t (.tlbinv c page)) ∧
      (∀ n k, t.status = .blocked (.tlbinv c page) n k → s.tlbClear c page n k = true →
        ∃ t1, (s.abandonSet c page n).me = some t1 ∧ Completes i s (s.abandonSet c page n) t1) ∧
      (∀ k, ∀ e ∈ (s1.tile k).tlb, inSet c page e = false) ∧ (∀ k, ∀ e ∈ (s1.flume k).tlb, inSet c page e = false) ∧
      (∀ k, ∀ w ∈ s1.walker k, w.ctx = c → inPage page (w.base, w.size) = false) ∧
      (∀ n k, s.tlbClear c page n k = true →
        (∀ j, ∀ e ∈ (s.tile j).fifo, e.number < n → e.ctx = c → inPage page e.page = false) ∧
        (∀ e ∈ s.bridge, e.entry.number < n → e.entry.ctx = c → inPage page e.entry.page = false) ∧
        (∀ j, ∀ h ∈ (s.tile j).hold, ∀ x ∈ h.parts, x.number < n → x.who.ctx = c → ∀ b ∈ x.pages, inPage page b = false) ∧
        (∀ j, ∀ r ∈ (s.flume j).runs, r.cmd.who.ctx = c → ∀ x ∈ r.packets, x.number < n → ∀ b ∈ x.pages, inPage page b = false) ∧
        (∀ j, ∀ q ∈ (s.cluster j).queue, q.who.ctx = c → q.who.after ≤ n → ∀ b ∈ q.pages, inPage page b = false) ∧
        (∀ j, ∀ q ∈ s.bank j, ∀ tile slot inst op pa size m b num, q = .thread tile slot inst op pa size m b num → num < n → inPage page b = true →
          ∀ u, s.thread? tile slot = some u → u.inst = inst → u.ctx = c → ∀ x y, u.status ≠ .blocked .bank x y) ∧
        (∀ j, ∀ q ∈ s.bank j, ∀ r pa b m, q = .remote r pa c b m → m < n → inPage page b = false) ∧
        (s.cycle < k + s.timeoutCycles c → ∀ j, ∀ a ∈ (s.tile j).accs, a.inSet c page n = false))
    runs (.tlbinv a) t.ctx (some (t.val a.reg)) ∧
    ((t.val a.reg).toNat < 64 → runs (.tlbinvAll a) ((t.val a.reg).truncate 6) none) ∧
    (64 ≤ (t.val a.reg).toNat → Traps (.tlbinvAll a) s s t Cause.prot (t.val a.reg))

/-- CAPR (R275, R276): the list's entries, each with its successor, zero beyond them, PROT above bit 16. -/
def Sys2Proof.Spec.Capabilities : Prop :=
  ∀ (s : State) (t : Thread) (d : GReg) (a : Src), Runs s t → Full t [a.reg, d] →
    let x := (t.val a.reg).toNat
    let gives (v : Nat) : Prop := Completes (.capr d a) s s (t.write d (BitVec.ofNat 64 v) (t.pois a.reg))
    (2 ^ 17 ≤ x → Traps (.capr d a) s s t Cause.prot (t.val a.reg)) ∧
    (x < 6 → gives (x + 1 + 2 ^ 16 + (x + 1) * 2 ^ 32)) ∧ (x = 6 → gives (7 + 2 ^ 16)) ∧
    (7 ≤ x → x < 2 ^ 16 → gives 0) ∧ (2 ^ 16 + 7 ≤ x → x < 2 ^ 17 → gives 0) ∧
    (x = 2 ^ 16 → s.enabled < 2 ^ 16 → gives (s.enabled + 4 * 2 ^ 16 + 16 * 2 ^ 32)) ∧ (x = 2 ^ 16 + 1 → gives (1 + 256 * 2 ^ 32)) ∧
    (x = 2 ^ 16 + 2 → gives 0x1FF) ∧ (x = 2 ^ 16 + 3 → gives (1024 + 64 * 2 ^ 16)) ∧ (x = 2 ^ 16 + 4 → gives 7) ∧
    (x = 2 ^ 16 + 5 → gives (256 + 4096 * 2 ^ 16 + 256 * 2 ^ 32)) ∧ (x = 2 ^ 16 + 6 → gives (12 + 2 * 2 ^ 4 + 1 * 2 ^ 8))

/-- TLBINV and CAPR (R53, R111, R275, R276). Model choices: entries 25, 77 of the log. -/
def Obligations.CapabilitiesAndTlb : Prop := TlbInvalidate ∧ Capabilities

/-- PAGE_WALK (R105, R107, R108, R110): a walk fills the TLB of its tile with the leaf it finds and the walker of its cluster with the upper-level entries it
has read; it reads memory only, and what a level's entry says follows R107. -/
def Sys2Proof.Spec.PageWalk : Prop :=
  ∀ (s : State) (tile : Nat) (c : BitVec 6) (va : Word),
    let cl := clusterOf tile
    (∃ s', exec (.pageWalk tile c va) s = .next s' ∧ s'.mem = s.mem) ∧
    (va.toNat < 2 ^ 48 → tlbFind c va.toNat (s.tile tile).tlb = none → ∀ s1 base size l fs,
      s.walk c (s.walker cl) va.toNat 3 (baseOf (s.ctx c).ptroot 12) = (s1, .leaf base size l, fs) →
      ∃ s', exec (.pageWalk tile c va) s = .next s' ∧ (s'.tile tile).tlb = tlbFill 512 ⟨c, base, size, l, 0, false, s.serial⟩ (s.tile tile).tlb ∧
        (∀ w ∈ s'.walker cl, w ∈ s.walker cl ∨ w ∈ fs) ∧ (fs ≠ [] → (s'.walker cl).length ≤ 64)) ∧
    (∀ (ws : List WalkEntry) (level table : Nat),
      let a := table + 8 * levelIndex va.toNat (level + 1)
      let r := s.walk c ws va.toNat (level + 1) table
      let e := leNat (memRead s.mem a 8)
      (s.populated a = false → r = (s, .prot, [])) ∧
      (s.populated a = true → s.flaws = [] → (∀ w ∈ ws, w.pa ≠ a) → s.isPoisoned a = true → a % 8 = 0 → r = (s, .poisoned, [])) ∧
      (s.populated a = true → s.flaws = [] → (s.readBytes a 8).2.2 = false →
        (e % 2 = 0 → r = (s, .page, [])) ∧
        (e % 2 = 1 → e / 2 % 2 = 0 → pteNext e = none → r = (s, .page, [])) ∧
        (e % 2 = 1 → e / 2 % 2 = 0 → ∀ next, pteNext e = some next →
          let q := s.walk c ws va.toNat level next
          r.1 = q.1 ∧ r.2.1 = q.2.1 ∧ ∀ w ∈ r.2.2, w ∈ q.2.2 ∨ (w.ctx = c ∧ w.pa = a ∧ w.value = e)) ∧
        (e % 2 = 1 → e / 2 % 2 = 1 → r = (s, (pteLeaf e (level + 1) va.toNat).getD .page, []))))

/-- Translation of an address through a cached page, and the walk that caches one (R105, R107 to R110). Model choices: entries 18, 52 of the log. -/
def Obligations.TranslateAndWalk : Prop := Translation ∧ PageWalk

/-! ### Control registers -/

/-- RDCTL and WRCTL (R319, R320, R338): which numbers name a register, the privileges of each, poison, the value at the end of the cycle before, which a
read gives, and what a plain register reads as after a write, from the next cycle on. -/
def Obligations.ControlRegisters : Prop :=
  (∀ (d : GReg) (a : Src) (ctl : BitVec 14), ((Instr.rdctl d ctl).wf = true ↔ ∃ r ∈ controls, r.1 ≤ ctl.toNat ∧ ctl.toNat ≤ r.2.1) ∧
    (Instr.wrctl ctl a).wf = (Instr.rdctl d ctl).wf) ∧
  (∀ (s : State) (t : Thread) (d : GReg) (a : Src) (ctl : BitVec 14), Runs s t → ∀ r ∈ controls, r.1 ≤ ctl.toNat → ctl.toNat ≤ r.2.1 →
    let rd := Instr.rdctl d ctl
    let wr := Instr.wrctl ctl a
    let v := t.val a.reg
    let s1 := s.writeCtl s.cur.1 s.cur.2 t.ctx ctl.toNat v
    (r.2.2.1 = true → ¬Firmware s → Traps rd s s t Cause.priv (BitVec.ofNat 64 (encodeNat rd))) ∧
    ((r.2.2.1 = false ∨ Firmware s) → Full t [d] → Completes rd s s (t.write d (s.atLast.readCtl s.cur.1 s.cur.2 t.ctx ctl.toNat) false)) ∧
    (r.2.2.2 = true → ¬Firmware s → Traps wr s s t Cause.priv (BitVec.ofNat 64 (encodeNat wr))) ∧
    ((r.2.2.2 = false ∨ Firmware s) → Full t [a.reg] →
      (t.pois a.reg = true → Traps wr s s t Cause.poison (a.reg.zeroExtend 64)) ∧
      (t.pois a.reg = false → ∃ t1, s1.me = some t1 ∧ Completes wr s s1 t1 ∧
        ∀ m, (ctl.toNat, m) ∈ plainControls → s1.readCtl s.cur.1 s.cur.2 t.ctx ctl.toNat = v &&& m))) ∧
  -- what a register reads as in a cycle is what it held when the last one ended
  (∀ (s : State) (tile slot n k : Nat) (c : BitVec 6), let s1 := s.endCycle k
    s1.atLast.readCtl tile slot c n = s1.readCtl tile slot c n ∧ s1.cycle = s.cycle + k ∧
    ∀ m v, (s1.writeCtl tile slot c m v).atLast.readCtl tile slot c n = s1.readCtl tile slot c n)

/-- The writes of single fields (R114, R115, R207, R246, R239, R265 to R267, R279, R336, R339), each with what it leaves and nothing else where a state is
named; a write to the error log comes before the events of its cycle. Model choices: entry 3 of the log. -/
def Obligations.FieldWrites : Prop :=
  ∀ (s : State) (die : Nat) (c : BitVec 6) (v : Word),
    let d := s.die die
    let quiet := d.now.cycle ≠ s.cycle ∨ d.now.events = []
    -- a write that follows an event of its cycle leaves what the write and then the event would
    let first (f : State → State) : Prop := ∀ (ty : Nat) (unit : BitVec 16) (addr : BitVec 48) (syn : BitVec 60),
      let x := (f (s.logError die ty unit addr syn)).die die
      let y := ((f s).logError die ty unit addr syn).die die
      x.log = y.log ∧ x.seq = y.seq ∧ x.ovf = y.ovf ∧ x.lost = y.lost ∧ x.counts = y.counts
    first (fun s => s.popElog die v) ∧ first (fun s => s.clearElog die v) ∧
    exec (.elogPop die v) s = .next (s.popElog die v) ∧ exec (.elogStatClear die v) s = .next (s.clearElog die v) ∧
    (v.getLsbD 0 = true → quiet → ∃ n, exec (.elogPop die v) s = .next (s.setDie die { d with log := d.log.tail, now := n })) ∧
    (v.getLsbD 0 = false → exec (.elogPop die v) s = .next s) ∧
    (v.getLsbD 63 = true → quiet → ∃ n, exec (.elogStatClear die v) s = .next (s.setDie die { d with ovf := false, lost := 0, now := n })) ∧
    (v.getLsbD 63 = false → exec (.elogStatClear die v) s = .next s) ∧
    exec (.hbmErrClear die v) s = .next (s.setDie die { d with
      uovf := d.uovf && !v.getLsbD 61,
      uncorr := if v.getLsbD 61 then (if d.errNow.1 = s.cycle then BitVec.ofNat 20 d.errNow.2.2 else 0) else d.uncorr,
      covf := d.covf && !v.getLsbD 60,
      corr := if v.getLsbD 60 then (if d.errNow.1 = s.cycle then BitVec.ofNat 40 d.errNow.2.1 else 0) else d.corr }) ∧
    (let n := if s.irq.lostNow.1 = s.cycle then s.irq.lostNow.2 else 0
     exec (.irqStatClear v) s = .next { s with irq := { s.irq with
      ovf := if v.getLsbD 31 then decide (n ≠ 0) else s.irq.ovf,
      lost := if v.getLsbD 31 then BitVec.ofNat 15 (min 0x7FFF n) else s.irq.lost } }) ∧
    (let seed : BitVec 32 := if v.extractLsb' 8 32 = 0 then 1 else v.extractLsb' 8 32
     let e : Die := { d with nrrSeed := seed, nrrTest := v.getLsbD 7, nrrK := BitVec.ofNat 5 (min 16 (v.toNat % 32)) }
     (v.getLsbD 7 = d.nrrTest → exec (.hbmNrrWrite die v) s = .next (s.setDie die e)) ∧
     (v.getLsbD 7 = true → d.nrrTest = false → exec (.hbmNrrWrite die v) s = .next (s.setDie die { e with gens := [(0, seed), (1, seed)] })) ∧
     (v.getLsbD 7 = false → d.nrrTest = true → ∃ s', exec (.hbmNrrWrite die v) s = .next s' ∧
       (∀ k < 2, Tab.get 0 (s'.die die).gens k = Config.randomDraw (s.fresh + k) ∧ Tab.get 1 (s'.die die).acts k = 0) ∧
       s'.fresh = s.fresh + 2 ∧ s'.mem = s.mem ∧ s'.tiles = s.tiles)) ∧
    exec (.ordConsWrite c v) s = .next (s.setCtx c { s.ctx c with ordCons := v }) ∧
    (∃ s', exec (.trapConsWrite c v) s = .next s' ∧ (∀ x, (s'.ctx x).trapCons = if x = c then v else (s.ctx x).trapCons) ∧
      ((∀ tile slot t i, s.thread? tile slot = some t → t.status = .stopped i → i.written = true) → (∀ p ∈ s.tiles, ∀ r ∈ p.2.records, r.1 ≠ c) →
        s' = s.setCtx c { s.ctx c with trapCons := v })) ∧
    (∀ k : BitVec 2, ∃ s', exec (.ctxEvecWrite c k v) s = .next s' ∧
      (∀ n, (s'.ctx c).evec.getLsbD n = if n / 64 = k.toNat then
        (v.getLsbD (n % 64) || ((s.ctx c).evec.getLsbD n && ((s.ctx c).eventsAt s.cycle).1.getLsbD n)) else (s.ctx c).evec.getLsbD n) ∧
      (∀ x, x ≠ c → s'.ctx x = s.ctx x) ∧ s'.mem = s.mem ∧
      (∀ tile slot t, s.thread? tile slot = some t →
        s'.thread? tile slot = some (if v ≠ 0 ∧ t.ctx = c then { t with latch := true } else t))) ∧
    (∃ s', exec (.fabRtdataWrite v) s = .next s' ∧ s'.mem = s.mem ∧ s'.poison = s.poison ∧ s'.rtsel = s.rtsel ∧ s'.fabSelf = s.fabSelf ∧
      s'.reach s.rtsel = (decide (s.rtsel = s.fabSelf) || (v.getLsbD 8 && decide (v.toNat % 16 < 12))) ∧
      (Tab.get (false, 0) s'.routes s.rtsel.toNat).2 = v.extractLsb' 0 4 ∧ (∀ dev, dev ≠ s.rtsel → s'.reach dev = s.reach dev) ∧
      (s.rtsel = s.fabSelf → s' = { s with routes := s'.routes }))

/-- The events of the memory controllers and of the interrupt ring, and the end of an exception window (R113, R114, R158, R278, R279). -/
def Sys2Proof.Spec.ControllerEvents : Prop :=
  ∀ s : State,
    (∀ unit, let die := (unit - Config.hbmBase) / 0xC00000000 / 2
      exec (.hbmScrubWriteback unit) s = .next (s.setDie die { s.die die with scrubs := (s.die die).scrubs.erase unit })) ∧
    (∀ ctl, let d := s.die (ctl / 2)
      let j := ctl % 2
      let n := Tab.get 0 d.acts j
      let x0 := Tab.get (Config.nrrReset ctl) d.gens j
      let x1 := x0 ^^^ (x0 <<< 13)
      let x2 := x1 ^^^ (x1 >>> 17)
      let x := x2 ^^^ (x2 <<< 5)
      let due := d.nrrTest = false ∧ 2 ^ 20 ≤ n
      (¬due → ∃ e : Die, exec (.hbmRowActivate ctl) s = .next (s.setDie (ctl / 2) { d with gens := e.gens, acts := e.acts, refreshes := e.refreshes }) ∧
        Tab.get 0 e.gens j = x ∧ Tab.get 0 e.acts j = n + 1 ∧
        Tab.get 0 e.refreshes j = Tab.get 0 d.refreshes j + if x.toNat % 2 ^ d.nrrK.toNat = 0 then 1 else 0) ∧
      (due → exec (.hbmRowActivate ctl) s = .next s ∧ ∃ s', exec (.nrrReload ctl) s = .next s' ∧
        Tab.get 0 (s'.die (ctl / 2)).gens j = Config.randomDraw s.fresh ∧ Tab.get 1 (s'.die (ctl / 2)).acts j = 0 ∧
        s'.mem = s.mem ∧ s'.tiles = s.tiles) ∧
      (¬due → exec (.nrrReload ctl) s = .next s)) ∧
    (∀ tile c, let x := s.tctx tile c
      (s.cycle / x.excWin.toNat ≤ x.cleared / x.excWin.toNat → exec (.excWindowBoundary tile c) s = .next (s.setTctx tile c x)) ∧
      (x.cleared / x.excWin.toNat < s.cycle / x.excWin.toNat → exec (.excWindowBoundary tile c) s =
        .next (s.setTctx tile c { x with cnt := List.replicate 8 0, fired := List.replicate 8 false, acted := List.replicate 8 false, cleared := s.cycle }))) ∧
    (∀ r rest, s.irq.held = r :: rest →
      let q := s.irq
      let n := 2 ^ q.log2n.toNat
      let seen : BitVec 32 := BitVec.ofNat 32 (leNat (memRead s.mem q.base.toNat 8))
      let a := q.base.toNat + 16 * (1 + r.toNat % 2 ^ 32 % (n - 1))
      let there := q.recent s.cycle < q.held.length ∧ s.populated q.base.toNat = true ∧ (q.prod - seen).toNat < n - 1
      (¬there → exec .irqRecordWrite s = .next s) ∧
      (there → Memory.wf s.mem = true → ∃ s', exec .irqRecordWrite s = .next s' ∧ (s.populated a = true → memRead s'.mem a 16 = leBytes r.toNat 16) ∧
        (∀ b, (s.populated a = false ∨ b < a ∨ a + 16 ≤ b) → s'.byte b = s.byte b) ∧ s'.irq = { q with
          held := rest, prod := q.prod + 1, sent := if q.en then q.sent ++ [(q.core, q.vec + r.extractLsb' 56 8 - 1)] else q.sent } ∧ s'.tiles = s.tiles)) ∧
    (s.irq.held = [] → exec .irqRecordWrite s = .next s)

/-- R156, R158: one event of a class counts once and saturates; the event that passes the threshold acts once in its window, when its cycle is over, on
the thread or as an interrupt; no event changes memory. A WRCTL to these registers comes before the events of its cycle. -/
def Sys2Proof.Spec.ExceptionCounts : Prop :=
  (∀ (s : State) (w : Issuer) (c : Nat), c < 8 →
    let x := s.tctx w.tile w.ctx
    let s1 := s.count1 w c
    let y := s1.tctx w.tile w.ctx
    x.cnt.length = 8 → x.fired.length = 8 → x.acted.length = 8 → x.thresh.length = 8 → s.cycle / x.excWin.toNat ≤ x.cleared / x.excWin.toNat →
    let n : BitVec 32 := if x.cnt.getD c 0 = BitVec.allOnes 32 then BitVec.allOnes 32 else x.cnt.getD c 0 + 1
    let fires := x.thresh.getD c 0 < n ∧ x.acted.getD c false = false
    y.cnt.getD c 0 = n ∧ (∀ k < 8, k ≠ c → y.cnt.getD k 0 = x.cnt.getD k 0 ∧ y.fired.getD k false = x.fired.getD k false) ∧ y.thresh = x.thresh ∧
    s1.mem = s.mem ∧ s1.poison = s.poison ∧ s1.irq = s.irq ∧ (∀ j k, s1.thread? j k = s.thread? j k) ∧
    (fires → y.fired.getD c false = true ∧ y.acted.getD c false = true) ∧
    (¬fires → y.fired.getD c false = x.fired.getD c false ∧ y.acted.getD c false = x.acted.getD c false) ∧
    -- the end of the cycle, where it is the cycle's only event
    (x.now.events = [] → (∀ p ∈ s.tiles, ∀ q ∈ p.2.regs, q.2.now.events = []) →
      (s.tiles.map (·.1)).Pairwise (· < ·) → (∀ p ∈ s.tiles, (p.2.regs.map (·.1)).Pairwise (· < ·)) →
      let s2 := s1.settleEvents
      s2.mem = s.mem ∧ s2.tctx w.tile w.ctx = { y with now := Counted.none } ∧
      (¬fires → s2.irq = s.irq ∧ ∀ j k, s2.thread? j k = s.thread? j k) ∧
      (fires → x.excIrq.getLsbD c = true → s2 = (s1.setTctx w.tile w.ctx { y with now := Counted.none }).irqPush 1 w.tile w.ctx (BitVec.ofNat 64 c)) ∧
      (fires → x.excIrq.getLsbD c = false → s2.irq = s.irq ∧
        (∀ t, s.thread? w.seat.1 w.seat.2.1 = some t → t.inst = w.seat.2.2 → t.ctx = w.ctx → s2.thread? w.seat.1 w.seat.2.1 =
          some { t with held := t.held ++ [.excThresh (BitVec.ofNat 64 (c * 2 ^ 48 + w.pc.toNat))] }) ∧
        ((∀ t, s.thread? w.seat.1 w.seat.2.1 = some t → t.inst ≠ w.seat.2.2) → ∀ j k, s2.thread? j k = s.thread? j k)))) ∧
  (∀ (s : State) (w : Issuer) (c slot n : Nat) (v : Word), (n = 0x48 ∨ (0x50 ≤ n ∧ n ≤ 0x5F)) →
    let x := ((s.count1 w c).writeCtl w.tile slot w.ctx n v).tctx w.tile w.ctx
    let y := ((s.writeCtl w.tile slot w.ctx n v).count1 w c).tctx w.tile w.ctx
    x.cnt = y.cnt ∧ x.fired = y.fired ∧ x.acted = y.acted ∧ x.thresh = y.thresh ∧ x.excIrq = y.excIrq ∧ x.excWin = y.excWin)

/-- R267, R279: two error records of one cycle stand in the order of unit and type, two interrupt records of one cycle in the order of tile and kind,
with sequence numbers and counts in that order; a record of a new cycle stands last. -/
def Sys2Proof.Spec.CycleOrder : Prop :=
  (∀ (s : State) (die ty : Nat) (unit : BitVec 16) (addr : BitVec 48) (syn : BitVec 60), ty < 256 → (s.die die).log.length < 255 →
    let d := s.die die
    let e := (s.logError die ty unit addr syn).die die
    let n := Tab.get (0 : BitVec 32) d.counts ty
    let r : BitVec 256 := BitVec.ofNat 64 s.cycle ++ (if n = BitVec.allOnes 32 then n else n + 1) ++ syn ++ addr ++ BitVec.ofNat 8 ty ++ unit ++ d.seq
    e.seq = d.seq + 1 ∧ Tab.get (0 : BitVec 32) e.counts ty = (if n = BitVec.allOnes 32 then n else n + 1) ∧
    ((∀ x, d.log.getLast? = some x → recStamp x ≠ recStamp r) → e.log = d.log ++ [r]) ∧
    (∀ l x, d.log = l ++ [x] → recStamp x = recStamp r → (∀ y, l.getLast? = some y → recStamp y ≠ recStamp r) →
      (recKey x ≤ recKey r → e.log = l ++ [x, r]) ∧
      (recKey r < recKey x → ∃ a b, e.log = l ++ [a, b] ∧ recSeq a = recSeq x ∧ recSeq b = d.seq ∧ recKey a = recKey r ∧ recKey b = recKey x ∧
        a.extractLsb' 52 108 = addr.zeroExtend 108 + (syn.zeroExtend 108 <<< 48) ∧
        (recType x = recType r → recCount a = recCount x ∧ recCount b = recCount r) ∧
        (recType x ≠ recType r → recCount a = recCount r ∧ recCount b = recCount x)))) ∧
  (∀ (s : State) (kind tile : Nat) (ctx : BitVec 6) (detail : Word), kind < 256 → tile < 2048 → s.irq.held.length < 255 →
    let q := s.irq
    let q1 := (s.irqPush kind tile ctx detail).irq
    let r (k : BitVec 32) : BitVec 128 := detail ++ BitVec.ofNat 8 kind ++ BitVec.ofNat 11 tile ++ ctx ++ (0 : BitVec 7) ++ k
    q1.seq = q.seq + 1 ∧ q1.lost = q.lost ∧
    (q.recent s.cycle = 0 → q1.held = q.held ++ [r q.seq]) ∧
    (∀ l x, q.recent s.cycle = 1 → q.held = l ++ [x] →
      (irqKey x ≤ tile * 256 + kind → q1.held = l ++ [x, r q.seq]) ∧
      (tile * 256 + kind < irqKey x → q1.held = l ++ [r (irqSeq x), x.extractLsb' 32 96 ++ q.seq])))

/-- The events of the error log, the HBM controllers and the interrupt unit, and the counters of exceptions. That a consumer word which has been poisoned
counts as it stands is the model's choice (entry 82). Model choices: entries 1, 3, 8, 48, 55, 82 of the log. -/
def Obligations.DeviceEvents : Prop := ControllerEvents ∧ ExceptionCounts ∧ CycleOrder

/-! ### The order log -/

/-- R236 to R242: what a contender meets at a site, off (those that wait there go in arrival order), recording and replaying; the delivery of a record, a
divergence and the end of a replay. Model choices: entry 48 of the log. -/
def Obligations.OrderLog : Prop :=
  ∀ (s : State) (c : BitVec 6) (point : BitVec 6) (site : BitVec 34),
    let x := (s.ctx c).site point site
    let y := s.ctx c
    let n := 2 ^ (y.ringBase.toNat % 32)
    let base := y.ringBase.toNat % 2 ^ 48 / 2 ^ 12 * 2 ^ 12
    (∀ k : Contender,
      let rec' : Nat := point.toNat + site.toNat * 2 ^ 6 + x.seq.toNat * 2 ^ 40 + k.sid.toNat * 2 ^ 64 + k.tag.toNat * 2 ^ 112
      let goes : Prop := ∃ s1, s.decideAt c point site k = .go s1 ∧ s1.mem = s.mem ∧ s1.tiles = s.tiles ∧ (s1.ctx c).ordProd = y.ordProd
      let holds : Prop := ∃ s1, s.decideAt c point site k = .hold s1 ∧ s1.mem = s.mem ∧ s1.tiles = s.tiles ∧ (s1.ctx c).ordProd = y.ordProd
      let oldest : Prop := ∀ h ∈ x.held, h.sid = k.sid → precedes h.tag k.tag = false
      let slot (j : Nat) : Nat := base + j % n * 16
      (y.mode = 0 → (x.held = [] → s.decideAt c point site k = .go s) ∧ ∀ h rest, x.held = h :: rest →
        ((h.sid ≠ k.sid ∨ h.tag ≠ k.tag) → holds) ∧ (h.sid = k.sid → h.tag = k.tag → goes)) ∧
      (y.mode = 1 → x.held = [] → x.room = none →
        (x.winner = some k.sid → goes) ∧
        (x.winner ≠ some k.sid → s.populated base = true → (y.ordProd - y.ordCons).toNat < n → Memory.wf s.mem = true →
          (y.ordNow.1 ≠ s.cycle → ∃ s1, s.decideAt c point site k = .go s1 ∧ (s1.ctx c).ordProd = y.ordProd + 1 ∧
            memRead s1.mem (slot y.ordProd.toNat) 16 = leBytes rec' 16) ∧
          (∀ e, y.ordNow = (s.cycle, [e]) → y.ordProd ≠ 0 → y.ordProd ≠ y.ordCons → ∃ s1, s.decideAt c point site k = .go s1 ∧ (s1.ctx c).ordProd = y.ordProd + 1 ∧
            (site.toNat / 2 ^ 23 * 64 + point.toNat < e.1 * 64 + e.2.1 → memRead s1.mem (slot (y.ordProd.toNat - 1)) 16 = leBytes rec' 16 ∧
              memRead s1.mem (slot y.ordProd.toNat) 16 = leBytes e.2.2.toNat 16) ∧
            (e.1 * 64 + e.2.1 ≤ site.toNat / 2 ^ 23 * 64 + point.toNat → memRead s1.mem (slot (y.ordProd.toNat - 1)) 16 = leBytes e.2.2.toNat 16 ∧
              memRead s1.mem (slot y.ordProd.toNat) 16 = leBytes rec' 16))) ∧
        (x.winner ≠ some k.sid → (s.populated base = false ∨ n ≤ (y.ordProd - y.ordCons).toNat) → ∃ s1, s.decideAt c point site k = .room s1 ∧
          s1.mem = s.mem ∧ s1.tiles = s.tiles ∧ ((s1.ctx c).site point site).room = some (k.sid, k.tag))) ∧
      (y.mode = 1 → ∀ r, x.room = some r → r ≠ (k.sid, k.tag) → holds) ∧
      (y.mode = 2 → (∀ sid tag rest, x.queue = (x.seq, sid, tag) :: rest → (sid = k.sid → tag = k.tag → goes) ∧ (sid ≠ k.sid ∨ tag ≠ k.tag → holds)) ∧
        (∀ q r rest, x.queue = (q, r) :: rest → q ≠ x.seq → (x.winner = some k.sid → oldest → goes) ∧ (x.winner ≠ some k.sid ∨ ¬oldest → holds)) ∧
        (x.queue = [] → (y.ordProd = y.ordCons → x.winner = some k.sid → oldest → goes) ∧
          (y.ordProd ≠ y.ordCons ∨ x.winner ≠ some k.sid ∨ ¬oldest → holds)))) ∧
    ((s.nextRecord c = none → exec (.replayDeliver c) s = .next s) ∧
      (∀ a r, s.nextRecord c = some (a, r) → a = base + y.ordProd.toNat % n * 16 ∧ r = leNat (memRead s.mem a 16) ∧
        let z := y.site (BitVec.ofNat 6 r) (BitVec.ofNat 34 (r / 2 ^ 6))
        (16 ≤ z.queue.length → ∃ s', exec (.replayDeliver c) s = .next s' ∧ s'.mem = s.mem ∧ s'.tiles = s.tiles ∧ s'.ctx c = y) ∧
        (z.queue.length < 16 → ∃ s', exec (.replayDeliver c) s = .next s' ∧ s'.mem = s.mem ∧ s'.tiles = s.tiles ∧
          (s'.ctx c).ordProd = y.ordProd + 1 ∧ ∃ w ∈ (s'.ctx c).sites, w.point = z.point ∧ w.site = z.site ∧ w.seq = z.seq ∧
            w.queue = z.queue ++ [(BitVec.ofNat 24 (r / 2 ^ 40), BitVec.ofNat 48 (r / 2 ^ 64), BitVec.ofNat 16 (r / 2 ^ 112))]))) ∧
    (let late := y.mode = 2 ∧ x.held ≠ [] ∧ ∃ k, x.since = some k ∧ k + y.modeHold.toNat * 64 ≤ s.cycle
     (¬late → exec (.replayDiverge c point site) s = .next s) ∧
     (late → ∃ s', exec (.replayDiverge c point site) s = .next s' ∧ (s'.ctx c).mode = 0 ∧ (s'.ctx c).ordDiv = true ∧ s'.mem = s.mem ∧
        (s'.ctx c).ordLast.toNat = x.seq.toNat + site.toNat * 2 ^ 24 + point.toNat % 2 ^ 4 * 2 ^ 58 ∧ ((s'.ctx c).site point site).held = x.held ∧
        (∀ h q t, x.held.head? = some h → h.ctx = some q → s.thread? h.tile h.slot = some t → t.ctx = q → t.sid = h.sid →
          s'.thread? h.tile h.slot = some { t with held := t.held ++ [.replayDiverge (point ++ site ++ x.seq)] }) ∧
        -- an issuer that has moved since
        (∀ h q tile slot t, x.held.head? = some h → h.ctx = some q → h.slot < 248 → (∀ u, s.thread? h.tile h.slot = some u → u.ctx ≠ q ∨ u.sid ≠ h.sid) →
          s.streamSeat q h.sid = some (tile, slot) → s.thread? tile slot = some t → t.ctx = q → t.sid = h.sid →
          s'.thread? tile slot = some { t with held := t.held ++ [.replayDiverge (point ++ site ++ x.seq)] }) ∧
        (∀ h, x.held.head? = some h → h.ctx = none → s'.tiles = s.tiles))) ∧
    (let ended := y.mode = 2 ∧ y.ordProd = y.ordCons ∧ ∀ z ∈ y.sites, z.queue = []
     (¬ended → exec (.replayEnd c) s = .next s) ∧
     (ended → ∃ s', exec (.replayEnd c) s = .next s' ∧ (s'.ctx c).mode = 0 ∧ (s'.ctx c).ordEnd = true ∧ s'.mem = s.mem ∧ s'.tiles = s.tiles))

/-! ### Contexts -/

/-- Steps 8 to 10 of CTXSAVE (R258 to R260) from a state: SAVE_SPACE for an area that is too small, after which the context still holds everything;
SAVE_FAILED for state without a poison form that has gone bad, for a write that fails, and for an area outside HBM; otherwise the image in the area, with the
semaphores of the context's tiles and its registers in it, and the arrivals of the image kept apart from those that come later. -/
def Sys2Proof.Spec.Saves (s : State) (q : BitVec 6) (ends : State → Word → Prop) : Prop :=
  let x := s.ctx q
  let base := baseOf x.saveBase 12
  let image := (s.imageOf q).2
  let bytes := image.flatMap Section.bytes
  let need := bytes.length
  let fails := (∃ f ∈ s.flaws, (s.stateOf q f).isSome = true) ∨ (∃ u, .saveWrite u ∈ s.flaws ∧ base ≤ u ∧ u < base + need) ∨
    inHbm base = false ∨ inHbm (base + need - 1) = false
  (x.saveSize.toNat < need → ∃ v : Word, v.extractLsb' 56 8 = 0x21 ∧ v.extractLsb' 40 16 = 0 ∧ v.extractLsb' 0 40 = BitVec.ofNat 40 need ∧
    ends (s.setCtx q { x with state := .stalled }) v) ∧
  (need ≤ x.saveSize.toNat → fails → ∃ s1, (s1.ctx q).state = .lost ∧ ends s1 (status 0x20)) ∧
  (need ≤ x.saveSize.toNat → ¬fails → ∃ s1, (s1.ctx q).state = .saved ∧ (s1.ctx q).kept = x.arrivals ∧ (s1.ctx q).arrivals = [] ∧
    ends s1 (BitVec.ofNat 64 need) ∧ (Memory.wf s.mem = true → memRead s1.mem base need = bytes ∧
      memRead s1.mem base 4 = leBytes 1 4 ∧ memRead s1.mem (base + 16) 4 = leBytes (1 + q.toNat * 2 ^ 16) 4)) ∧
  (∀ k ∈ s.tilesOf q, ∃ y ∈ image, y.ty = 3 ∧ y.tile = k ∧ ∀ j < 256, let z := s.sem k j
    y.field (4 * j) 4 = z.err.toNat * 2 ^ 31 + z.errcnt.toNat * 2 ^ 24 + z.count.toNat) ∧
  ∃ y ∈ image, y.ty = 9 ∧ y.tile = 0 ∧ ∀ n < 0xBC, ctxRegister n = true → (n, x.readCtl n) ∈ y.entries

/-- What a load has restored from the sections of an image (R257, R262), for an image of threads, semaphores and registers, of which no thread waits for a
register and no trap record: every thread in its slot on its mapped tile, its latch set; the semaphores of the tiles; the registers that a section sets, and the
others at reset. -/
def Sys2Proof.Spec.Restored (s s1 : State) (c : BitVec 6) (h : Section) (r : List Section) (p : Placement) : Prop :=
  let old := s.fullMap (s.ctx c)
  let new := s.headerMap h
  let mv (k : Nat) : Nat := (movedTile old new k).getD k
  (∀ (tile l : Nat) (o n : BitVec 16), old[l]? = some o → o.toNat = clusterOf tile → (∀ j < l, ∀ o' : BitVec 16, old[j]? = some o' → o'.toNat ≠ clusterOf tile) →
    new[l]? = some n → n ≠ 0xFFFF → movedTile old new tile = some (tileId n.toNat (tile % 4))) ∧
  ((∀ y ∈ r, y.ty = 2 ∨ y.ty = 3 ∨ y.ty = 9) → (s.ctx c).arrivals = [] →
    (∀ x ∈ p.threads, (∀ d, (x.2.2.reg d).prod = none) ∧ ∀ i, x.2.2.status = .stopped i → i.written = true) →
    (p.threads.Pairwise (fun a b => (a.1, a.2.1) ≠ (b.1, b.2.1)) → ∀ x ∈ p.threads, ∃ w, s1.thread? x.1 x.2.1 = some w ∧
      w = { x.2.2 with latch := true, born := w.born, pipe := w.pipe }) ∧
    (∀ y ∈ r, y.ty = 3 → (∀ z ∈ r, z.ty = 3 → mv z.tile = mv y.tile → z = y) → ∀ j < 256,
      let v := y.field (4 * j) 4
      let z := s1.sem (mv y.tile) j
      z.err = v.testBit 31 ∧ z.errcnt = BitVec.ofNat 7 (v / 2 ^ 24) ∧ z.count = BitVec.ofNat 24 v) ∧
    (∀ n m, (n, m) ∈ plainControls → ctxRegister n = true → n ≠ 0xBC → n ≠ 0xBD →
      (∀ y ∈ r, y.ty = 9 → ∀ v, (n, v) ∈ y.entries → (s1.ctx c).readCtl n = v &&& m) ∧
      ((∀ y ∈ r, y.ty = 9 → ∀ v, (n, v) ∉ y.entries) → (s1.ctx c).readCtl n = Context.reset.readCtl n)))

/-- CTXSAVE and CTXLOAD (R256 to R258, R260 to R262): privilege, operand, the code of each state of the context, the stop, and what a completed save, discard or
load leaves. No thread of the context stands in the issuer's slot: that is so for every issuer of another context, as R256 demands. Model choices: entries 12,
25, 38, 39, 40, 41, 71, 72, 81, 82 of the log. -/
def Obligations.ContextImages : Prop :=
  ∀ (s : State) (t : Thread) (d : GReg) (a : Src), Runs s t →
    let save := Instr.ctxsave d a
    let load := Instr.ctxload d a
    let ga := t.val a.reg
    let c : BitVec 6 := ga.truncate 6
    let x := s.ctx c
    let discard := ga.getLsbD 8
    let gives (i : Instr) (s1 : State) (v : Word) : Prop := ∃ t1, s1.me = some t1 ∧ Completes i s s1 (t1.write d v false)
    let apart (q : BitVec 6) : Prop := ∀ y ∈ s.threadsOf q, (y.1, y.2.1) ≠ s.cur
    let freed : Prop := ∃ s1, (s1.ctx c).state = .free ∧ gives save s1 0
    let finished (s0 : State) (q : BitVec 6) (drop : Bool) : Prop :=
      (drop = true → ∃ s1, (s1.ctx q).state = .free ∧ gives save s1 0) ∧ (drop = false → Saves (s0.quiet q) q (gives save))
    -- the stop is this thread's, or its thread is gone
    let mine : Prop := ∃ tile slot inst, x.stopper = some (tile, slot, inst) ∧
      ((s.cur = (tile, slot) ∧ t.inst = inst) ∨ ∀ u, s.thread? tile slot = some u → u.inst ≠ inst)
    let own := some (s.cur.1, s.cur.2, t.inst)
    (¬Firmware s → Traps save s s t Cause.priv (BitVec.ofNat 64 (encodeNat save)) ∧ Traps load s s t Cause.priv (BitVec.ofNat 64 (encodeNat load))) ∧
    ((s.tiles.map (·.1)).Pairwise (· < ·) → (∀ p ∈ s.tiles, (p.2.threads.map (·.1)).Pairwise (· < ·)) → ∀ q, q ≠ t.ctx → apart q) ∧
    (Firmware s → Full t [a.reg, d] →
      ((ga &&& ~~~0x3F ≠ 0 ∨ c = t.ctx) → Traps load s s t Cause.prot ga) ∧
      (ga &&& ~~~0x3F = 0 → c ≠ t.ctx → t.pois a.reg = true → Traps load s s t Cause.poison (a.reg.zeroExtend 64)) ∧
      (ga &&& ~~~0x3F = 0 → c ≠ t.ctx → t.pois a.reg = false →
        ((x.state = .live ∨ x.state = .stopping ∨ x.state = .stalled) → Completes load s s (t.write d (status 0x23) false)) ∧
        (x.state = .lost → Completes load s s (t.write d (status 0x13) false)) ∧
        -- the image is read, which finds what has gone bad in it
        let s0 := s.touchImage c
        (s0.tiles = s.tiles ∧ s0.ctxs = s.ctxs ∧ s0.mem = s.mem ∧ (s.flaws = [] → s0 = s)) ∧
        (x.state = .free ∨ x.state = .saved → s0.goodImage c = none → Completes load s s0 (t.write d (status 0x22) false)) ∧
        (x.state = .free ∨ x.state = .saved → ∀ h r, s0.goodImage c = some (h, r) →
          ((∃ p ∈ s0.headerMap h, p ≠ 0xFFFF ∧ s0.clusterOn p.toNat = false) → Completes load s s0 (t.write d (status 0x12) false)) ∧
          ((∀ p ∈ s0.headerMap h, p ≠ 0xFFFF → s0.clusterOn p.toNat = true) → s0.placement (s0.fullMap x) (s0.headerMap h) r = none →
            Completes load s s0 (t.write d (status 0x12) false)) ∧
          ((∀ p ∈ s0.headerMap h, p ≠ 0xFFFF → s0.clusterOn p.toNat = true) → ∀ p, s0.placement (s0.fullMap x) (s0.headerMap h) r = some p →
            (s0.pinned c (s0.fullMap x) (s0.headerMap h) = true → Completes load s s0 (t.write d (status 0x24) false)) ∧
            (s0.pinned c (s0.fullMap x) (s0.headerMap h) = false → s0.refused p = true → Completes load s s0 (t.write d (status 0x01) false)) ∧
            (s0.pinned c (s0.fullMap x) (s0.headerMap h) = false → s0.refused p = false → ∃ s1 v, gives load s1 v ∧ (s1.ctx c).state = .live ∧
              v.extractLsb' 56 8 = 0x00 ∧ v.extractLsb' 0 40 = BitVec.ofNat 40 ((h :: r).map fun y => 16 + y.body.length).sum ∧ Restored s0 s1 c h r p)))) ∧
      ((∀ q r b n k, t.status ≠ .blocked (.ctxStop q r b) n k) →
        ((ga &&& ~~~0x13F ≠ 0 ∨ c = t.ctx) → Traps save s s t Cause.prot ga) ∧
        (ga &&& ~~~0x13F = 0 → c ≠ t.ctx → t.pois a.reg = true → Traps save s s t Cause.poison (a.reg.zeroExtend 64)) ∧
        (ga &&& ~~~0x13F = 0 → c ≠ t.ctx → t.pois a.reg = false →
          (x.state = .free → Completes save s s (t.write d (status 0x13) false)) ∧
          (x.state = .lost → discard = false → Completes save s s (t.write d (status 0x13) false)) ∧
          (x.state = .stopping → ¬mine → Completes save s s (t.write d (status 0x23) false)) ∧
          (x.state = .stopping → mine → let s2 := s.setCtx c { x with stopper := own }
            (s2.stopped c none = false → Waits save s s2 t (.ctxStop c discard (s2.step5 c none))) ∧
            (s2.stopped c none = true → apart c → finished s2 c discard)) ∧
          (x.state = .saved → discard = false → Completes save s s (t.write d (status 0x23) false)) ∧
          -- a live context stops from the next cycle on
          (x.state = .live →
            let s1 := if discard then s.refuseLaunches c else s
            let s2 := s1.setCtx c { s1.ctx c with state := .stopping, stopAt := some s.cycle, stopper := own }
            Waits save s s2 t (.ctxStop c discard none)) ∧
          (apart c → x.state = .stalled → discard = false → Saves s c (gives save)) ∧
          (apart c → (x.state = .lost ∨ x.state = .saved ∨ x.state = .stalled) → discard = true → freed))) ∧
      (∀ q drop b n k, t.status = .blocked (.ctxStop q drop b) n k →
        (s.stopped q b = false → Waits save s s t (.ctxStop q drop (s.step5 q b))) ∧
        (s.stopped q b = true → apart q → finished s q drop))) ∧
    (∀ (q : BitVec 6) (b : Option Nat), (∀ k, b = some k → s.step5 q b = some k) ∧ (b = none → s.enginesDone q = true → s.step5 q b = some s.cycle) ∧
      (s.stopped q b = true ↔ s.enginesDone q = true ∧ ∃ k, s.step5 q b = some k ∧ s.accessesDone q k = true) ∧
      ((s.ctx q).stopAt = some s.cycle → s.enginesDone q = false)) ∧
    (let base := baseOf x.saveBase 12
     let n := leNat (memRead s.mem (base + 16 + 776) 4)
     ∀ xs, s.readSections base x.saveSize.toNat n 0 = some xs → s.moreSections base x.saveSize.toNat xs = true → s.goodImage c = none)

/-! ### Links -/

/-- Keys, the switch, and what a port sends (R208, R280 to R285, R339): a slot is judged as it stood before a marker of the cycle, and a switch under a counter that
has ended stops the direction as well; replayed flits go first, then a sealed marker, a control flit, or the oldest packet of a channel under the current slot. -/
def Sys2Proof.Spec.LinkSending : Prop :=
  ∀ (s : State) (port : Nat),
    let q := s.port port
    let x := q.tx q.txcur
    let sealed (key : BitVec 256) (kind : BitVec 2) (pt : BitVec 1792) (f : Flit) : Prop :=
      f.kind = kind ∧ f.slot = q.txcur ∧ f.counter = x.counter ∧ linkKind f.hdr = kind ∧ linkSlot f.hdr = q.txcur ∧
      (f.ct, f.mac) = Config.gcmSeal key (BitVec.ofNat 96 (q.txcur.toNat * 2 ^ 88 + s.fabSelf.toNat * 2 ^ 61 + port % 16 * 2 ^ 57 + x.counter.toNat % 2 ^ 57)) f.hdr pt
    -- a marker of this cycle has switched the receiver, or has found no key; a write of the keys comes before it
    let before := Tab.get Port.reset s.last.ports port
    let took : Prop := q.evNow.1 = s.cycle ∧ q.evNow.2.getLsbD 2 = true
    let failed : Prop := q.evNow.1 = s.cycle ∧ q.evNow.2.getLsbD 1 = true ∧ q.rxDown = true ∧ before.rxDown = false ∧ q.fails = 0
    ∀ cur : Bool, (took → cur = !q.rxcur) → (¬took → cur = q.rxcur) →
    (∀ slot, (q.txcur = slot ∧ (q.tx slot).key.isSome = true → exec (.keyInstall port false slot) s = .next s) ∧
      (¬(q.txcur = slot ∧ (q.tx slot).key.isSome = true) →
        exec (.keyInstall port false slot) s = .next { s.setPort port (q.setTx slot ⟨some s.lnkKeys, 0, false⟩) with lnkKeys := 0 }) ∧
      (cur = slot ∧ (q.rx slot).key.isSome = true → exec (.keyInstall port true slot) s = .next s) ∧
      (¬(cur = slot ∧ (q.rx slot).key.isSome = true) →
        (¬(failed ∧ slot ≠ q.rxcur) →
          exec (.keyInstall port true slot) s = .next { s.setPort port (q.setRx slot ⟨some s.lnkKeys, 0, false⟩) with lnkKeys := 0 }) ∧
        (failed → slot ≠ q.rxcur → ∃ r, exec (.keyInstall port true slot) s = .next { s.setPort port r with lnkKeys := 0 } ∧
          r.rxs = (q.setRx slot ⟨some s.lnkKeys, 0, false⟩).rxs ∧ r.rxcur = slot ∧ r.rxDown = false ∧ r.rxsw = true ∧
          (before.down = false → q.txDown = before.txDown → r.down = false))) ∧
      exec (.keyErase port false slot) s = .next (if q.txcur = slot then s else s.setPort port (q.setTx slot ⟨none, 0, false⟩)) ∧
      (cur = slot → exec (.keyErase port true slot) s = .next s) ∧
      (cur ≠ slot → ¬took → exec (.keyErase port true slot) s = .next (s.setPort port (q.setRx slot ⟨none, 0, false⟩))) ∧
      (cur ≠ slot → took → ∃ r, exec (.keyErase port true slot) s = .next (s.setPort port r) ∧ r.rxs = (q.setRx slot ⟨none, 0, false⟩).rxs ∧
        r.rxcur = cur ∧ r.rxDown = true ∧ r.down = true ∧ r.rxsw = before.rxsw)) ∧
    (let ignored := q.marker.isSome = true ∨ q.markerOut = true ∨ (q.tx (!q.txcur)).key = none
     (ignored → exec (.lnkSwitch port) s = .next s) ∧
     (¬ignored → ∀ key, x.key = some key → x.counter.toNat < 2 ^ 36 → q.txDown = false → ∃ f, sealed key 1 0 f ∧
       exec (.lnkSwitch port) s = .next (s.setPort port { q.setTx q.txcur { x with counter := x.counter + 1 } with marker := some f, txcur := !q.txcur })) ∧
     (¬ignored → (x.key = none ∨ 2 ^ 36 ≤ x.counter.toNat ∨ q.txDown = true) → (x.counter.toNat ≠ 2 ^ 36 ∨ q.txDown = true) →
       exec (.lnkSwitch port) s = .next (s.setPort port { q with txcur := !q.txcur })) ∧
     (¬ignored → x.counter.toNat = 2 ^ 36 → q.txDown = false → ∃ s', exec (.lnkSwitch port) s = .next s' ∧
       s'.port port = { q with txDown := true, down := true, evNow := raises s port 2, txcur := !q.txcur } ∧ s'.tiles = signalled s port ∧
       s'.dies = authLogged s port q.txcur true (BitVec.ofNat 64 (2 ^ 36)) ∧ s'.mem = s.mem)) ∧
    (let due := x.counter.toNat = 2 ^ 36 - 2 ^ 24 ∧ x.warned = false
     (¬due → exec (.linkDue port) s = .next s) ∧
     (due → exec (.linkDue port) s =
       .next { s.setPort port { q.setTx q.txcur { x with warned := true } with due := true, evNow := raises s port 8 } with tiles := signalled s port })) ∧
    (let stops := x.counter.toNat = 2 ^ 36 ∧ q.txDown = false
     (¬stops → exec (.linkCounterExhausted port) s = .next s) ∧
     (stops → exec (.linkCounterExhausted port) s = .next { s.setPort port { q with txDown := true, down := true, evNow := raises s port 2 } with
       tiles := signalled s port, dies := authLogged s port q.txcur true (BitVec.ofNat 64 (2 ^ 36)) })) ∧
    (∀ f fs, q.replay = f :: fs →
      (q.txDown = true → x.counter.toNat ≠ 2 ^ 36 → exec (.flitSend port) s = .next s) ∧
      ((q.txDown = false ∨ x.counter.toNat = 2 ^ 36) →
        exec (.flitSend port) s = .next { s.setPort port { q with replay := fs } with wire := s.wire ++ [(port, f)] })) ∧
    (q.replay = [] → ∀ f, q.marker = some f →
      ((128 ≤ q.retry.length ∨ q.txDown = true) → exec (.flitSend port) s = .next s) ∧
      (q.retry.length < 128 → q.txDown = false → exec (.flitSend port) s =
        .next { s.setPort port { q with marker := none, markerOut := true, retry := q.retry ++ [f] } with wire := s.wire ++ [(port, f)] })) ∧
    (q.replay = [] → q.marker = none → (x.key = none ∨ 128 ≤ q.retry.length ∨ 2 ^ 36 ≤ x.counter.toNat ∨ q.txDown = true) → exec (.flitSend port) s = .next s) ∧
    (q.replay = [] → q.marker = none → ∀ key, x.key = some key → q.retry.length < 128 → x.counter.toNat < 2 ^ 36 → q.txDown = false →
      let sent (kind : BitVec 2) (pt : BitVec 1792) (next : Port → Prop) : Prop := ∃ s' f, exec (.flitSend port) s = .next s' ∧
        s'.wire = s.wire ++ [(port, f)] ∧ sealed key kind pt f ∧
        (s'.port port).retry = q.retry ++ [f] ∧ ((s'.port port).tx q.txcur).counter = x.counter + 1 ∧ ((s'.port port).tx q.txcur).key = some key ∧
        (x.counter.toNat + 1 = 2 ^ 36 - 2 ^ 24 → x.warned = false → (s'.port port).due = true) ∧ s'.mem = s.mem ∧ next (s'.port port)
      (∀ c cs, q.ctl = c :: cs → sent 2 (Config.packControl c.kind c.slot c.counter) fun r => r.ctl = cs ∧ r.out = q.out) ∧
      (q.ctl = [] → q.out ≠ [] → ∃ pre p post, q.out = pre ++ p :: post ∧ (∀ r ∈ pre, r.hdr.vc ≠ p.hdr.vc) ∧
        sent 0 (Config.packPayload p) fun r => r.out = pre ++ post ∧ r.txcur = q.txcur) ∧
      (q.ctl = [] → q.out = [] → exec (.flitSend port) s = .next s))

/-- What a port accepts and refuses (R282, R283, R339): no key, a stopped direction, the expected flit of each kind, a failure, and the control flits. -/
def Sys2Proof.Spec.LinkReceiving : Prop :=
  ∀ (s : State) (port : Nat) (f : Flit),
    let q := s.port port
    let x := q.rx q.rxcur
    let got (key : BitVec 256) : Option (BitVec 1792) := Config.gcmOpen key
      (BitVec.ofNat 96 (q.rxcur.toNat * 2 ^ 88 + (s.neighbour port).toNat * 2 ^ 61 + farPort port % 16 * 2 ^ 57 + x.counter.toNat % 2 ^ 57)) f.hdr f.ct f.mac
    (x.key = none → exec (.flitReceive port f) s = .next { s with dies := authLogged s port (linkSlot f.hdr) false f.counter }) ∧
    (∀ key, x.key = some key →
      (q.rxDown = true ∨ 8 ≤ q.fails → exec (.flitReceive port f) s = .next s) ∧
      (q.rxDown = false → q.fails < 8 →
        let expected := linkSlot f.hdr = q.rxcur ∧ f.counter = x.counter
        (¬expected → q.fails ≠ 0 → exec (.flitReceive port f) s = .next s) ∧
        ((¬expected ∧ q.fails = 0) ∨ (expected ∧ got key = none) → exec (.flitReceive port f) s =
          .next { s.setPort port { q with fails := q.fails + 1, auth := true, evNow := raises s port 1, ctl := q.ctl ++ [⟨1, q.rxcur, x.counter⟩] } with
            tiles := signalled s port, dies := authLogged s port (linkSlot f.hdr) false f.counter }) ∧
        (expected → ∀ pt, got key = some pt →
          let after (s' : State) : Prop := (s'.port port).fails = 0 ∧ ((s'.port port).rx q.rxcur).counter = x.counter + 1 ∧ s'.mem = s.mem
          (linkKind f.hdr = 0 → ∃ s', exec (.flitReceive port f) s = .next s' ∧ after s' ∧
            s'.inflight = s.inflight ++ [.packetHop { Config.unpackPayload f.hdr pt with hdr := Hdr.ofBits f.hdr, port, acked := false }] ∧
            (⟨0, linkSlot f.hdr, f.counter⟩ : Control) ∈ (s'.port port).ctl) ∧
          (linkKind f.hdr = 1 → ∃ s', exec (.flitReceive port f) s = .next s' ∧ after s' ∧ s'.tiles = signalled s port ∧
            ((q.rx (!q.rxcur)).key.isSome = true → (s'.port port).rxcur = !q.rxcur ∧ (s'.port port).rxsw = true) ∧
            ((q.rx (!q.rxcur)).key = none → (s'.port port).rxDown = true ∧ (s'.port port).down = true)) ∧
          (linkKind f.hdr = 2 → let c := Config.unpackControl pt
            let s1 := s.setPort port (q.accept f)
            (∃ s', exec (.flitReceive port f) s = .next s' ∧ after s') ∧
            (c.1 = 0 → exec (.flitReceive port f) s = exec (.ackReceive port c.2.1 c.2.2) s1) ∧
            (c.1 = 1 → exec (.flitReceive port f) s = exec (.nakReceive port c.2.1 c.2.2) s1) ∧
            (c.1 = 2 → exec (.flitReceive port f) s = exec (.downNoticeReceive port) s1)) ∧
          (linkKind f.hdr = 3 → ∃ s' u a y, exec (.flitReceive port f) s = .next s' ∧ after s' ∧ s'.inflight = s.inflight ∧
            s'.dies = (s.logError 0 8 u a y).dies)))) ∧
    (∀ slot counter pre post, q.retry = pre ++ f :: post → f.slot = slot → f.counter = counter →
      (∀ g ∈ pre, ¬(g.slot = slot ∧ g.counter = counter)) →
      exec (.nakReceive port slot counter) s = .next (s.setPort port { q with replay := f :: post }) ∧
      ∃ s', exec (.ackReceive port slot counter) s = .next s' ∧ (s'.port port).retry = post ∧ s'.mem = s.mem ∧
        (s'.port port).markerOut = (q.markerOut && !(pre ++ [f]).any fun g => g.kind == 1)) ∧
    (∀ slot counter, (∀ g ∈ q.retry, ¬(g.slot = slot ∧ g.counter = counter)) →
      exec (.nakReceive port slot counter) s = .next s ∧ exec (.ackReceive port slot counter) s = .next s) ∧
    (q.txDown = true → exec (.downNoticeReceive port) s = .next s) ∧
    (q.txDown = false → exec (.downNoticeReceive port) s =
      .next { s.setPort port { q with txDown := true, down := true, evNow := raises s port 2 } with
        tiles := signalled s port, dies := authLogged s port q.txcur true (q.tx q.txcur).counter }) ∧
    -- a write of lnk.evt clears the bits it names, but not those that this cycle raises
    (∀ v : Word, let r := q.writeEvt s.cycle v
      let stays (old : Bool) (bit ev : Nat) : Bool := old && (!v.getLsbD bit || (q.evNow.1 == s.cycle && q.evNow.2.getLsbD ev))
      r.due = stays q.due 63 3 ∧ r.rxsw = stays q.rxsw 62 2 ∧ r.down = stays q.down 61 1 ∧ r.auth = stays q.auth 60 0) ∧
    (q.fails < 8 ∨ q.rxDown = true → exec (.linkAuthDown port) s = .next s) ∧
    (8 ≤ q.fails → q.rxDown = false → exec (.linkAuthDown port) s = .next
      { s.setPort port { q with rxDown := true, down := true, evNow := raises s port 2, ctl := ⟨2, q.rxcur, x.counter⟩ :: q.ctl } with tiles := signalled s port })

/-- Link security: keys, sending and receiving (R280 to R284). Model choices: entries 1, 14, 15, 46, 48, 59, 70 of the log. -/
def Obligations.Links : Prop := LinkSending ∧ LinkReceiving

/-! ### Boot and attestation -/

/-- DEVICE_RESET, the recovery loader and the attestation report (R206, R268 to R274): what reset leaves, which pairs are run, the loader's address and its
answers, and the signed bytes. That DEVICE_RESET leaves cycle 0 is the model's choice (entry 5). Model choices: entries 5, 14, 45, 48, 73 of the log. -/
def Obligations.Boot : Prop :=
  (∀ (s : State) (pins : BootPins), ∃ s', exec (.deviceReset pins) s = .next s' ∧
    s'.fabSelf = pins.devid ∧ s'.boot.identity = pins.puf ∧ s'.mem = [] ∧ s'.poison = [] ∧ s'.tiles = [] ∧ s'.clusters = [] ∧ s'.flumes = [] ∧ s'.ctxs = [] ∧
    s'.windows = [] ∧ s'.routes = [] ∧ s'.ports = [] ∧ s'.banks = [] ∧ s'.bridge = [] ∧ s'.inflight = [] ∧ s'.cycle = 0 ∧ s'.irq = Irq.reset ∧
    s'.agenda = s.agenda ∧ (∀ k < 8, Tab.get 0 (s'.die (k / 2)).gens (k % 2) = Config.randomDraw (s.fresh + k)) ∧
    (Bootable pins.manifest pins.image → Booted s' pins.manifest pins.image) ∧
    (¬Bootable pins.manifest pins.image → s'.boot.phase = .recovery ∧ s'.disabled = [])) ∧
  (∀ (s : State) (ip : BitVec 32),
    let waits := s.boot.phase = .recovery ∧ s.boot.ip = none
    let named (a : BitVec 32) : State := { s with boot := { s.boot with ip := some a } }
    let late := 10 * 10 ^ 6 * Config.cyclesPerMicrosecond < s.cycle
    (waits → ¬late → exec (.dhcpLease ip) s = .next (named ip) ∧ exec .dhcpTimeout s = .next s) ∧
    (waits → late → exec (.dhcpLease ip) s = .next s ∧ exec .dhcpTimeout s = .next (named (BitVec.ofNat 32 (169 * 2 ^ 24 + 254 * 2 ^ 16 + (1 + s.fabSelf.toNat / 256) * 2 ^ 8 + s.fabSelf.toNat % 256)))) ∧
    (¬waits → exec (.dhcpLease ip) s = .next s ∧ exec .dhcpTimeout s = .next s)) ∧
  (∀ (s : State) (bytes : List Byte),
    let serves := s.boot.phase = .recovery ∧ s.boot.ip ≠ none
    let m := s.boot.manifest
    let answers (b : Machine.Boot) (x : MgmtOut) : State := { s with boot := b, mgmt := s.mgmt ++ [x] }
    (¬serves → exec (.tftpWriteManifest bytes) s = .next s ∧ exec (.tftpWriteImage bytes) s = .next s ∧ exec .tftpOtherRequest s = .next s) ∧
    (serves →
      exec .tftpOtherRequest s = .next (answers s.boot (.tftpError 2)) ∧
      (bytes.length = 256 → exec (.tftpWriteManifest bytes) s = .next (answers { s.boot with manifest := bytes } .tftpAck)) ∧
      (bytes.length ≠ 256 → exec (.tftpWriteManifest bytes) s = .next (answers s.boot (.tftpError 2))) ∧
      (m = [] ∨ bytes.length ≠ manifestAt m 0x10 8 → exec (.tftpWriteImage bytes) s = .next (answers s.boot (.tftpError 2))) ∧
      (m ≠ [] → bytes.length = manifestAt m 0x10 8 → ¬Bootable m bytes →
        exec (.tftpWriteImage bytes) s = .next (answers { s.boot with manifest := [] } (.tftpError 0))) ∧
      (m ≠ [] → bytes.length = manifestAt m 0x10 8 → Bootable m bytes → ∃ s', exec (.tftpWriteImage bytes) s = .next s' ∧ Booted s' m bytes ∧
        s'.mgmt = s.mgmt ++ [.tftpAck] ∧ s' = { s with boot := s'.boot, disabled := s'.disabled, mgmt := s'.mgmt }))) ∧
  (∀ (s : State) (nonce : BitVec 256),
    (s.boot.identity = none → exec (.attestationRequest nonce) s = .next { s with mgmt := s.mgmt ++ [.status (BitVec.ofNat 64 (0x25 * 2 ^ 56))] }) ∧
    (∀ key, s.boot.identity = some key → ∃ r bits, exec (.attestationRequest nonce) s =
        .next { s with mgmt := s.mgmt ++ [.report (r ++ leBytes (Config.identitySign key (Config.sha512 r)).toNat 64)] } ∧
      r = leBytes nonce.toNat 32 ++ leBytes s.boot.measurement.toNat 64 ++ leBytes s.boot.fwver.toNat 8 ++ leBytes s.fabSelf.toNat 2 ++
        leBytes (384 - s.disabled.length) 6 ++ leBytes bits 48 ++ List.replicate 32 0 ∧
      (s.disabled.Nodup → (∀ l ∈ s.disabled, l < 384) → ∀ l < 384, bits.testBit l = decide (l ∈ s.disabled))))

/-! ### Vector instructions -/

/-- The checks of R333 that every vector instruction makes on its rows, in order, and the wait of R177. -/
def Sys2Proof.Spec.VectorChecks : Prop :=
  ∀ (s : State) (t : Thread) (i : Instr) (ops : List (VRow × SrcMod)), vectorOps i = some ops → Runs s t → Full t (vectorRegs i) →
    let owned (o : VRow × SrcMod) : Prop := (s.accTile o.1.tile).owner = some (s.cur.1, s.cur.2, t.inst)
    let off := offends i (ops.map fun o => (o.1.tile, s.vty o.1))
    let fits (o : VRow × SrcMod) : Prop := 2 ^ segOf o.2 ≤ laneTotal (s.vty o.1)
    (∀ pre o post, ops = pre ++ o :: post → (∀ q ∈ pre, owned q) → ¬owned o → Traps i s s t Cause.noOwn (BitVec.ofNat 64 o.1.tile.toNat)) ∧
    ((∀ o ∈ ops, owned o) →
      (∀ k, off = some k → Traps i s s t Cause.noOwn (BitVec.ofNat 64 (3 * 256 + k.toNat))) ∧
      (off = none → (∃ o ∈ ops, ¬fits o) → Traps i s s t Cause.illegal (BitVec.ofNat 64 (encodeNat i))) ∧
      (off = none → (∀ o ∈ ops, fits o) →
        (oddRow s i = true → Traps i s s t Cause.illegal (BitVec.ofNat 64 (encodeNat i))) ∧
        (oddRow s i = false → (∀ te d a off, i ≠ .vld te d a off) → (∀ te a off b mb, i ≠ .vst te a off b mb) →
          ((∃ o ∈ ops, (s.cluster (clusterOf s.cur.1)).tilePending o.1.tile = true) → Waits i s s (inTail s t i) (.tiles (ops.map (·.1.tile)))) ∧
          ((∀ o ∈ ops, (s.cluster (clusterOf s.cur.1)).tilePending o.1.tile = false) → (∀ op d va ma, i ≠ .vred op d va ma) →
            WaitsTurn i s s t (turnCycles s i)))))

/-- The element-wise instructions, VDOT, VBC, VMOV, VSCL and the special functions (R155, R183, R186, R187, R189, R252): every lane of the destination row. -/
def Sys2Proof.Spec.LaneResults : Prop :=
  ∀ (s : State) (t : Thread) (i : Instr) (vd : VRow) (srcs : List (VRow × SrcMod)), vectorOps i = some ((vd, .none) :: srcs) →
    (∀ ty g d a b, (laneResult i ty g d a b).isSome = true) → Runs s t → Full t (vectorRegs i) → Turn s t →
    (∀ o ∈ (vd, SrcMod.none) :: srcs, (s.accTile o.1.tile).owner = some (s.cur.1, s.cur.2, t.inst) ∧
      2 ^ segOf o.2 ≤ laneTotal (s.vty o.1) ∧ (s.cluster (clusterOf s.cur.1)).tilePending o.1.tile = false) →
    offends i (((vd, SrcMod.none) :: srcs).map fun o => (o.1.tile, s.vty o.1)) = none →
    let ty := s.vty vd
    let g := ((vectorRegs i).head?.map fun r => (t.val r).toNat).getD 0
    let src (k j : Nat) : Nat := match srcs[k]? with
      | some o => laneAt ty (s.vrow o.1) (modLane o.2 j)
      | none => 0
    let res (j : Nat) : Nat × List Nat := (laneResult i ty g (laneAt ty (s.vrow vd) j) (src 0 j) (src 1 j)).getD (0, [])
    let bad := srcs.any (fun o => s.vbad o.1) || (readsDest i && s.vbad vd) || (vectorRegs i).any t.pois
    ∃ row cs, (∀ j < laneTotal ty, laneAt ty row j = (res j).1 % 2 ^ laneWidth ty) ∧ (∀ c, c ∈ cs ↔ ∃ j < laneTotal ty, c ∈ (res j).2) ∧
      RowsWritten i s s t cs fun v => if v = vd then some (row, bad) else none

/-- R189: the special cases of the special functions on an FP32 lane. -/
def Sys2Proof.Spec.SpecialValues : Prop :=
  (∀ x : BitVec 32, (Fp.dec32 x).isNan = true → ∀ f ∈ [Fp.exp2Lane, Fp.log2Lane, Fp.rcpLane, Fp.rsqLane, Fp.tanhLane],
    f x = (0x7FC00000, if (Fp.dec32 x).isSig then [Class.inv] else [])) ∧
  Fp.exp2Lane 0 = (0x3F800000, []) ∧ Fp.exp2Lane 0x80000000 = (0x3F800000, []) ∧ Fp.exp2Lane 0x7F800000 = (0x7F800000, []) ∧ Fp.exp2Lane 0xFF800000 = (0, []) ∧
  Fp.log2Lane 0 = (0xFF800000, [Class.dz]) ∧ Fp.log2Lane 0x80000000 = (0xFF800000, [Class.dz]) ∧ Fp.log2Lane 0x7F800000 = (0x7F800000, []) ∧
  (∀ x : BitVec 32, 0x80000000 < x → x ≤ 0xFF800000 → Fp.log2Lane x = (0x7FC00000, [Class.inv]) ∧ Fp.rsqLane x = (0x7FC00000, [Class.inv])) ∧
  Fp.rcpLane 0 = (0x7F800000, [Class.dz]) ∧ Fp.rcpLane 0x80000000 = (0xFF800000, [Class.dz]) ∧ Fp.rcpLane 0x7F800000 = (0, []) ∧
  Fp.rcpLane 0xFF800000 = (0x80000000, []) ∧ Fp.rsqLane 0 = (0x7F800000, [Class.dz]) ∧ Fp.rsqLane 0x80000000 = (0xFF800000, [Class.dz]) ∧
  Fp.rsqLane 0x7F800000 = (0, []) ∧ Fp.tanhLane 0 = (0, []) ∧ Fp.tanhLane 0x80000000 = (0x80000000, []) ∧
  Fp.tanhLane 0x7F800000 = (0x3F800000, []) ∧ Fp.tanhLane 0xFF800000 = (0xBF800000, [])

/-- The vector instructions that work lane by lane, from their checks to the row they write (R155, R182, R183, R186, R187, R189, R333). That a VCVT between
BF16 and INT32 names the tile of OD in the check of ownership is the model's reading (entry 23). Model choices: entries 13, 23, 75 of the log. -/
def Obligations.VectorLanes : Prop := VectorChecks ∧ LaneResults ∧ SpecialValues

/-- VCVT (R182, R188): copies and lane conversions, and the two pairings. -/
def Sys2Proof.Spec.Conversion : Prop :=
  ∀ (s : State) (t : Thread) (rm : Rm) (vd va : VRow) (ma : SrcMod), Runs s t →
    let i := Instr.vcvt rm vd va ma
    let d := s.vty vd
    let a := s.vty va
    let src (v : VRow) (j : Nat) : Nat := laneAt a (s.vrow v) (modLane ma j)
    Vectorable s t i → Turn s t →
    (¬(a = .fp32 ∧ d = .bf16) → ¬(a = .bf16 ∧ d = .fp32) → ∃ row cs,
      (∀ j < laneTotal d, laneAt d row j = (convLane rm a d (src va j)).1 % 2 ^ laneWidth d) ∧
      (∀ c, c ∈ cs ↔ ∃ j < laneTotal d, c ∈ (convLane rm a d (src va j)).2) ∧
      RowsWritten i s s t cs fun v => if v = vd then some (row, s.vbad va) else none) ∧
    (a = .fp32 → d = .bf16 → ∃ row cs,
      let from' (j : Nat) : Nat := if j < 256 then src va j else src (below va) (j - 256)
      (∀ j < 512, laneAt .bf16 row j = (convLane rm a d (from' j)).1 % 2 ^ 16) ∧ (∀ c, c ∈ cs ↔ ∃ j < 512, c ∈ (convLane rm a d (from' j)).2) ∧
      RowsWritten i s s t cs fun v => if v = vd then some (row, s.vbad va || s.vbad (below va)) else none) ∧
    (a = .bf16 → d = .fp32 → ∃ lo hi cs,
      (∀ j < 256, laneAt .fp32 lo j = (convLane rm a d (src va j)).1 % 2 ^ 32 ∧ laneAt .fp32 hi j = (convLane rm a d (src va (256 + j))).1 % 2 ^ 32) ∧
      (∀ c, c ∈ cs ↔ ∃ j < 512, c ∈ (convLane rm a d (src va j)).2) ∧
      RowsWritten i s s t cs fun v => if v = vd then some (lo, s.vbad va) else if v = below vd then some (hi, s.vbad va) else none)

/-- VQNT (R147, R190 to R192): the bytes of the destination row, from the registers as they stood when it issued; the update of num.mxbase, and the write to scale
memory by the holder of the innings. -/
def Sys2Proof.Spec.Quantise : Prop :=
  (∀ (s : State) (t : Thread) (f : QFmt) (rm : QRm) (vd va : VRow) (ma : SrcMod) (soff : BitVec 12), Runs s t →
    let i := Instr.vqnt f rm vd va ma soff
    Vectorable s t i → Turn s t →
    let x := s.tctx s.cur.1 t.ctx
    let now := ((s.ctx t.ctx).srseed, x.srtid, x.srpos, x.mxBase)
    let issued := if t.inVector then t.sampled.getD now else now
    let srpos := issued.2.2.1.toNat
    let base := issued.2.2.2.toNat
    let codes (b : Nat) : List Nat := (List.range 32).map fun k => laneAt .fp32 (s.vrow va) (modLane ma (32 * b + k))
    let thr (b k : Nat) : Nat := threshold rm issued.1.toNat issued.2.1.toNat ((srpos / 2 ^ 32 + va.row.toNat) % 2 ^ 32)
      ((srpos % 2 ^ 32 + 32 * b + k) % 2 ^ 32)
    let block (b : Nat) : QBlock := match f with
      | .mx4 => mxBlock base rm (thr b) (codes b)
      | .e4m3 => fp8Block false rm (thr b) (codes b)
      | .e5m2 => fp8Block true rm (thr b) (codes b)
    let q (k : Nat) : Nat := ((block (k / 32)).q).getD (k % 32) 0
    ∃ row cs, (∀ c, c ∈ cs ↔ ∃ b < 8, c ∈ (block b).classes) ∧
      (∀ k < 1024, (row.extractLsb' (8 * k) 8).toNat =
        if f = .mx4 then
          (if k < 128 then q (2 * k) + 16 * q (2 * k + 1) else if 512 ≤ k ∧ k < 520 then (block (k - 512)).scale else if k = 528 then base else 0) % 256
        else
          (if k < 256 then q k else if 512 ≤ k ∧ k < 528 ∧ k % 4 < 2 then (block (2 * ((k - 512) / 4) + k % 4)).scale else 0) % 256) ∧
      ∃ y : TileCtx, y = { x with mxPeak := y.mxPeak, mxClamp := x.mxClamp || (List.range 8).any fun b => (block b).clamp } ∧
        (f ≠ .mx4 → y = x) ∧ y.mxPeak.toNat = (List.range 8).foldl (fun p b => max p ((block b).peak.getD 0)) x.mxPeak.toNat ∧
        (let s1 := s.setTctx s.cur.1 t.ctx y
         let c := s1.cluster (clusterOf s.cur.1)
         let holds := s.leasedAtIssue t
         (t.inVector = false → (holds = true ↔ ∃ l, s.innings s.cur.1 s.cur.2 t = some l)) ∧
         (holds = false → RowsWritten i s s1 t cs fun v => if v = vd then some (row, s.vbad va) else none) ∧
         (holds = true → (∀ l, c.innings = some l → l.cycle ≤ t.issued s) →
           RowsWritten i s (s1.setCluster (clusterOf s.cur.1) (c.push (.scales soff.toNat (row.extractLsb' 4096 128) (s.vbad va)) (s.who t) [])) t cs
             fun v => if v = vd then some (row, s.vbad va) else none) ∧
         (holds = true → (∃ l, c.innings = some l ∧ t.issued s < l.cycle) → RowsWritten i s s1 t cs fun v => if v = vd then some (row, s.vbad va) else none))) ∧
  (∀ (base : Nat) (rm : QRm) (thr : Nat → Nat) (xs : List Nat), base ≤ 246 →
    ((∃ x ∈ xs, (Fp.f32.decode x).isNan = true) → (mxBlock base rm thr xs).scale = 0xFF ∧ (mxBlock base rm thr xs).q = List.replicate 32 0 ∧
      (mxBlock base rm thr xs).classes = [Class.inv]) ∧
    ((∀ x ∈ xs, (Fp.f32.decode x).isNan = false) → base ≤ (mxBlock base rm thr xs).scale + 8 ∧ (mxBlock base rm thr xs).scale ≤ base + 8 ∧
      (mxBlock base rm thr xs).scale ≤ 254))

/-- VCVT and VQNT: conversion between tile types and quantisation (R188, R190 to R192). Model choices: entries 23, 75 of the log. -/
def Obligations.VectorConversions : Prop := Conversion ∧ Quantise

/-- VLD and VST (R101, R128, R187, R333): the checks of the address, the waits, and the 1,024 bytes that move in a slot of the Tailrace. -/
def Sys2Proof.Spec.RowMoves : Prop :=
  ∀ (s : State) (t : Thread) (te : Bool) (a : GReg) (off : BitVec 12) (v : VRow) (m : SrcMod), Runs s t → Full t [a] →
    (s.accTile v.tile).owner = some (s.cur.1, s.cur.2, t.inst) → 2 ^ segOf m ≤ laneTotal (s.vty v) →
    let va := t.val a + off.signExtend 64 * 1024
    let moves (i : Instr) (kind : Access3) (after : State → Nat → Prop) : Prop :=
      (va.toNat % 1024 ≠ 0 → Traps i s s t Cause.align va) ∧
      (va.toNat % 1024 = 0 → ∀ s1,
        (∀ c, s.access (s.who t) kind false va = (s1, .error c) → ∃ t1, s1.me = some t1 ∧ Traps i s s1 t1 c va) ∧
        (∀ pa, s.access (s.who t) kind false va = (s1, .ok pa) →
          (clusterOf (paTile pa) ≠ clusterOf s.cur.1 → Traps i s s1 t Cause.prot va) ∧
          (clusterOf (paTile pa) = clusterOf s.cur.1 → t.pois a = true → Traps i s s1 t Cause.poison (a.zeroExtend 64)) ∧
          (clusterOf (paTile pa) = clusterOf s.cur.1 → t.pois a = false →
            ((s.cluster (clusterOf s.cur.1)).tilePending v.tile = true → Waits i s s1 (inTail s1 t i) (.tiles [v.tile])) ∧
            ((s.cluster (clusterOf s.cur.1)).tilePending v.tile = false → s.fifoOf s.cur.1 s.cur.2 ≠ [] → Waits i s s1 (inTail s1 t i) .drained) ∧
            ((s.cluster (clusterOf s.cur.1)).tilePending v.tile = false → s.fifoOf s.cur.1 s.cur.2 = [] →
              let slot : Prop := s.cycle % 4 = 1 ∧ ∀ j < 16, s.slotUsed (paTile pa * 16 + j) = false
              WaitsTurn i s s1 t 1 ∧ (Turn s1 t → slot → after (s1.useSlots ((List.range 16).map fun j => paTile pa * 16 + j)) pa) ∧
              ((∃ n c, t.status = .blocked (.tail true) n c) → ¬slot → Waits i s s1 (inTail s1 t i) (.tail true)) ∧
              ((∀ g n c, t.status ≠ .blocked (.tail g) n c) → s1.tailFree (clusterOf s.cur.1) = true → ¬slot →
                Waits i s (s1.setCluster (clusterOf s.cur.1) { s1.cluster (clusterOf s.cur.1) with busy := s.cycle + 1, lastServed := s.cur.1 % 4 })
                  (inTail s1 t i) (.tail true))))))
    moves (.vld te v a off) .read (fun s1 pa =>
      let r := s1.readBytes pa 1024
      RowsWritten (.vld te v a off) s r.1 t (if r.2.2 then [Class.psn] else []) fun w =>
        if w = v then some (BitVec.ofNat 8192 (leNat r.2.1), r.2.2) else none) ∧
    moves (.vst te a off v m) .write (fun s1 pa => ∃ row,
      (∀ j < laneTotal (s.vty v), laneAt (s.vty v) row j = laneAt (s.vty v) (s.vrow v) (modLane m j)) ∧
      RowsWritten (.vst te a off v m) s (s1.writeBytes pa (leBytes row.toNat 1024) (s.vbad v)) t [] fun _ => none)

/-- VRED, TAILRACE_START and VRED_FILL (R154, R184, R185): the row as read at issue, the order of the turns, the tree's result and the fill. -/
def Sys2Proof.Spec.Reductions : Prop :=
  (∀ (s : State) (t : Thread) (op : RedOp) (d : GReg) (va : VRow) (ma : SrcMod), Runs s t → Vectorable s t (.vred op d va ma) →
    ∃ v : VredReq, v.op = op ∧ v.ty = s.vty va ∧ v.tileNo = va.tile ∧ v.poison = s.vbad va ∧ v.who = s.who t ∧ v.d = d ∧ v.cycle = s.cycle ∧
      (∀ j < laneTotal (s.vty va), laneAt (s.vty va) v.row j = laneAt (s.vty va) (s.vrow va) (modLane ma j)) ∧
      (let c := s.cluster (clusterOf s.cur.1)
       Completes (.vred op d va ma) s (s.setCluster (clusterOf s.cur.1) { c with vreqs := c.vreqs ++ [.vred v] }) (t.markEmpty d .vred))) ∧
  (∀ (s : State) (k : Nat), let c := s.cluster k
    let waits (r : Nat) : Bool := if r = 4 then (s.millPresents k).isSome else (c.tailFirst r).any fun v => v.cycle < s.cycle
    (((∀ r < 5, waits r = false) ∨ s.cycle < c.busy) → exec (.tailraceStart k) s = .next s) ∧
    (∀ n r, n < 5 → r = (c.lastServed + 1 + n) % 5 → waits r = true → (∀ m < n, waits ((c.lastServed + 1 + m) % 5) = false) → c.busy ≤ s.cycle →
      (r = 4 → ∀ j x, s.millPresents k = some j → c.queue[j]? = some x → ∃ queue,
        let cycles : Nat := match x.cmd with | .che .. => 64 | _ => 66
        exec (.tailraceStart k) s = .next (s.setCluster k { c with lastServed := r, busy := s.cycle + cycles, queue := queue }) ∧
        queue.length = c.queue.length ∧ ∀ n q, c.queue[n]? = some q → queue[n]? = some (if n = j then { q with started := true } else q)) ∧
      (r ≠ 4 → ∀ q pre post, c.vreqs = pre ++ q :: post → q.tile % 4 = r → (∀ u ∈ pre, u.tile % 4 ≠ r) →
        (∀ v, q = .vred v → let x := vredResult v.op v.ty v.row
          let op : VredOp := ⟨v.who.tile, v.who.slot, v.who.inst, v.tileNo, v.d, x.1, v.poison⟩
          let c1 := { c with lastServed := r, busy := s.cycle + 1, vreqs := pre ++ post, vred := c.vred ++ [op] }
          exec (.tailraceStart k) s = .next ((s.setCluster k c1).countAll v.who x.2)) ∧
        (∀ tile slot inst len issued t a b, q = .turn tile slot inst len issued → s.thread? tile slot = some t → t.inst = inst →
          t.status = .blocked (.tail false) a b →
          exec (.tailraceStart k) s = .next ((s.setCluster k { c with lastServed := r, busy := s.cycle + len, vreqs := pre ++ post }).setThread tile slot
            { t with status := .blocked (.tail true) a b }))))) ∧
  (∀ (row : BitVec 8192), let int (j : Nat) : Int := (row.extractLsb' (32 * j) 32).toInt
    let r (op : RedOp) : Int := (vredResult op .int32 row).1.toInt
    r .add = (BitVec.ofInt 32 (((List.range 256).map int).sum)).toInt ∧
    (∃ j < 256, r .min = int j) ∧ (∀ j < 256, r .min ≤ int j) ∧ (∃ j < 256, r .max = int j) ∧ (∀ j < 256, int j ≤ r .max)) ∧
  (∀ (s : State) (k : Nat), (s.cluster k).vred = [] → exec (.vredFill k) s = .next s) ∧
  (∀ (s : State) (k : Nat) (o : VredOp) (os : List VredOp), (s.cluster k).vred = o :: os →
    let s1 := s.setCluster k { s.cluster k with vred := os }
    (∀ t, s.thread? o.tile o.slot = some t → t.inst = o.inst → (t.reg o.d).prod = some .vred →
      ∃ fs, exec (.vredFill k) s = .next (s1.setThread o.tile o.slot { t.write o.d o.val o.poison with fills := fs })) ∧
    ((∀ t, s.thread? o.tile o.slot = some t → t.inst ≠ o.inst ∨ (t.reg o.d).prod ≠ some .vred) → exec (.vredFill k) s = .next s1))

/-- VLD, VST, VRED, and the Tailrace's turns (R128, R154, R184, R185, R187). Model choices: entries 17, 48, 53, 75 of the log. -/
def Obligations.VectorMemory : Prop := RowMoves ∧ Reductions

/-! ### The Millstone -/

/-- LEASE, LFREE, LEASE_GRANT and INNINGS_EXPIRY (R161 to R165): the codes of a request, its place in the queue, the grant and its fill, and the two ends of
an innings with an open chain. -/
def Sys2Proof.Spec.Innings : Prop :=
  (∀ (s : State) (t : Thread) (d : GReg) (nm1 : BitVec 8), Runs s t → Full t [d] →
    let i := Instr.lease d nm1
    let c := s.cluster (clusterOf s.cur.1)
    let mine (l : Lease) : Prop := l.tile = s.cur.1 ∧ l.slot = s.cur.2 ∧ l.inst = t.inst ∧ l.ctx = t.ctx
    let held := (∃ l, c.innings = some l ∧ mine l ∧ s.cycle ≤ l.cycle + l.budget) ∨ ∃ l ∈ c.grants, mine l
    (held → Completes i s s (t.write d (status Code.leaseHeld) false)) ∧
    (¬held → c.cmdsNow < nm1.toNat + 1 → Completes i s s (t.write d (status Code.overLimit) false)) ∧
    (¬held → nm1.toNat + 1 ≤ c.cmdsNow → ∃ l pre post, mine l ∧ l.n = nm1.toNat + 1 ∧ l.cmds = l.n ∧ l.d = d ∧ l.cycle = s.cycle ∧
      l.sid = t.sid ∧ l.tag = BitVec.ofNat 16 t.icount ∧
      c.grants = pre ++ post ∧ (∀ g ∈ pre, g.key ≤ l.key) ∧ (∀ g, post.head? = some g → l.key < g.key) ∧
      Completes i s (s.setCluster (clusterOf s.cur.1) { c with grants := pre ++ l :: post }) (t.markEmpty d (.lease (nm1.toNat + 1))))) ∧
  (∀ (s : State) (t : Thread), Runs s t →
    let c := s.cluster (clusterOf s.cur.1)
    (s.innings s.cur.1 s.cur.2 t = none → Completes .lfree s s t) ∧
    (∀ l, s.innings s.cur.1 s.cur.2 t = some l →
      let s1 := s.setCluster (clusterOf s.cur.1) { c with innings := none, chain := none }
      (c.chain = none → Completes .lfree s s1 t) ∧
      (∀ ch, c.chain = some ch → (∀ e r, t.loops = e :: r → t.pc + 8 ≠ e.endNext) →
        exec .lfree s = .next (s1.stopFor s.cur.1 s.cur.2 { t with pc := t.pc + 8, icount := t.icount + 1, status := .ready, instr := none, owed := none }
          { cause := 0x0A, kind := 1, value := BitVec.ofNat 64 (2 ^ 48 + ch.pc.toNat), pc := t.pc, loop := t.loopPc, resume := t.pc + 8, skip := t.pc + 8,
            popLoop := false, lost := [], written := false })))) ∧
  (∀ (s : State) (k : Nat), let c := s.cluster k
    (∀ l, c.innings = some l → exec (.leaseGrant k) s = .next s) ∧
    let held (g : Lease) : Prop := (s.ctx g.ctx).state.suspended = true ∨ s.cycle ≤ g.cycle
    (c.innings = none → (∀ l ∈ c.grants, held l) → exec (.leaseGrant k) s = .next s) ∧
    (∀ pre l post, c.innings = none → c.grants = pre ++ l :: post → (∀ g ∈ pre, held g) →
      ¬held l → Unlogged s l.ctx 10 (siteOf (tileId k 0) 0) → ∃ s1, exec (.leaseGrant k) s = .next s1 ∧
        (s1.cluster k).innings = some { l with cycle := s.cycle, budget := c.inningsCycles } ∧ (s1.cluster k).cmdsNow = c.inningsCmds ∧
        (s1.cluster k).grants = pre ++ post ∧
        (c.queue.all (fun q => !q.cmd.counted) = true → (s1.cluster k).planes = [] ∧ (s1.cluster k).scale = []) ∧ s1.mem = s.mem ∧
        (∀ t, s.thread? l.tile l.slot = some t → t.inst = l.inst → (t.reg l.d).prod = some (.lease l.n) →
          ∃ fs, s1.thread? l.tile l.slot = some { t.write l.d (BitVec.ofNat 64 l.n) false with fills := fs }))) ∧
  (∀ (s : State) (k : Nat), let c := s.cluster k
    (c.innings = none → exec (.inningsExpiry k) s = .next s) ∧
    (∀ l, c.innings = some l → s.cycle ≤ l.cycle + l.budget → exec (.inningsExpiry k) s = .next s) ∧
    (∀ l, c.innings = some l → l.cycle + l.budget < s.cycle →
      let s1 := s.setCluster k { c with innings := none, chain := none }
      (c.chain = none → exec (.inningsExpiry k) s = .next s1) ∧
      (∀ ch t, c.chain = some ch → s.thread? l.tile l.slot = some t → t.inst = l.inst → exec (.inningsExpiry k) s =
        .next (s1.setThread l.tile l.slot { t with held := t.held ++ [.chainOpen (BitVec.ofNat 64 (2 ^ 48 + ch.pc.toNat))] })) ∧
      (∀ ch, c.chain = some ch → (∀ t, s.thread? l.tile l.slot = some t → t.inst ≠ l.inst) → exec (.inningsExpiry k) s = .next s1)))

/-- AOWN and AFREE (R167): a free tile is taken, zero and not poisoned; an owned one is re-typed or freed once nothing uses it; another thread's is NO_OWN. -/
def Sys2Proof.Spec.TileOwnership : Prop :=
  ∀ (s : State) (t : Thread) (k : BitVec 3) (ty : TileTy), Runs s t →
    let c := s.cluster (clusterOf s.cur.1)
    let x := c.tileOf k
    let me := (s.cur.1, s.cur.2, t.inst)
    let put (y : AccTile) : State := s.setCluster (clusterOf s.cur.1) (c.setTile k y)
    (x.owner = none → Completes (.aown k ty) s (put ⟨some me, ty, [], 0⟩) t) ∧
    (x.owner = none ∨ (∃ o, x.owner = some o ∧ o ≠ me) → Traps (.afree k) s s t Cause.noOwn (BitVec.ofNat 64 k.toNat)) ∧
    (∀ o, x.owner = some o → o ≠ me → Traps (.aown k ty) s s t Cause.noOwn (BitVec.ofNat 64 (256 + k.toNat))) ∧
    (x.owner = some me → c.tilesFree [k] = false → Waits (.aown k ty) s s t (.tiles [k]) ∧ Waits (.afree k) s s t (.tiles [k])) ∧
    (x.owner = some me → c.tilesFree [k] = true → Completes (.aown k ty) s (put { x with ty }) t ∧ Completes (.afree k) s (put ⟨none, .fp32, [], 0⟩) t) ∧
    (c.tilesFree [k] = true ↔ (∀ q ∈ c.queue, q.cmd.accTile ≠ some k) ∧ (∀ v, .vred v ∈ c.vreqs → v.tileNo ≠ k) ∧ ∀ v ∈ c.vred, v.tileNo ≠ k)

/-- The innings of the Millstone and the ownership of accumulator tiles (R161 to R165, R167). Model choices: entries 9, 48, 75 of the log. -/
def Obligations.InningsAndTiles : Prop := Innings ∧ TileOwnership

/-- SCLD, WLD, ASAVE and ALOAD as they are accepted (R160, R163, R168 to R170). -/
def Sys2Proof.Spec.MillLoads : Prop :=
  ∀ (s : State) (t : Thread) (te : Bool) (a b : GReg) (soff10 : BitVec 10) (soff zoff : BitVec 12) (sem : BitVec 8) (f : WFmt) (plane : Bool) (k : BitVec 3),
    Runs s t → Full t [a, b] →
    let ga := t.val a
    let gb := (t.val b).toNat
    let chain := (s.cluster (clusterOf s.cur.1)).chain
    let size : Nat := match f with
      | .int3 => 256 * 48
      | .int4 => 256 * 64
      | .e4m3 => 256 * 128
      | .bf16 => 256 * 256
    (let i := Instr.scld te a b soff10 sem
     CountedChecks i s t 0x44 true fun l =>
      (ga.toNat % 64 ≠ 0 → Traps i s s t Cause.align ga) ∧
      (ga.toNat % 64 = 0 → gb % 64 ≠ 0 → Traps i s s t Cause.align (t.val b)) ∧
      (ga.toNat % 64 = 0 → gb % 64 = 0 → (gb < 64 ∨ 65536 < gb + 64 * soff10.toNat) → Traps i s s t Cause.prot (t.val b)) ∧
      (ga.toNat % 64 = 0 → gb % 64 = 0 → 64 ≤ gb → gb + 64 * soff10.toNat ≤ 65536 →
        RangeChecks i s t .read ga gb [a, b] fun s1 sp => Accepts i s s1 t l (.scld sp soff10.toNat sem) chain)) ∧
    (let i := Instr.wld te f plane a soff zoff
     CountedChecks i s t 0x45 true fun l =>
      (ga.toNat % 64 ≠ 0 → Traps i s s t Cause.align ga) ∧
      (ga.toNat % 64 = 0 → RangeChecks i s t .read ga size [a] fun s1 sp => Accepts i s s1 t l (.wld f plane sp soff.toNat zoff.toNat) chain)) ∧
    (let image (i : Instr) (kind : Access3) (cmd : Span → MillCmd) : Prop :=
      let owner := (s.accTile k).owner
      let me := some (s.cur.1, s.cur.2, t.inst)
      (owner ≠ me → Traps i s s t Cause.noOwn (BitVec.ofNat 64 k.toNat)) ∧
      (owner = me → ga.toNat % 64 ≠ 0 → Traps i s s t Cause.align ga) ∧
      (owner = me → ga.toNat % 64 = 0 → RangeChecks i s t kind ga 65600 [a] fun s1 sp => ∃ pages,
        Completes i s (s1.setCluster (clusterOf s.cur.1) ((s1.cluster (clusterOf s.cur.1)).push (cmd sp) (s1.who t) pages)) t)
     image (.asave te k a sem) .write (fun sp => .asave k sp sem) ∧ image (.aload te k a sem) .read (fun sp => .aload k sp sem))

/-- SCLD_COMPLETE, WLD_COMPLETE, ASAVE_COMPLETE and ALOAD_COMPLETE (R127, R168 to R170): the lines, the plane, the image and the tile, and the signal. -/
def Sys2Proof.Spec.LoadsComplete : Prop :=
  ∀ (s : State) (cl k : Nat),
    let c := s.cluster cl
    (s.millNow cl k = none → ∀ i ∈ [Instr.scldComplete cl k, .wldComplete cl k, .mmaComplete cl k, .cheFoldComplete cl k, .asaveComplete cl k, .aloadComplete cl k],
      exec i s = .next s) ∧
    (Memory.wf s.mem = true → (∀ q ∈ c.queue, q.cmd ≠ .grant) → ∀ x, s.millNow cl k = some x →
      let left (s1 : State) : Prop := (s1.cluster cl).queue = c.queue.eraseIdx k
      let signalled' (s1 : State) (sem : BitVec 8) : Prop :=
        (s.sem x.who.tile sem.toNat).setAt ≠ some s.cycle → s1.sem x.who.tile sem.toNat = { s.sem x.who.tile sem.toNat with
          count := BitVec.ofNat 24 (min (2 ^ 24 - 1) ((s.sem x.who.tile sem.toNat).count.toNat + 1)), changed := some s.cycle }
      (∀ sp line sem n, x.cmd = .scld sp line sem → Span.bytes sp = 64 * n → line + n ≤ 1024 → ∃ s1, exec (.scldComplete cl k) s = .next s1 ∧ left s1 ∧
        signalled' s1 sem ∧ s1.mem = s.mem ∧
        (∀ m < n, Tab.get 0 (s1.cluster cl).scale (line + m) = BitVec.ofNat 512 (leNat (memRead s.mem (Span.at sp (64 * m)) 64))) ∧
        (∀ m < 1024, (m < line ∨ line + n ≤ m) → Tab.get 0 (s1.cluster cl).scale m = Tab.get 0 c.scale m)) ∧
      (∀ f plane sp soff zoff, x.cmd = .wld f plane sp soff zoff → ∃ s1 bs p, exec (.wldComplete cl k) s = .next s1 ∧ left s1 ∧ s1.mem = s.mem ∧
        bs = (s.readSpan sp).2.1 ∧ Tab.find (s1.cluster cl).planes plane.toNat = some p ∧ p = c.loadPlane f soff zoff bs p.poison ∧
        (∀ q : Bool, q ≠ plane → Tab.find (s1.cluster cl).planes q.toNat = Tab.find c.planes q.toNat) ∧
        -- the plane, element by element
        (let n : Nat := match f with
          | .int3 => 48
          | .int4 => 64
          | .e4m3 => 128
          | .bf16 => 256
         s.flaws = [] → Span.bytes sp = 256 * n → (∀ q ∈ sp, q.2 ≠ 0) → p.fmt = f ∧
          (∀ j < 256, ∀ e < 128,
            (f = .bf16 → (p.bits.getD j []).getD e 0 = BitVec.ofNat 16 (spanNat s sp (256 * j + 2 * e) 2)) ∧
            (f ≠ .bf16 → (p.cols.getD j []).getD e none = weightOf c f soff zoff j (spanNat s sp (n * j) n) e)) ∧
          (p.poison = true ↔ (∃ m < 256 * n, s.isPoisoned (Span.at sp m) = true) ∨ (f ≠ .bf16 ∧ ∃ b < 1024, scaleUnsound c (16 * soff + b)) ∨
            ((f = .int3 ∨ f = .int4) ∧ ∃ b < 512, scaleUnsound c (16 * zoff + b))))) ∧
      (∀ t sp sem, x.cmd = .asave t sp sem → x.started = true → sp.foldl (fun n p => n + p.2) 0 = 65600 →
        (∀ j < 65600, ∀ j' < 65600, Span.at sp j = Span.at sp j' → j = j') → ∃ s1, exec (.asaveComplete cl k) s = .next s1 ∧ left s1 ∧ signalled' s1 sem ∧
        (∀ j < 65600, s1.byte (Span.at sp j) = (c.tileOf t).image.getD j 0) ∧
        (∀ a, (∀ j < 65600, a ≠ Span.at sp j) → s1.byte a = s.byte a)) ∧
      (∀ t sp sem (y : AccTile), x.cmd = .aload t sp sem → x.started = true → sp.foldl (fun n p => n + p.2) 0 = 65600 → Sound s sp 65600 →
        (∀ j < 65600, spanByte s sp j = y.image.getD j 0) → ∃ s1, exec (.aloadComplete cl k) s = .next s1 ∧ left s1 ∧ signalled' s1 sem ∧ s1.mem = s.mem ∧
        ((s1.cluster cl).tileOf t).owner = (c.tileOf t).owner ∧ ((s1.cluster cl).tileOf t).ty = y.ty ∧ ((s1.cluster cl).tileOf t).poison = y.poison ∧
        ∀ r < 64, ((s1.cluster cl).tileOf t).row r = y.row r) ∧
      (∀ t sp sem, x.cmd = .aload t sp sem → x.started = true → sp.foldl (fun n p => n + p.2) 0 = 65600 →
        ((Sound s sp 65600 ∧ (spanNat s sp 0 4 ≠ Config.millstoneVersion ∨ 2 < spanNat s sp 4 1 ∨ spanNat s sp 5 3 ≠ 0 ∨ spanNat s sp 16 48 ≠ 0)) ∨
          (s.flaws = [] ∧ ∃ j < 8, s.isPoisoned (Span.at sp (8 * j)) = true)) →
        ∃ s1, exec (.aloadComplete cl k) s = .next s1 ∧ left s1 ∧ (s1.cluster cl).acc = c.acc ∧ s1.mem = s.mem ∧
          (s1.sem x.who.tile sem.toNat).err = true ∧ (s1.sem x.who.tile sem.toNat).count = (s.sem x.who.tile sem.toNat).count)) ∧
    (∀ y : AccTile, y.image.length = 65600 ∧ leNat (y.image.take 4) = Config.millstoneVersion ∧
      (∀ r < 64, ∀ j < 1024, y.image.getD (64 + 1024 * r + j) 0 = (y.row r).extractLsb' (8 * j) 8))

/-- Scale memory, weight planes and tile images (R160, R163, R168 to R170). Model choices: entries 9, 17, 32, 48, 62 of the log. -/
def Obligations.MillstoneData : Prop := MillLoads ∧ LoadsComplete

/-- CHB, MMA and CHE as they are accepted (R163, R171, R172, R174, R175). -/
def Sys2Proof.Spec.ChainCommands : Prop :=
  ∀ (s : State) (t : Thread) (te : Bool), Runs s t →
    let cl := clusterOf s.cur.1
    let c := s.cluster cl
    let chainTrap (i : Instr) (sub : Nat) (pc : Nat) : Prop := Traps i s s t Cause.chainOpen (BitVec.ofNat 64 (sub * 2 ^ 48 + pc))
    (∀ (nm1 : BitVec 8) (a b : GReg), Full t [a, b] →
      let i := Instr.chb te nm1 a b
      let n := nm1.toNat + 1
      CountedChecks i s t 0x46 false fun l =>
        (∀ ch, c.chain = some ch → chainTrap i 2 ch.pc.toNat) ∧
        (c.chain = none → l.cmds < n + 2 → chainTrap i 3 t.pc.toNat) ∧
        (c.chain = none → n + 2 ≤ l.cmds →
          (∀ r, (r = a ∨ r = b) → t.pois r = true → (∀ q, (q = a ∨ q = b) → t.pois q = true → r ≤ q) → Traps i s s t Cause.poison (r.zeroExtend 64)) ∧
          (Clean t [a, b] → Completes i s (s.setCluster cl { c with
            innings := some { l with cmds := l.cmds - 1 }, chains := c.chains + 1,
            chain := some ⟨c.chains + 1, t.pc, n, 0, none, 127, false, (t.val a).truncate 32, (t.val b).truncate 32⟩ }) t))) ∧
    (∀ (f : AFmt) (plane : Bool) (mm1 : BitVec 6) (a : GReg) (idx : Option (GReg × GReg)) (soff : BitVec 12) (k b sem : BitVec 8),
      let i := Instr.mma te f plane mm1 a idx soff k b sem
      let gs : List GReg := a :: (match idx with | some (x, y) => [x, y] | none => [])
      let base := t.val a
      let m := mm1.toNat + 1
      let bf := f == .bf16
      Full t gs → CountedChecks i s t 0x47 false fun l =>
        (c.chain = none → chainTrap i 4 0) ∧
        (∀ ch, c.chain = some ch →
          (ch.issued = ch.expect → chainTrap i 5 ch.pc.toNat) ∧
          (ch.issued ≠ ch.expect → ch.kind = some (!bf) → chainTrap i 7 ch.pc.toNat) ∧
          (ch.issued ≠ ch.expect → ch.kind ≠ some (!bf) →
            (c.planeFmt plane = none ∨ (c.planeFmt plane = some .bf16 ∧ f ≠ .bf16) → Traps i s s t Cause.illegal (firstBits (encodeNat i))) ∧
            (∀ w, c.planeFmt plane = some w → (w = .bf16 → f = .bf16) →
              let accepted (s1 : State) (rs : List (Nat × Bool)) (stride limit : Nat) : Prop := ∀ s2,
                (∀ code v, s1.rowAddresses (s1.who t) base stride limit rs = (s2, .error (code, v)) → ∃ t2, s2.me = some t2 ∧ Traps i s s2 t2 code v) ∧
                (∀ rows, s1.rowAddresses (s1.who t) base stride limit rs = (s2, .ok rows) →
                  (∀ r ∈ gs, t.pois r = true → (∀ q ∈ gs, t.pois q = true → r ≤ q) → Traps i s s2 t Cause.poison (r.zeroExtend 64)) ∧
                  (Clean t gs →
                    let ch1 : Chain := { ch with
                      issued := ch.issued + 1, kind := some bf, bc := if f = .mx4 ∧ ch.mx = false then b else ch.bc, mx := ch.mx || f == .mx4 }
                    Accepts i s s2 t l (.mma ch.number f plane rows soff.toNat k.toNat ch1.bc sem (rs.any fun x => x.1 != 0xFFFF && decide (limit ≤ x.1))) (some ch1)))
              (base.toNat % 64 ≠ 0 → Traps i s s t Cause.align base) ∧
              (base.toNat % 64 = 0 → idx = none → accepted s ((List.range m).map fun j => (j, false)) 64 0x10000) ∧
              (base.toNat % 64 = 0 → ∀ x y, idx = some (x, y) →
                let gi := t.val x
                let st := t.val y
                (gi.toNat % 2 ≠ 0 → Traps i s s t Cause.align gi) ∧
                (gi.toNat % 2 = 0 → st.toNat % 64 ≠ 0 → Traps i s s t Cause.align st) ∧
                (gi.toNat % 2 = 0 → st.toNat % 64 = 0 → 2 ^ 48 ≤ st.toNat → Traps i s s t Cause.prot st) ∧
                (gi.toNat % 2 = 0 → st.toNat % 64 = 0 → st.toNat < 2 ^ 48 → ∀ s1,
                  (∀ code v, s.span (s.who t) .read (2 * m / 65536 + 2) gi (2 * m) = (s1, .error (code, v)) → ∃ t1, s1.me = some t1 ∧ Traps i s s1 t1 code v) ∧
                  (∀ sp, s.span (s.who t) .read (2 * m / 65536 + 2) gi (2 * m) = (s1, .ok sp) →
                    (s1.released s.cur.1 s.cur.2 .dev = false → Waits i s s1 t (.release .dev)) ∧
                    (s1.released s.cur.1 s.cur.2 .dev = true →
                      accepted (s1.readIndices sp m).1 (s1.readIndices sp m).2 (st.toNat % 2 ^ 32) (st.toNat / 2 ^ 32))))))))) ∧
    (∀ (acc : Bool) (k : BitVec 3) (mask : Option GReg) (sem n : BitVec 8), Full t mask.toList →
      let runs (i : Instr) (ev : Option (BitVec 8)) : Prop := CountedChecks i s t 0x48 false fun l =>
        (c.chain = none → chainTrap i 4 0) ∧
        (∀ ch, c.chain = some ch →
          let x := c.tileOf k
          let mine := x.owner = some (s.cur.1, s.cur.2, t.inst)
          let cmd (sp : Option Span) : MillCmd := .che ch.number (ch.kind == some true) ch.bc ch.gta ch.gtw acc k sp sem ev
          (ch.issued < ch.expect → chainTrap i 6 ch.pc.toNat) ∧
          (ch.expect ≤ ch.issued → ¬mine → Traps i s s t Cause.noOwn (BitVec.ofNat 64 k.toNat)) ∧
          (ch.expect ≤ ch.issued → mine → x.ty ≠ .fp32 → Traps i s s t Cause.noOwn (BitVec.ofNat 64 (2 * 256 + k.toNat))) ∧
          (ch.expect ≤ ch.issued → mine → x.ty = .fp32 →
            (mask = none → Accepts i s s t l (cmd none) none) ∧
            (∀ g, mask = some g →
              ((t.val g).toNat % 64 ≠ 0 → Traps i s s t Cause.align (t.val g)) ∧
              ((t.val g).toNat % 64 = 0 → RangeChecks i s t .read (t.val g) 2048 [g] fun s1 sp => Accepts i s s1 t l (cmd (some sp)) none))))
      runs (.cheW te acc k mask sem) none ∧ runs (.cheL te acc k mask sem n) (some n))

/-- MMA_COMPLETE (R137, R139, R141, R142, R153, R156, R172): a row of a chain that is not BF16 adds its exact products to its row of the accumulator and to no
other, and sets the NaN flag of an element that meets a product which is no number; a row of a BF16 chain adds its exact sum, rounded once, to its running sums; what
is poisoned, and the events. -/
def Sys2Proof.Spec.RowsEntered (s : State) (cl k : Nat) (x : MillQueued) : Prop :=
  let c := s.cluster cl
  ∀ n f plane rows soff kstep bc sem beyond, x.cmd = .mma n f plane rows soff kstep bc sem beyond → ∃ s1, exec (.mmaComplete cl k) s = .next s1 ∧
    ((s.sem x.who.tile sem.toNat).setAt ≠ some s.cycle →
      (s1.sem x.who.tile sem.toNat).count.toNat = min (2 ^ 24 - 1) ((s.sem x.who.tile sem.toNat).count.toNat + 1)) ∧
    s1.mem = s.mem ∧ (s1.cluster cl).queue = c.queue.eraseIdx k ∧ (s1.cluster cl).caChain = n ∧ (s1.cluster cl).acc = c.acc ∧
    ∀ p, Tab.find c.planes plane.toNat = some p →
      let d := s1.cluster cl
      let same : Prop := c.caChain = n
      let old (i : Nat) : List Int := if c.caChain = n then Tab.get (List.replicate 256 0) c.ca i else List.replicate 256 0
      let oldN (i : Nat) : List Bool := if c.caChain = n then Tab.get (List.replicate 256 false) c.caNan i else List.replicate 256 false
      let oldS (i : Nat) : List (BitVec 32) := if c.caChain = n then Tab.get (List.replicate 256 0) c.caSum i else List.replicate 256 0
      let per := AFmt.kPerRow f
      let weights (j : Nat) : List (Option Int) := ((p.cols.getD j []).drop (kstep * per)).take per
      let acts (i pa : Nat) : List (Option Int) := (List.range per).map fun e => activation f (leNat (memRead s.mem pa 64)) e
        (blockScale f (c.scaleByte (16 * soff + 4 * i + e / 32)) bc).1
      let unsound := p.poison = true ∨ (f ≠ .bf16 ∧ ∃ b < 4 * rows.length, scaleUnsound c (16 * soff + b))
      let rowUnsound (pa : Nat) : Prop := ∃ u < 8, s.isPoisoned (pa + 8 * u) = true
      let gone (i : Nat) : Prop := ∃ y bad, rows[i]? = some (y, bad) ∧ (bad = true ∨ unsound ∨ ∃ pa, y = some pa ∧ rowUnsound pa)
      (f ≠ .bf16 → p.cols.length = 256 → (∀ i, (old i).length = 256) → (∀ i, (oldN i).length = 256) → ∀ i j, j < 256 →
        let new := (Tab.get (List.replicate 256 0) d.ca i).getD j 0
        let newN := (Tab.get (List.replicate 256 false) d.caNan i).getD j false
        ((∀ pa bad, rows[i]? ≠ some (some pa, bad)) → new = (old i).getD j 0 ∧ newN = (oldN i).getD j false) ∧
        (∀ pa bad, rows[i]? = some (some pa, bad) → new = (old i).getD j 0 + (dot (weights j) (acts i pa)).1 ∧
          ((p.cols.getD j []).length = 128 → kstep * per + per ≤ 128 → (newN = true ↔ (oldN i).getD j false = true ∨
            ∃ e < per, (p.cols.getD j []).getD (kstep * per + e) none = none ∨ (acts i pa).getD e none = none)))) ∧
      (f = .bf16 → (∀ i, (oldS i).length = 256) → ∀ i j, j < 256 →
        let new := (Tab.get (List.replicate 256 0) d.caSum i).getD j 0
        let weight (e : Nat) : Option Int :=
          if p.fmt = .bf16 then bf16Value ((p.bits.getD j []).getD (32 * kstep + e) 0).toNat
          else ((p.cols.getD j []).getD (32 * kstep + e) none).map fun w => w * 2 ^ 115
        ((∀ pa bad, rows[i]? ≠ some (some pa, bad)) → new = (oldS i).getD j 0) ∧
        (∀ pa bad, rows[i]? = some (some pa, bad) → kstep < 4 →
          (if p.fmt = .bf16 then p.bits.length = 256 ∧ (p.bits.getD j []).length = 128 else p.cols.length = 256 ∧ (p.cols.getD j []).length = 128) →
          ∀ q : Nat → Int, (∀ e < 32, ∃ w a, weight e = some w ∧ bf16Value (leNat (memRead s.mem (pa + 2 * e) 2)) = some a ∧ q e = w * a) →
            ∃ r cs, Delivers .rne (((List.range 32).map q).sum * 2 ^ 32) false (r, cs) ∧ new = (Fp.add32 .rne ((oldS i).getD j 0) r).1)) ∧
      -- poison, and the events that are counted against the issuer
      (s.flaws = [] → (∀ (i pa : Nat) (bad : Bool), rows[i]? = some (some pa, bad) → pa % 8 = 0) → (∀ i < 64, d.caPoison.getLsbD i = true ↔ (same ∧ c.caPoison.getLsbD i = true) ∨ gone i) ∧
        ∃ cs, s1.tctx x.who.tile x.who.ctx = (s.countAll x.who cs).tctx x.who.tile x.who.ctx ∧ (Class.gth ∈ cs ↔ beyond = true) ∧
          (Class.psn ∈ cs ↔ ∃ i, gone i) ∧
          (f ≠ .bf16 → (Class.inv ∈ cs ↔ ∃ i pa bad j, rows[i]? = some (some pa, bad) ∧ j < p.cols.length ∧ (dot (weights j) (acts i pa)).2 = true) ∧
            (Class.fmt ∈ cs ↔ f = .mx4 ∧ ∃ i pa bad, rows[i]? = some (some pa, bad) ∧ ∃ b < 4, let y := scaleAt c (16 * soff + 4 * i + b)
              y ≠ 0xFF ∧ (bc.toNat + 8 < y ∨ y + 8 < bc.toNat))))

/-- The value of an element at the end of a chain (R141, R142, R153): the NaN flag and the specials of the tensor scales first, then one rounding of the
exact product. -/
def Sys2Proof.Spec.FoldValues : Prop :=
  ∀ (c : Cluster) (bc : BitVec 8) (gta gtw : BitVec 32) (i j : Nat), j < 256 →
    let neg (x : BitVec 32) : Bool := x.msb
    let inf := isInf gta = true ∨ isInf gtw = true
    let signed (b : Bool) : BitVec 32 := if b then 0xFF800000 else 0x7F800000
    ((Tab.get (List.replicate 256 0) c.ca i).length = 256 → (Tab.get (List.replicate 256 false) c.caNan i).length = 256 →
      let r := (c.foldRow false bc gta gtw i).getD j (0, [])
      let ca := (Tab.get (List.replicate 256 (0 : Int)) c.ca i).getD j 0
      let flag := (Tab.get (List.replicate 256 false) c.caNan i).getD j false = true ∨ isNan gta = true ∨ isNan gtw = true
      (c.foldRow false bc gta gtw i).length = 256 ∧
      (flag → r.1 = 0x7FC00000) ∧
      (¬flag → inf → (ca = 0 → r = (0x7FC00000, [Class.inv])) ∧ (ca ≠ 0 → r = (signed (xor (decide (ca < 0)) (xor (neg gta) (neg gtw))), []))) ∧
      (¬flag → ¬inf → ChainDelivers 175 (xor (decide (ca < 0)) (xor (neg gta) (neg gtw))) (ca.natAbs * magOf gta * magOf gtw * 2 ^ bc.toNat) r)) ∧
    ((Tab.get (List.replicate 256 0) c.caSum i).length = 256 →
      let r := (c.foldRow true bc gta gtw i).getD j (0, [])
      let sum := (Tab.get (List.replicate 256 (0 : BitVec 32)) c.caSum i).getD j 0
      let flag := isNan sum = true ∨ isNan gta = true ∨ isNan gtw = true
      let infs := inf ∨ isInf sum = true
      let zero := (isFinite sum = true ∧ magOf sum = 0) ∨ (isFinite gta = true ∧ magOf gta = 0) ∨ (isFinite gtw = true ∧ magOf gtw = 0)
      let sign := xor (neg sum) (xor (neg gta) (neg gtw))
      (c.foldRow true bc gta gtw i).length = 256 ∧
      (flag → r.1 = 0x7FC00000) ∧
      (¬flag → infs → (zero → r = (0x7FC00000, [Class.inv])) ∧ (¬zero → r = (signed sign, []))) ∧
      (¬flag → ¬infs → ChainDelivers 276 sign (magOf sum * magOf gta * magOf gtw * 2 ^ bc.toNat) r))

/-- MMA_COMPLETE and CHE_FOLD_COMPLETE (R141, R142, R153, R156, R172, R174): what the rows of an MMA leave, and the fold, which writes each element of the tile
once, under its mask, with its events and its poison. -/
def Sys2Proof.Spec.ChainResults : Prop :=
  ∀ (s : State) (cl k : Nat), 
    let c := s.cluster cl
    (∀ q ∈ c.queue, q.cmd ≠ .grant) → ∀ x, s.millNow cl k = some x →
    let signalled' (s1 : State) (sem : BitVec 8) : Prop :=
      (s.sem x.who.tile sem.toNat).setAt ≠ some s.cycle → (s1.sem x.who.tile sem.toNat).count.toNat = min (2 ^ 24 - 1) ((s.sem x.who.tile sem.toNat).count.toNat + 1)
    RowsEntered s cl k x ∧
    (∀ n bf bc gta gtw acc t mask sem ev, x.cmd = .che n bf bc gta gtw acc t mask sem ev → x.started = true → c.caChain = n → ∃ s1,
      exec (.cheFoldComplete cl k) s = .next s1 ∧ signalled' s1 sem ∧ s1.mem = s.mem ∧ (s1.cluster cl).queue = c.queue.eraseIdx k ∧
      (∀ e, ev = some e → (s1.ctx x.who.ctx).evec.getLsbD e.toNat = true) ∧
      (∀ u, u ≠ t → (s1.cluster cl).tileOf u = c.tileOf u) ∧ ((s1.cluster cl).tileOf t).owner = (c.tileOf t).owner ∧
      let masked (i j : Nat) : Bool := match mask with
        | none => false
        | some sp => (leNat (memRead s.mem (Span.at sp (32 * i)) 32)).testBit j
      let old (i j : Nat) : BitVec 32 := ((c.tileOf t).row i).extractLsb' (32 * j) 32
      let r (i j : Nat) : BitVec 32 × List Nat := (c.foldRow bf bc gta gtw i).getD j (0, [])
      (∀ i < 64, (c.foldRow bf bc gta gtw i).length = 256 → ∀ j < 256,
        (((s1.cluster cl).tileOf t).row i).extractLsb' (32 * j) 32 =
          if acc then (if masked i j then old i j else (Fp.add32 .rne (old i j) (r i j).1).1) else if masked i j then 0xFF800000 else (r i j).1) ∧
      (mask = none → ∀ i < 64, ((s1.cluster cl).tileOf t).poison.getLsbD i = (c.caPoison.getLsbD i || (acc && (c.tileOf t).poison.getLsbD i))) ∧
      ((∀ i < 64, (c.foldRow bf bc gta gtw i).length = 256) → ∃ cs, s1.tctx x.who.tile x.who.ctx = (s.countAll x.who cs).tctx x.who.tile x.who.ctx ∧
        ∀ e, e ∈ cs ↔ ∃ i < 64, ∃ j < 256, e ∈ (r i j).2 ∨ (acc = true ∧ masked i j = false ∧ e ∈ (Fp.add32 .rne (old i j) (r i j).1).2)))

/-- Chains: CHB, MMA, CHE, and what the array and the fold leave (R137, R139, R141, R142, R153, R156, R163, R171 to R175). That a fold with .acc takes the
poison of the old row too is the model's choice (entry 32). Model choices: entries 9, 17, 32, 48, 94 of the log. -/
def Obligations.Chains : Prop := ChainCommands ∧ FoldValues ∧ ChainResults

/-! ### The Flumes -/

/-- The ten Flume commands (R41, R193, R196, R198 to R201): the checks in their order, the descriptor's snapshot, the wait for room, a length of 0, and the
command that joins the queue. That a poisoned length of CPY, CPYRED and CPYFILL raises POISON is the model's choice (entry 95). Model choices: entries 17, 44,
88, 95 of the log. -/
def Obligations.FlumeCommands : Prop :=
  ∀ (s : State) (t : Thread) (i : Instr) (kind : FKind) (d a b : GReg) (sem : BitVec 8) (ds ev : Option (BitVec 8)),
    flumeForm i = some (kind, d, a, b, sem, ds, ev) → Runs s t → Full t [d, a, b] →
    let fl := flumeOf s.cur.1
    let gd := t.val d
    let ga := t.val a
    let gb := t.val b
    let unit : Nat := match kind with | .red _ .bf16 _ => 2 | _ => 8
    let seq : Bool := match kind with | .red _ _ q => q | _ => false
    let strided : Bool := kind == .cpys || kind == .cpysel
    let fill : Bool := kind == .fill
    let q := gb.toNat / 2 ^ 32 % 2 ^ 16
    let g := gb.toNat / 2 ^ 48
    let command (len : Nat) (desc : List Byte) : FCmd :=
      ⟨kind, gd, ga, len, desc, if seq then q else 0, if seq then g else 0, sem, ds, ev, fill && t.pois a, s.who t, t.sid, BitVec.ofNat 16 t.icount⟩
    let poisonThen (s1 : State) (regs : List GReg) (after : Prop) : Prop :=
      (∀ r ∈ regs, t.pois r = true → (∀ x ∈ regs, t.pois x = true → r ≤ x) → Traps i s s1 t Cause.poison (r.zeroExtend 64)) ∧ (Clean t regs → after)
    let accepted (s1 : State) (k : FCmd) : Prop :=
      let x := s1.flume fl
      (32 ≤ x.queue.length → Waits i s s1 t .flumeRoom) ∧
      (x.queue.length < 32 → k.len = 0 →
        let s2 := s1.signal s.cur.1 sem.toNat 1
        let s3 := match ev with | some e => s2.setEvents t.ctx (eventBit e.toNat) | none => s2
        ∃ t1, s3.me = some t1 ∧ Completes i s s3 t1) ∧
      (x.queue.length < 32 → k.len ≠ 0 →
        let r : FRun := { number := s1.serial, cmd := k, pos := 0, done := false, fault := none, packets := [], sel := none, parts := [], classes := [] }
        Completes i s ({ s1.setFlume fl { x with queue := x.queue ++ [r] } with serial := s1.serial + 1 }) t)
    (gd.toNat % unit ≠ 0 → Traps i s s t Cause.align gd) ∧
    (gd.toNat % unit = 0 → fill = false → ga.toNat % unit ≠ 0 → Traps i s s t Cause.align ga) ∧
    (gd.toNat % unit = 0 → (fill = true ∨ ga.toNat % unit = 0) →
      (strided = false →
        (gb.toNat % unit ≠ 0 → Traps i s s t Cause.align gb) ∧
        (gb.toNat % unit = 0 → (if seq then ¬(1 ≤ g ∧ q < g) else 2 ^ 32 ≤ gb.toNat) → Traps i s s t Cause.prot gb) ∧
        (gb.toNat % unit = 0 → (if seq then 1 ≤ g ∧ q < g else gb.toNat < 2 ^ 32) →
          poisonThen s (if fill then [d, b] else [d, a, b]) (accepted s (command (gb.toNat % 2 ^ 32) [])))) ∧
      (strided = true →
        (gb.toNat % 64 ≠ 0 → Traps i s s t Cause.align gb) ∧
        (gb.toNat % 64 = 0 → ∀ s1,
          (∀ c, s.access (s.who t) .read false gb = (s1, .error c) → ∃ t1, s1.me = some t1 ∧ Traps i s s1 t1 c gb) ∧
          (∀ pa, s.access (s.who t) .read false gb = (s1, .ok pa) →
            (∀ j < 8, s1.unitClear s.cur.1 s.cur.2 (pa + 8 * j) = false → (∀ h < j, s1.unitClear s.cur.1 s.cur.2 (pa + 8 * h) = true) →
              Waits i s s1 t (.unitDrained (pa + 8 * j))) ∧
            ((∀ j < 8, s1.unitClear s.cur.1 s.cur.2 (pa + 8 * j) = true) → ¬ServesRead s1 pa →
              Asks i s s1 t gb pa (.descriptor (command (gb.toNat % 2 ^ 32) []) i gb [d, a, b])) ∧
            ((∀ j < 8, s1.unitClear s.cur.1 s.cur.2 (pa + 8 * j) = true) → ServesRead s1 pa →
              let s2 := ((s1.useSlot (bankOf pa)).readBytes pa 64).1
              let bs := ((s1.useSlot (bankOf pa)).readBytes pa 64).2.1
              let bad (j : Nat) : Bool := s2.poison.contains (pa + 8 * j)
              (∀ j < 8, bad j = true → (∀ h < j, bad h = false) → Traps i s s2 t Cause.poison (gb + BitVec.ofNat 64 (8 * j))) ∧
              ((∀ j < 8, bad j = false) → ¬Describes kind bs → Traps i s s2 t Cause.prot gb) ∧
              ((∀ j < 8, bad j = false) → Describes kind bs →
                let len := if kind = .cpysel then manifestAt bs 4 4 else manifestAt bs 0 4 * manifestAt bs 4 4 * manifestAt bs 8 4
                poisonThen s2 [d, a, b] (accepted s2 (command len bs))))))))

/-- FLUME_COMMAND_START (R127, R193, R201, R204): the first command of a context that is not stopped (R258, R353) follows the previous command's last read, and a
CPYSEL reads its bitmap first, once: a saved one that had started moves the rows it had selected. The remain of a command whose bitmap could not be read counts every row of its descriptor, which is the model's choice. -/
def Sys2Proof.Spec.FlumeStarts : Prop :=
  ∀ (s : State) (f : Nat),
    let x := s.flume f
    let same := exec (.flumeCommandStart f) s = .next s
    let held (r : FRun) : Bool := s.flumesStop r.cmd.who.ctx
    ((∃ r ∈ x.runs, r.done = false) → same) ∧
    ((∀ r ∈ x.queue, held r = true) → same) ∧
    (∀ pre r post, x.queue = pre ++ r :: post → (∀ y ∈ pre, held y = true) → held r = false →
      (s.storesDone r.cmd.who = false → same) ∧
      ((∀ y ∈ x.runs, y.done = true ∧ y.number ≠ r.number) → s.storesDone r.cmd.who = true → r.packets = [] → r.parts = [] → r.fault = none →
        let k := r.cmd
        let s1 := s.setFlume f { x with queue := pre ++ post }
        let starts (s2 : State) (sel : Option (List Nat)) : Prop :=
          (r.pos < commandBytes k (sel.getD []) →
            exec (.flumeCommandStart f) s = .next (s2.setFlume f { s2.flume f with runs := (s2.flume f).runs ++ [{ r with done := false, sel }] })) ∧
          (commandBytes k (sel.getD []) ≤ r.pos → ∃ s3, exec (.flumeCommandStart f) s = .next s3 ∧
            Signalled s2 s3 k.who.tile k.s.toNat 1 ∧ (s3.flume f).queue = pre ++ post ∧ (s3.flume f).runs = x.runs ∧ s3.mem = s2.mem)
        (k.kind ≠ .cpysel → starts s1 none) ∧
        (k.kind = .cpysel → ∀ rows, r.sel = some rows → starts s1 (some rows)) ∧
        (k.kind = .cpysel → r.sel = none → s.cycle % 4 ≠ 3 → same) ∧
        (k.kind = .cpysel → r.sel = none → s.cycle % 4 = 3 →
          let n := manifestAt k.desc 4 4
          let bm : Word := BitVec.ofNat 64 (manifestAt k.desc 8 8)
          (∀ s2 c va bad, s1.readBitmap f k.who bm ((n + 63) / 64) = (s2, .error (c, va, bad)) → ∃ s3, exec (.flumeCommandStart f) s = .next s3 ∧
            Recorded s2 s3 f { r with sel := none } c va) ∧
          (∀ s2 bs, s1.readBitmap f k.who bm ((n + 63) / 64) = (s2, .ok bs) → ∃ rows, rows.Pairwise (· < ·) ∧
            (∀ i, i ∈ rows ↔ i < n ∧ (bs.getD (i / 8) 0).getLsbD (i % 8) = true) ∧ starts s2 (some rows)))))

/-- FLUME_READ (R194, R199 to R201, R203, R204): the next packet of the command that is reading, when one read fills it; a failure stops the command. -/
def Sys2Proof.Spec.FlumeReads : Prop :=
  ∀ (s : State) (f : Nat),
    let x := s.flume f
    ((∀ r ∈ x.runs, r.done = true) → exec (.flumeRead f) s = .next s) ∧
    (∀ pre r post, x.runs = pre ++ r :: post → (∀ y ∈ pre, y.done = true) → r.done = false →
      let k := r.cmd
      let rows := r.sel.getD []
      let total := commandBytes k rows
      let dst (pos : Nat) : Word := (runAt k rows (pos / runBytes k)).2 + BitVec.ofNat 64 (pos % runBytes k)
      let d := dst r.pos
      let o := r.pos % runBytes k
      let n := min (min (runBytes k - o) (256 - d.toNat % 256)) (total - r.pos)
      let held := s.flumesStop k.who.ctx
      (held = true → exec (.flumeRead f) s = .next s) ∧
      (held = false → r.pos < total → 0 < runBytes k →
        let fails (s1 : State) (c : BitVec 8) (va : Word) (bad : Bool) : Prop :=
          (r.packets = [] → r.parts = [] → ∃ s3, exec (.flumeRead f) s = .next s3 ∧ Recorded s1 s3 f r c va) ∧
          ((r.packets ≠ [] ∨ r.parts ≠ []) → exec (.flumeRead f) s = .next (s1.setRun f
            { r with done := true, fault := some (c, va), classes := if bad = true then r.classes ++ [Class.psn] else r.classes }))
        let writes (s1 : State) (m : Nat) (bs : List Byte) (bad : Bool) (pages : List (Nat × Nat)) (banks : List Nat) : Prop :=
          let slot : Prop := ∀ j ∈ banks, s.cycle % 4 = 3 ∧ s.slotUsed j = false
          (∀ c b s2, s1.flumeAccess f k.who .write (!reduces k) d = (s2, .error (c, b)) → fails s2 c d b) ∧
          (∀ pa pg s2, s1.flumeAccess f k.who .write (!reduces k) d = (s2, .ok (pa, pg)) →
            (total ≤ r.pos + m ∨ (dst (r.pos + m)).toNat / 256 ≠ d.toNat / 256) →
            (¬slot → exec (.flumeRead f) s = .next s) ∧
            (slot → exec (.flumeRead f) s = .next (({ s2.useSlots banks with serial := s2.serial + 1 } : State).setRun f
              { r with pos := r.pos + m, done := decide (total ≤ r.pos + m), packets := r.packets ++ [⟨r.pos, d, [(pa, bs)], bad, s2.serial, pages ++ [pg]⟩],
                       classes := if bad = true ∧ k.poison = false then r.classes ++ [Class.psn] else r.classes })))
        ((runAt k rows (r.pos / runBytes k)).1 = none → ∃ bs, bs.length = n ∧
          (∀ j < n, bs.getD j 0 = (patternOf k).extractLsb' (8 * ((d.toNat + j) % 8)) 8) ∧ writes s n bs k.poison [] []) ∧
        (∀ src, (runAt k rows (r.pos / runBytes k)).1 = some src →
          let a := src + BitVec.ofNat 64 o
          let m := min n (65536 - a.toNat % 65536)
          ∀ s1,
            (∀ c b, s.flumeAccess f k.who .read true a = (s1, .error (c, b)) → fails s1 c a b) ∧
            (∀ pa pg, s.flumeAccess f k.who .read true a = (s1, .ok (pa, pg)) →
              writes (s1.readBytes pa m).1 m (s1.readBytes pa m).2.1 (s1.readBytes pa m).2.2 [pg] (banksOf pa m)))))

/-- FLUME_PACKET_LAND for a packet of one write (R194, R195): its bytes, its poison, Signal(ds, 1) at the tile that received it, and with a command's last
packet Signal(s, 1) and the event bit. While the context is stopped only a packet that has begun to write lands (R204). -/
def Sys2Proof.Spec.FlumeLanding : Prop :=
  ∀ (s : State) (f n : Nat) (r : FRun) (p : FPacket) (pa : Nat) (bs : List Byte),
    (((s.flume f).runs.map fun r => r.packets.map fun p => (r, p)).flatten)[n]? = some (r, p) →
    reduces r.cmd = false → r.fault = none → p.writes = [(pa, bs)] → bs ≠ [] → Memory.wf s.mem = true →
    let k := r.cmd
    let stopped := s.flumesStop k.who.ctx
    let slot : Prop := ∀ j ∈ banksOf pa bs.length, s.cycle % 4 = 3 ∧ s.slotUsed j = false
    (¬slot → exec (.flumePacketLand f n) s = .next s) ∧
    (stopped = true → r.packets = [p] → p.start + bs.length = r.pos → exec (.flumePacketLand f n) s = .next s) ∧
    (stopped = true → s.mayLand r p = false → exec (.flumePacketLand f n) s = .next s) ∧
    (stopped = false ∨ s.mayLand r p = true → slot →
    let tile := if inSram pa then paTile pa else k.who.tile
    let ends : Bool := r.done && (r.packets.length == 1) && r.parts.isEmpty
    ∃ s1, exec (.flumePacketLand f n) s = .next s1 ∧
      (∀ j < bs.length, s1.byte (pa + j) = bs.getD j 0) ∧ (∀ q, (q < pa ∨ pa + bs.length ≤ q) → s1.byte q = s.byte q) ∧
      (p.poison = true → ∀ u ∈ unitsOf pa bs.length, s1.poison.contains u = true) ∧
      (p.poison = false → ∀ u ∈ s1.poison, ¬(pa ≤ u ∧ u + unitSize u ≤ pa + bs.length) ∨ u ∉ unitsOf pa bs.length) ∧
      (∀ u, u ∉ unitsOf pa bs.length → s1.poison.contains u = s.poison.contains u) ∧
      (∀ τ κ, Signalled s s1 τ κ
        ((if τ = tile ∧ k.ds.map (·.toNat) = some κ then 1 else 0) + (if ends = true ∧ τ = k.who.tile ∧ κ = k.s.toNat then 1 else 0))) ∧
      (ends = true → (∀ y ∈ (s1.flume f).runs, y.number ≠ r.number) ∧ ∀ e, k.ev = some e → (s1.ctx k.who.ctx).evec.getLsbD e.toNat = true) ∧
      (ends = false → { r with packets := r.packets.erase p } ∈ (s1.flume f).runs))

/-- FLUME_PACKET_LAND for a reducing packet (R202): its parts go to their banks, a .seq contribution in the order of q, with a hold buffer of 64. Packets of one
.arr command in record or replay, and of one .seq command, land in order, which is the model's choice. -/
def Sys2Proof.Spec.ReductionLanding : Prop :=
  ∀ (s : State) (f n : Nat) (r : FRun) (p : FPacket) (pa : Nat) (bs : List Byte) (op : RedOp) (ty : RedTy) (seq : Bool),
    (((s.flume f).runs.map fun r => r.packets.map fun p => (r, p)).flatten)[n]? = some (r, p) →
    r.cmd.kind = .red op ty seq → p.writes = [(pa, bs)] → bs ≠ [] → inSram pa = true →
    let k := r.cmd
    let same := exec (.flumePacketLand f n) s = .next s
    let first := r.packets.head? = some p
    let x := s.tile (paTile pa)
    let key := pa / 256 * 65536 + k.g
    (s.mayLand r p = false → same) ∧
    (s.flumesStop k.who.ctx = true → r.fault = none → r.packets = [p] → p.start + bs.length = r.pos → same) ∧
    (s.flumesStop k.who.ctx = false → s.mayLand r p = true) ∧
    (s.mayLand r p = true → seq = false → first ∨ (s.ctx k.who.ctx).mode = 0 → ∃ s1 ps, exec (.flumePacketLand f n) s = .next s1 ∧ Parts f r p pa bs op ty seq ps ∧ AtBanks s s1 ps) ∧
    (seq = false → ¬first → (s.ctx k.who.ctx).mode ≠ 0 → same) ∧
    (seq = true → ¬first → same) ∧
    (s.mayLand r p = true → seq = true → first → Tab.get 0 x.expq key = k.q →
      (∀ y ∈ x.hold, ¬(y.block = pa / 256 ∧ y.g = k.g ∧ y.q = (k.q + 1) % k.g)) → ∃ s1 ps, exec (.flumePacketLand f n) s = .next s1 ∧
        Parts f r p pa bs op ty seq ps ∧ AtBanks s s1 ps ∧ Tab.get 0 (s1.tile (paTile pa)).expq key = (k.q + 1) % k.g) ∧
    (s.mayLand r p = true → seq = true → first → Tab.get 0 x.expq key ≠ k.q → x.hold.length < 64 → ∃ s1 ps, exec (.flumePacketLand f n) s = .next s1 ∧
      Parts f r p pa bs op ty seq ps ∧ (s1.tile (paTile pa)).hold = x.hold ++ [⟨pa / 256, k.q, k.g, ps⟩] ∧
      (s1.tile (paTile pa)).expq = x.expq ∧ s1.banks = s.banks) ∧
    (seq = true → first → Tab.get 0 x.expq key ≠ k.q → 64 ≤ x.hold.length → same)

/-- CPYRED_APPLY (R101, R195, R202, R252): in a cycle of the bank's mesh-in slot the part at the head of its queue is combined into the destination, and with
a packet's last part the packet has landed; the slot is then used. -/
def Sys2Proof.Spec.ReductionApply : Prop :=
  (∀ (s : State) (tile bank : Nat), s.bank (tile * 16 + bank) = [] ∨ (s.cycle % 8 ≠ 2 ∧ s.cycle % 8 ≠ 6) ∨ s.slotUsed (tile * 16 + bank) = true →
    exec (.cpyredApply tile bank) s = .next s) ∧
  (∀ (s : State) (tile bank : Nat) (q : RedPart) (rest : List BankReq), s.bank (tile * 16 + bank) = .red q :: rest →
    s.cycle % 8 = 6 → s.slotUsed (tile * 16 + bank) = false → (∀ x ∈ rest, s.bankLive x = true) → bank < 16 →
    q.arr = false ∨ Unlogged s q.who.ctx 2 (siteOf tile bank) → Memory.wf s.mem = true → s.flaws = [] →
    (∀ r, ((s.flume q.flume).runs ++ (s.flume q.flume).queue).find? (·.number == q.cmd) = some r → r.fault = none) →
    let n : Nat := if q.ty = .bf16 then 2 else 4
    let m := q.bytes.length
    m % n = 0 → ∃ s1, exec (.cpyredApply tile bank) s = .next s1 ∧ s1.bank (tile * 16 + bank) = rest ∧
      s1.slotUsed (tile * 16 + bank) = true ∧
      (∀ e < m / n, leNat (memRead s1.mem (q.pa + n * e) n) =
        reduced q.op q.ty (leNat (memRead s.mem (q.pa + n * e) n)) (leNat ((q.bytes.drop (n * e)).take n)) % 2 ^ (8 * n)) ∧
      (∀ a, (a < q.pa ∨ q.pa + m ≤ a) → s1.byte a = s.byte a) ∧
      (∀ u, s1.poison.contains u = (s.poison.contains u || (q.poison && (unitsOf q.pa m).contains u))) ∧
      (∀ r left τ0, (s.flume q.flume).runs.find? (·.number == q.cmd) = some r → r.parts.find? (·.1 == q.number) = some (q.number, left, τ0) →
        let lands : Bool := decide (left ≤ 1)
        let ends : Bool := lands && r.done && r.packets.isEmpty && (r.parts.length == 1)
        ∀ τ κ, Signalled s s1 τ κ
          ((if lands = true ∧ τ = τ0 ∧ r.cmd.ds.map (·.toNat) = some κ then 1 else 0) +
            (if ends = true ∧ τ = r.cmd.who.tile ∧ κ = r.cmd.s.toNat then 1 else 0))))

/-- The Flume's own steps: a command starts, reads, lands, reduces and ends (R127, R193 to R195, R199 to R204). Model choices: entries 17, 42, 43, 44, 48, 82,
85, 86, 87 of the log. -/
def Obligations.FlumeEvents : Prop := FlumeStarts ∧ FlumeReads ∧ FlumeLanding ∧ ReductionLanding ∧ ReductionApply

/-! ### Every instruction, every step -/

/-- R34, R35, R70: a privileged instruction in a user slot is PRIV; an empty source marked `!` is EMPTY_READ with the lowest such register; any other empty
source or destination blocks the thread at the instruction, which has no effect. A register is not empty for the instruction that has left it so and is executed
again: an HGET of the own tile, a RECV (R84, R230). FETST waits for an empty gd that is also its ga, which is the model's reading (entry 31), and a repeated
HGET of the own tile is let through (entry 67). Model choices: entries 31, 34, 67 of the log. -/
def Obligations.EmptyOperands : Prop :=
  (∀ (s : State) (t : Thread) (d : GReg), Runs s t → (t.reg d).prod ≠ none → Waits (.fetst d d) s s t (.regs [d])) ∧
  ∀ (s : State) (t : Thread) (i : Instr) (srcs : List Src) (others : List GReg) (priv : Bool), operandsOf i = some (srcs, others, priv) → Runs s t →
    let own (r : GReg) : Prop := (i = .recv ∧ (t.reg r).prod = some .recv) ∨
      ∃ a k, i = .hget r a ∧ (t.reg r).prod = some (.hget k) ∧ (handleNull k = true ∨ (handleDev k = s.fabSelf ∧ handleTile k = s.cur.1))
    let empty (r : GReg) : Prop := (t.reg r).prod ≠ none ∧ ¬own r
    let trapped (r : GReg) : Prop := ∃ x ∈ srcs, x.reg = r ∧ x.trap = true ∧ empty r
    (priv = true → s.cur.2 < 248 → Traps i s s t Cause.priv (firstBits (encodeNat i))) ∧
    (priv = false ∨ Firmware s →
      (∀ r, trapped r → (∀ q, trapped q → r ≤ q) → Traps i s s t Cause.emptyRead (r.zeroExtend 64)) ∧
      ((∀ r, ¬trapped r) → ((∃ x ∈ srcs, empty x.reg) ∨ ∃ r ∈ others, empty r) → ∃ rs, Waits i s s t (.regs rs) ∧
        ∀ r, r ∈ rs ↔ empty r ∧ ((∃ x ∈ srcs, x.reg = r) ∨ r ∈ others)))

/-- What a next state of an arithmetic instruction, a load, a store, a branch, a loop or a read of a register leaves as it was (R10, R57, R104): memory, the
other registers, the thread's identity, spill register and return stack, every other thread, every semaphore and the Millstones, unless it took a trap. -/
def Obligations.RegisterFrame : Prop :=
  ∀ (s s1 : State) (i : Instr) (d : Option GReg) (t t1 : Thread), writesOnly i = some d → Runs s t → exec i s = .next s1 → Runs s1 t1 →
    (∀ x, t1.status ≠ .stopped x) →
    (∀ a, s1.byte a = s.byte a) ∧ s1.cur = s.cur ∧ (∀ r, some r ≠ d → t1.reg r = t.reg r) ∧
    t1.ctx = t.ctx ∧ t1.inst = t.inst ∧ t1.sid = t.sid ∧ t1.spill = t.spill ∧ t1.rets = t.rets ∧ t1.latch = t.latch ∧ t1.handle = t.handle ∧
    t1.launch = t.launch ∧ ((∀ n, i ≠ .setpri n) → t1.pri = t.pri) ∧
    (∀ tile slot, (tile, slot) ≠ s.cur → s1.thread? tile slot = s.thread? tile slot) ∧
    (∀ tile k, s1.sem tile k = s.sem tile k) ∧ s1.clusters = s.clusters

/-- The record of a trap (R243 to R246): what a trap of before kind says, the 32 bytes in the context's ring with the continuations of a STORE_LOST, the
latch of slot 254 or the interrupt, and a record that is held while the ring has no room. -/
def Obligations.TrapRecord : Prop :=
  (∀ (t : Thread) (n : Nat) (c : BitVec 8) (v : Word), t.before n c v =
    { cause := c, kind := 0, value := v, pc := t.pc, loop := (t.loops.head?.map (·.pc)).getD 0, resume := t.pc, skip := t.pc + BitVec.ofNat 48 n,
      popLoop := false, lost := [], written := false }) ∧
  (∀ (s : State) (tile slot : Nat) (t : Thread) (i : TrapInfo), i.written = false → Memory.wf s.mem = true →
    let c := s.ctx t.ctx
    let n := 2 ^ (c.trapRing.toNat % 32)
    let base := c.trapRing.toNat % 2 ^ 48 / 32 * 32
    let ext := (i.lost.length + 1) / 2
    let room := s.populated base = true ∧ (c.trapProd - c.trapCons).toNat + 1 + ext ≤ n
    let piece (j : Nat) : Nat := base + (c.trapProd.toNat + j) % n * 32
    let s1 := s.stopFor tile slot t i
    (∃ t1, s1.thread? tile slot = some t1 ∧ t1.pc = t.pc ∧ t1.loops = t.loops ∧ (∀ r, t1.val r = t.val r ∧ t1.pois r = t.pois r) ∧
      (room → t1.status = .stopped { i with written := true }) ∧ (¬room → t1.status = .stopped i)) ∧
    (¬room → s1.mem = s.mem ∧ (s1.ctx t.ctx).trapProd = c.trapProd ∧ ((∀ w n k, t.status ≠ .blocked w n k) → s1.ctxs = s.ctxs) ∧ s1.irq = s.irq) ∧
    (room →
      let w : BitVec 256 := BitVec.ofNat 256 (leNat (memRead s1.mem (piece 0) 32))
      (s1.ctx t.ctx).trapProd = c.trapProd + BitVec.ofNat 64 (1 + ext) ∧
      w.extractLsb' 0 8 = i.cause ∧ w.extractLsb' 8 1 = BitVec.ofBool (i.cause == 0x0F) ∧ w.extractLsb' 9 7 = 0 ∧ w.extractLsb' 16 2 = i.kind ∧
      w.extractLsb' 18 1 = 0 ∧ w.extractLsb' 19 6 = t.ctx ∧ w.extractLsb' 25 8 = BitVec.ofNat 8 slot ∧ w.extractLsb' 33 8 = t.inst ∧
      w.extractLsb' 41 11 = BitVec.ofNat 11 tile ∧ w.extractLsb' 52 4 = BitVec.ofNat 4 ext ∧ w.extractLsb' 56 8 = 0 ∧
      w.extractLsb' 64 48 = i.pc ∧ w.extractLsb' 112 16 = 0 ∧ w.extractLsb' 128 64 = i.value ∧ w.extractLsb' 192 48 = i.loop ∧ w.extractLsb' 240 16 = 0 ∧
      (∀ j e, i.lost[j]? = some e → e.unit < 2 ^ 48 →
        leNat (memRead s1.mem (piece (1 + j / 2) + j % 2 * 16) 8) = e.mask.toNat * 2 ^ 56 + e.unit ∧
        leNat (memRead s1.mem (piece (1 + j / 2) + j % 2 * 16 + 8) 8) = e.data.toNat) ∧
      (i.lost.length % 2 = 1 → leNat (memRead s1.mem (piece ext + 16) 16) = 0) ∧
      (∀ q, (∀ j < 1 + ext, q < piece j ∨ piece j + 32 ≤ q) → s1.byte q = s.byte q) ∧
      (slot < 248 → s1.irq = s.irq ∧ ∀ f, s.thread? tile 254 = some f → s1.thread? tile 254 = some { f with latch := true }) ∧
      (248 ≤ slot → s.irq.held.length < 256 → s1.irq.held.length = s.irq.held.length + 1) ∧
      (∀ τ κ, (τ, κ) ≠ (tile, slot) → (τ, κ) ≠ (tile, 254) → s1.thread? τ κ = s.thread? τ κ)))

/-- The issue of a slot runs an instruction in a state: what exec answers, with the instruction kept in a thread that blocks in it (R35). -/
def Sys2Proof.Spec.RunsInstr (s s1 : State) (tile slot : Nat) (t : Thread) (i : Instr) : Prop :=
  (∀ s2, exec i s1 = .next s2 →
    (∀ u, s2.thread? tile slot = some u → (∀ w n c, u.status ≠ .blocked w n c) → s.issueSlot tile slot = .next s2) ∧
    (∀ u w n c, s2.thread? tile slot = some u → u.status = .blocked w n c → u.inst = t.inst → u.loopPending = false →
      s.issueSlot tile slot = .next (s2.setThread tile slot { u with instr := some i })) ∧
    (s2.thread? tile slot = none → s.issueSlot tile slot = .next s2)) ∧
  (∀ r, exec i s1 = .refused r → s.issueSlot tile slot = .refused r)

/-- A step runs the decoded instruction (R32 to R35, R56, R60, R109, R247, R253): a turn of a tile's Wheel issues a slot, and the issue of a slot takes a held
event first; otherwise it goes on with the instruction in which the thread is blocked, or fetches at PC and runs what the bytes decode to, or stops the thread
for
the failed fetch, the poisoned word or the undecodable bytes. That a blocked thread goes on with the instruction it keeps, behind a held event unless a bank
or the Tailrace has its request, is the model's reading (entry 26), and that skip continues at PC + 4 where the first word faults is its choice (entry 89).
Model choices: entries 1, 16, 19, 26, 74, 89 of the log. -/
def Obligations.StepRunsDecoded : Prop :=
  (∀ (s : State) (us : List Turn) (tile : Nat), s.agenda = .wheel tile :: us → step s = ({ s with agenda := us } : State).wheel tile) ∧
  (∀ (s : State), s.agenda = [] → s.focus ≠ 0 ∨ (s.semWork = none ∧ s.inflight = [] ∧ s.pending = none) →
    (s.nextTile = none → let x := s.settleLate.settleEvents
      step s = .next { x with cycle := s.cycle + 1, focus := 0, last := x.shadow }) ∧
    (∀ tile s1, s.nextTile = some tile → s.wheel tile = .next s1 → step s = .next { s1 with focus := tile + 1 })) ∧
  (∀ (s : State) (tile slot : Nat) (t : Thread), s.thread? tile slot = some t → (∀ x, t.status ≠ .stopped x) → (∀ n c, t.status ≠ .blocked .dying n c) →
    let s0 : State := { s with cur := (tile, slot) }
    (∀ h, firstHeld t.held = some h → (∀ n c, t.status ≠ .blocked .bank n c) → (∀ g n c, t.status ≠ .blocked (.tail g) n c) →
      s.issueSlot tile slot = .next (s0.takeHeld tile slot t h)) ∧
    (t.held = [] → t.loopPending = false → ∀ i, t.blockedIn = some i → RunsInstr s s0 tile slot t i) ∧
    (t.held = [] → t.loopPending = false → t.blockedIn = none → ∀ s1,
      (∀ c pc n, s0.fetch (s0.who t) t.born t.pc = (s1, .error (c, pc, n)) → ∃ t1, s1.me = some t1 ∧
        s.issueSlot tile slot = .next (s1.stopFor tile slot t1 (t1.before n c (pc.zeroExtend 64)))) ∧
      (s.past = [] →
        (∀ c, s0.access (s0.who t) .fetch true (t.pc.zeroExtend 64) = (s1, .error c) → s0.fetch (s0.who t) t.born t.pc = (s1, .error (c, t.pc, 4))) ∧
        (∀ c pa sa, s0.access (s0.who t) .fetch true (t.pc.zeroExtend 64) = (sa, .ok pa) → sa.flaws = [] → leNat (memRead sa.mem pa 4) % 4 ≥ 2 →
          sa.access (s0.who t) .fetch true ((t.pc + 4).zeroExtend 64) = (s1, .error c) →
          s0.fetch (s0.who t) t.born t.pc = (s1, .error (c, t.pc + 4, 4 * (leNat (memRead sa.mem pa 4) % 4))))) ∧
      (∀ x i rest, s0.fetch (s0.who t) t.born t.pc = (s1, .ok x) → x.bad = false → decode x.bytes = .ok (i, rest) → RunsInstr s s1 tile slot t i) ∧
      (∀ x e, s0.fetch (s0.who t) t.born t.pc = (s1, .ok x) → x.bad = false → decode x.bytes = .error e → ∃ t1, s1.me = some t1 ∧
        s.issueSlot tile slot = .next (s1.stopFor tile slot t1 (t1.before x.bytes.length Cause.illegal (firstBits (bytesToNat x.bytes))))) ∧
      (∀ x, s0.fetch (s0.who t) t.born t.pc = (s1, .ok x) → x.bad = true → ∃ t1, s1.me = some t1 ∧
        s.issueSlot tile slot = .next (s1.stopFor tile slot t1 (t1.before x.bytes.length Cause.poison (t.pc.zeroExtend 64)))) ∧
      (∀ pa i, s.past = [] → s0.access (s0.who t) .fetch true (t.pc.zeroExtend 64) = (s1, .ok pa) → s1.flaws = [] → (∀ u ∈ unitsOf pa 4, s1.poison.contains u = false) →
        i.wf = true → i.size = 4 → memRead s1.mem pa 4 = encode i → RunsInstr s s1 tile slot t i)))

/-- Instruction words as the spec writes them out decode to the instructions they stand for. -/
def Obligations.DecodeWords : Prop :=
  decodeTableWord 32 0xFFFA5510 = some (.addi 5 ⟨5, false⟩ 0x7FFD) ∧ decodeTableWord 32 0x01821604 = some (.div 6 ⟨1, false⟩ ⟨2, false⟩) ∧
  decodeTableWord 32 0x0DC32574 = some (.amo .add .d (.acqrel .dev) 5 ⟨2, false⟩ ⟨3, false⟩) ∧
  decodeTableWord 32 0xFF404180 = some (.bCond .ne ⟨4, false⟩ ⟨0, false⟩ 0x3FD) ∧ decodeTableWord 32 0x00C76505 = some (.spawn 5 ⟨6, false⟩ ⟨7, false⟩ 3) ∧
  decodeTableWord 32 0x10320249 = some (.swait 2 12 4) ∧ decodeTableWord 32 0x04C0077D = some (.fence .dom 7 3) ∧
  decodeTableWord 32 0x010C508D = some (.wrctl 0x43 ⟨5, false⟩) ∧
  decodeTableWord 64 0x401200607028198A = some (.cpyselW false 6 5 7 3 (some 9)) ∧
  decodeTableWord 64 0x001A01009010220E = some (.rcasW false .o .d 8 2 9 8) ∧
  decodeTableWord 64 0xA0100000241D004E = some (.vqnt .mx4 .dith ⟨5, 0⟩ ⟨2, 3⟩ .none 8) ∧
  decodeTableWord 96 0x1234567840000000000013C3 = some (.li true false 4 0x12345678) ∧
  decodeTableWord 96 0x9ABCDEF000000000000013C3 = some (.li false false 4 0x9ABCDEF0) ∧ decodeTableWord 64 0x0000A82454034407 = none

/-- Decode and encode agree (R32, R34, R36 to R40): every well-formed instruction is read back from its words, and every word that decodes is the encoding of the
well-formed instruction it decodes to. -/
def Obligations.DecodeEncode : Prop :=
  (∀ (i : Instr) (rest : List Byte), i.wf = true → decode (encode i ++ rest) = .ok (i, rest)) ∧
  (∀ (bs rest : List Byte) (i : Instr), decode bs = .ok (i, rest) → i.wf = true ∧ bs = encode i ++ rest)

/-- The memory keeps its canonical form at reset. Model choices: entry 6 of the log. -/
def Obligations.ResetInvariant : Prop := Memory.wf State.reset.mem = true

/-- Every step keeps the memory's canonical form: rising addresses, and no entry that holds what an unlisted address reads as (entry 6). Model choices: entry
6 of the log. -/
def Obligations.StepKeepsInvariant : Prop :=
  ∀ (s s1 : State), Memory.wf s.mem = true → step s = .next s1 → Memory.wf s1.mem = true

/-- What reset leaves (R7, R57, R78, R94, R107, R161, R167, R257): the control registers by number, no thread, semaphores at zero, free contexts, accumulator
tiles
and Millstones, empty caches and queues. Model choices: entries 9, 53 of the log. -/
def Obligations.ResetValues : Prop :=
  let s := State.reset
  (∀ tile slot (ctx : BitVec 6), ∀ n ∈ ctlNumbers, n ≠ 0x81 → s.readCtl tile slot ctx n = ((resetControls.find? (·.1 == n)).map (·.2)).getD 0) ∧
  (∀ tile slot, s.thread? tile slot = none) ∧ (∀ tile k, (s.sem tile k).bits = 0) ∧
  (∀ c, (s.ctx c).state = .free ∧ (s.ctx c).evec = 0) ∧
  (∀ cl k, (s.accTile k).owner = none ∧ (s.cluster cl).innings = none ∧ (s.cluster cl).chain = none ∧ (s.cluster cl).queue = []) ∧
  (∀ tile, (s.tile tile).fifo = [] ∧ (s.tile tile).tlb = [] ∧ (s.tile tile).rq = [] ∧ (s.tile tile).ptr = 0) ∧
  (∀ f, s.flume f = ⟨[], [], []⟩) ∧ s.poison = [] ∧ s.bridge = []

end
end

