-- ==== Sys2Proof/Laws/State.lean ====
section
/-! SUPPORT. One lemma for each field of the state and each update of one unit: what the update leaves, and what it writes. -/

namespace Sys2Proof.Machine
open Sys2Proof

variable (s : State)

/-! ### setTile -/

@[simp] theorem State.setTile_agenda (k : Nat) (x : Tile) : (s.setTile k x).agenda = s.agenda := rfl
@[simp] theorem State.setTile_inflight (k : Nat) (x : Tile) : (s.setTile k x).inflight = s.inflight := rfl
@[simp] theorem State.setTile_cur (k : Nat) (x : Tile) : (s.setTile k x).cur = s.cur := rfl
@[simp] theorem State.setTile_focus (k : Nat) (x : Tile) : (s.setTile k x).focus = s.focus := rfl
@[simp] theorem State.setTile_fresh (k : Nat) (x : Tile) : (s.setTile k x).fresh = s.fresh := rfl
@[simp] theorem State.setTile_serial (k : Nat) (x : Tile) : (s.setTile k x).serial = s.serial := rfl
@[simp] theorem State.setTile_flaws (k : Nat) (x : Tile) : (s.setTile k x).flaws = s.flaws := rfl
@[simp] theorem State.setTile_archive (k : Nat) (x : Tile) : (s.setTile k x).archive = s.archive := rfl
@[simp] theorem State.setTile_past (k : Nat) (x : Tile) : (s.setTile k x).past = s.past := rfl
@[simp] theorem State.setTile_cycle (k : Nat) (x : Tile) : (s.setTile k x).cycle = s.cycle := rfl
@[simp] theorem State.setTile_mem (k : Nat) (x : Tile) : (s.setTile k x).mem = s.mem := rfl
@[simp] theorem State.setTile_poison (k : Nat) (x : Tile) : (s.setTile k x).poison = s.poison := rfl
@[simp] theorem State.setTile_disabled (k : Nat) (x : Tile) : (s.setTile k x).disabled = s.disabled := rfl
@[simp] theorem State.setTile_boot (k : Nat) (x : Tile) : (s.setTile k x).boot = s.boot := rfl
@[simp] theorem State.setTile_tiles (k : Nat) (x : Tile) : (s.setTile k x).tiles = Tab.put s.tiles k x := rfl
@[simp] theorem State.setTile_clusters (k : Nat) (x : Tile) : (s.setTile k x).clusters = s.clusters := rfl
@[simp] theorem State.setTile_dies (k : Nat) (x : Tile) : (s.setTile k x).dies = s.dies := rfl
@[simp] theorem State.setTile_flumes (k : Nat) (x : Tile) : (s.setTile k x).flumes = s.flumes := rfl
@[simp] theorem State.setTile_ctxs (k : Nat) (x : Tile) : (s.setTile k x).ctxs = s.ctxs := rfl
@[simp] theorem State.setTile_lastCtx (k : Nat) (x : Tile) : (s.setTile k x).lastCtx = s.lastCtx := rfl
@[simp] theorem State.setTile_windows (k : Nat) (x : Tile) : (s.setTile k x).windows = s.windows := rfl
@[simp] theorem State.setTile_fabDims (k : Nat) (x : Tile) : (s.setTile k x).fabDims = s.fabDims := rfl
@[simp] theorem State.setTile_fabSelf (k : Nat) (x : Tile) : (s.setTile k x).fabSelf = s.fabSelf := rfl
@[simp] theorem State.setTile_rtsel (k : Nat) (x : Tile) : (s.setTile k x).rtsel = s.rtsel := rfl
@[simp] theorem State.setTile_routes (k : Nat) (x : Tile) : (s.setTile k x).routes = s.routes := rfl
@[simp] theorem State.setTile_oHold (k : Nat) (x : Tile) : (s.setTile k x).oHold = s.oHold := rfl
@[simp] theorem State.setTile_oExpect (k : Nat) (x : Tile) : (s.setTile k x).oExpect = s.oExpect := rfl
@[simp] theorem State.setTile_ports (k : Nat) (x : Tile) : (s.setTile k x).ports = s.ports := rfl
@[simp] theorem State.setTile_lnkSel (k : Nat) (x : Tile) : (s.setTile k x).lnkSel = s.lnkSel := rfl
@[simp] theorem State.setTile_lnkKeys (k : Nat) (x : Tile) : (s.setTile k x).lnkKeys = s.lnkKeys := rfl
@[simp] theorem State.setTile_irq (k : Nat) (x : Tile) : (s.setTile k x).irq = s.irq := rfl
@[simp] theorem State.setTile_banks (k : Nat) (x : Tile) : (s.setTile k x).banks = s.banks := rfl
@[simp] theorem State.setTile_slots (k : Nat) (x : Tile) : (s.setTile k x).slots = s.slots := rfl
@[simp] theorem State.setTile_walkers (k : Nat) (x : Tile) : (s.setTile k x).walkers = s.walkers := rfl
@[simp] theorem State.setTile_bridge (k : Nat) (x : Tile) : (s.setTile k x).bridge = s.bridge := rfl
@[simp] theorem State.setTile_wire (k : Nat) (x : Tile) : (s.setTile k x).wire = s.wire := rfl
@[simp] theorem State.setTile_mgmt (k : Nat) (x : Tile) : (s.setTile k x).mgmt = s.mgmt := rfl
@[simp] theorem State.setTile_last (k : Nat) (x : Tile) : (s.setTile k x).last = s.last := rfl

/-! ### setCluster -/

@[simp] theorem State.setCluster_agenda (k : Nat) (x : Cluster) : (s.setCluster k x).agenda = s.agenda := rfl
@[simp] theorem State.setCluster_inflight (k : Nat) (x : Cluster) : (s.setCluster k x).inflight = s.inflight := rfl
@[simp] theorem State.setCluster_cur (k : Nat) (x : Cluster) : (s.setCluster k x).cur = s.cur := rfl
@[simp] theorem State.setCluster_focus (k : Nat) (x : Cluster) : (s.setCluster k x).focus = s.focus := rfl
@[simp] theorem State.setCluster_fresh (k : Nat) (x : Cluster) : (s.setCluster k x).fresh = s.fresh := rfl
@[simp] theorem State.setCluster_serial (k : Nat) (x : Cluster) : (s.setCluster k x).serial = s.serial := rfl
@[simp] theorem State.setCluster_flaws (k : Nat) (x : Cluster) : (s.setCluster k x).flaws = s.flaws := rfl
@[simp] theorem State.setCluster_archive (k : Nat) (x : Cluster) : (s.setCluster k x).archive = s.archive := rfl
@[simp] theorem State.setCluster_past (k : Nat) (x : Cluster) : (s.setCluster k x).past = s.past := rfl
@[simp] theorem State.setCluster_cycle (k : Nat) (x : Cluster) : (s.setCluster k x).cycle = s.cycle := rfl
@[simp] theorem State.setCluster_mem (k : Nat) (x : Cluster) : (s.setCluster k x).mem = s.mem := rfl
@[simp] theorem State.setCluster_poison (k : Nat) (x : Cluster) : (s.setCluster k x).poison = s.poison := rfl
@[simp] theorem State.setCluster_disabled (k : Nat) (x : Cluster) : (s.setCluster k x).disabled = s.disabled := rfl
@[simp] theorem State.setCluster_boot (k : Nat) (x : Cluster) : (s.setCluster k x).boot = s.boot := rfl
@[simp] theorem State.setCluster_tiles (k : Nat) (x : Cluster) : (s.setCluster k x).tiles = s.tiles := rfl
@[simp] theorem State.setCluster_clusters (k : Nat) (x : Cluster) : (s.setCluster k x).clusters = Tab.put s.clusters k x := rfl
@[simp] theorem State.setCluster_dies (k : Nat) (x : Cluster) : (s.setCluster k x).dies = s.dies := rfl
@[simp] theorem State.setCluster_flumes (k : Nat) (x : Cluster) : (s.setCluster k x).flumes = s.flumes := rfl
@[simp] theorem State.setCluster_ctxs (k : Nat) (x : Cluster) : (s.setCluster k x).ctxs = s.ctxs := rfl
@[simp] theorem State.setCluster_lastCtx (k : Nat) (x : Cluster) : (s.setCluster k x).lastCtx = s.lastCtx := rfl
@[simp] theorem State.setCluster_windows (k : Nat) (x : Cluster) : (s.setCluster k x).windows = s.windows := rfl
@[simp] theorem State.setCluster_fabDims (k : Nat) (x : Cluster) : (s.setCluster k x).fabDims = s.fabDims := rfl
@[simp] theorem State.setCluster_fabSelf (k : Nat) (x : Cluster) : (s.setCluster k x).fabSelf = s.fabSelf := rfl
@[simp] theorem State.setCluster_rtsel (k : Nat) (x : Cluster) : (s.setCluster k x).rtsel = s.rtsel := rfl
@[simp] theorem State.setCluster_routes (k : Nat) (x : Cluster) : (s.setCluster k x).routes = s.routes := rfl
@[simp] theorem State.setCluster_oHold (k : Nat) (x : Cluster) : (s.setCluster k x).oHold = s.oHold := rfl
@[simp] theorem State.setCluster_oExpect (k : Nat) (x : Cluster) : (s.setCluster k x).oExpect = s.oExpect := rfl
@[simp] theorem State.setCluster_ports (k : Nat) (x : Cluster) : (s.setCluster k x).ports = s.ports := rfl
@[simp] theorem State.setCluster_lnkSel (k : Nat) (x : Cluster) : (s.setCluster k x).lnkSel = s.lnkSel := rfl
@[simp] theorem State.setCluster_lnkKeys (k : Nat) (x : Cluster) : (s.setCluster k x).lnkKeys = s.lnkKeys := rfl
@[simp] theorem State.setCluster_irq (k : Nat) (x : Cluster) : (s.setCluster k x).irq = s.irq := rfl
@[simp] theorem State.setCluster_banks (k : Nat) (x : Cluster) : (s.setCluster k x).banks = s.banks := rfl
@[simp] theorem State.setCluster_slots (k : Nat) (x : Cluster) : (s.setCluster k x).slots = s.slots := rfl
@[simp] theorem State.setCluster_walkers (k : Nat) (x : Cluster) : (s.setCluster k x).walkers = s.walkers := rfl
@[simp] theorem State.setCluster_bridge (k : Nat) (x : Cluster) : (s.setCluster k x).bridge = s.bridge := rfl
@[simp] theorem State.setCluster_wire (k : Nat) (x : Cluster) : (s.setCluster k x).wire = s.wire := rfl
@[simp] theorem State.setCluster_mgmt (k : Nat) (x : Cluster) : (s.setCluster k x).mgmt = s.mgmt := rfl
@[simp] theorem State.setCluster_last (k : Nat) (x : Cluster) : (s.setCluster k x).last = s.last := rfl

/-! ### setDie -/

@[simp] theorem State.setDie_agenda (k : Nat) (x : Die) : (s.setDie k x).agenda = s.agenda := rfl
@[simp] theorem State.setDie_inflight (k : Nat) (x : Die) : (s.setDie k x).inflight = s.inflight := rfl
@[simp] theorem State.setDie_cur (k : Nat) (x : Die) : (s.setDie k x).cur = s.cur := rfl
@[simp] theorem State.setDie_focus (k : Nat) (x : Die) : (s.setDie k x).focus = s.focus := rfl
@[simp] theorem State.setDie_fresh (k : Nat) (x : Die) : (s.setDie k x).fresh = s.fresh := rfl
@[simp] theorem State.setDie_serial (k : Nat) (x : Die) : (s.setDie k x).serial = s.serial := rfl
@[simp] theorem State.setDie_flaws (k : Nat) (x : Die) : (s.setDie k x).flaws = s.flaws := rfl
@[simp] theorem State.setDie_archive (k : Nat) (x : Die) : (s.setDie k x).archive = s.archive := rfl
@[simp] theorem State.setDie_past (k : Nat) (x : Die) : (s.setDie k x).past = s.past := rfl
@[simp] theorem State.setDie_cycle (k : Nat) (x : Die) : (s.setDie k x).cycle = s.cycle := rfl
@[simp] theorem State.setDie_mem (k : Nat) (x : Die) : (s.setDie k x).mem = s.mem := rfl
@[simp] theorem State.setDie_poison (k : Nat) (x : Die) : (s.setDie k x).poison = s.poison := rfl
@[simp] theorem State.setDie_disabled (k : Nat) (x : Die) : (s.setDie k x).disabled = s.disabled := rfl
@[simp] theorem State.setDie_boot (k : Nat) (x : Die) : (s.setDie k x).boot = s.boot := rfl
@[simp] theorem State.setDie_tiles (k : Nat) (x : Die) : (s.setDie k x).tiles = s.tiles := rfl
@[simp] theorem State.setDie_clusters (k : Nat) (x : Die) : (s.setDie k x).clusters = s.clusters := rfl
@[simp] theorem State.setDie_dies (k : Nat) (x : Die) : (s.setDie k x).dies = Tab.put s.dies k x := rfl
@[simp] theorem State.setDie_flumes (k : Nat) (x : Die) : (s.setDie k x).flumes = s.flumes := rfl
@[simp] theorem State.setDie_ctxs (k : Nat) (x : Die) : (s.setDie k x).ctxs = s.ctxs := rfl
@[simp] theorem State.setDie_lastCtx (k : Nat) (x : Die) : (s.setDie k x).lastCtx = s.lastCtx := rfl
@[simp] theorem State.setDie_windows (k : Nat) (x : Die) : (s.setDie k x).windows = s.windows := rfl
@[simp] theorem State.setDie_fabDims (k : Nat) (x : Die) : (s.setDie k x).fabDims = s.fabDims := rfl
@[simp] theorem State.setDie_fabSelf (k : Nat) (x : Die) : (s.setDie k x).fabSelf = s.fabSelf := rfl
@[simp] theorem State.setDie_rtsel (k : Nat) (x : Die) : (s.setDie k x).rtsel = s.rtsel := rfl
@[simp] theorem State.setDie_routes (k : Nat) (x : Die) : (s.setDie k x).routes = s.routes := rfl
@[simp] theorem State.setDie_oHold (k : Nat) (x : Die) : (s.setDie k x).oHold = s.oHold := rfl
@[simp] theorem State.setDie_oExpect (k : Nat) (x : Die) : (s.setDie k x).oExpect = s.oExpect := rfl
@[simp] theorem State.setDie_ports (k : Nat) (x : Die) : (s.setDie k x).ports = s.ports := rfl
@[simp] theorem State.setDie_lnkSel (k : Nat) (x : Die) : (s.setDie k x).lnkSel = s.lnkSel := rfl
@[simp] theorem State.setDie_lnkKeys (k : Nat) (x : Die) : (s.setDie k x).lnkKeys = s.lnkKeys := rfl
@[simp] theorem State.setDie_irq (k : Nat) (x : Die) : (s.setDie k x).irq = s.irq := rfl
@[simp] theorem State.setDie_banks (k : Nat) (x : Die) : (s.setDie k x).banks = s.banks := rfl
@[simp] theorem State.setDie_slots (k : Nat) (x : Die) : (s.setDie k x).slots = s.slots := rfl
@[simp] theorem State.setDie_walkers (k : Nat) (x : Die) : (s.setDie k x).walkers = s.walkers := rfl
@[simp] theorem State.setDie_bridge (k : Nat) (x : Die) : (s.setDie k x).bridge = s.bridge := rfl
@[simp] theorem State.setDie_wire (k : Nat) (x : Die) : (s.setDie k x).wire = s.wire := rfl
@[simp] theorem State.setDie_mgmt (k : Nat) (x : Die) : (s.setDie k x).mgmt = s.mgmt := rfl
@[simp] theorem State.setDie_last (k : Nat) (x : Die) : (s.setDie k x).last = s.last := rfl

/-! ### setFlume -/

@[simp] theorem State.setFlume_agenda (k : Nat) (x : Flume) : (s.setFlume k x).agenda = s.agenda := rfl
@[simp] theorem State.setFlume_inflight (k : Nat) (x : Flume) : (s.setFlume k x).inflight = s.inflight := rfl
@[simp] theorem State.setFlume_cur (k : Nat) (x : Flume) : (s.setFlume k x).cur = s.cur := rfl
@[simp] theorem State.setFlume_focus (k : Nat) (x : Flume) : (s.setFlume k x).focus = s.focus := rfl
@[simp] theorem State.setFlume_fresh (k : Nat) (x : Flume) : (s.setFlume k x).fresh = s.fresh := rfl
@[simp] theorem State.setFlume_serial (k : Nat) (x : Flume) : (s.setFlume k x).serial = s.serial := rfl
@[simp] theorem State.setFlume_flaws (k : Nat) (x : Flume) : (s.setFlume k x).flaws = s.flaws := rfl
@[simp] theorem State.setFlume_archive (k : Nat) (x : Flume) : (s.setFlume k x).archive = s.archive := rfl
@[simp] theorem State.setFlume_past (k : Nat) (x : Flume) : (s.setFlume k x).past = s.past := rfl
@[simp] theorem State.setFlume_cycle (k : Nat) (x : Flume) : (s.setFlume k x).cycle = s.cycle := rfl
@[simp] theorem State.setFlume_mem (k : Nat) (x : Flume) : (s.setFlume k x).mem = s.mem := rfl
@[simp] theorem State.setFlume_poison (k : Nat) (x : Flume) : (s.setFlume k x).poison = s.poison := rfl
@[simp] theorem State.setFlume_disabled (k : Nat) (x : Flume) : (s.setFlume k x).disabled = s.disabled := rfl
@[simp] theorem State.setFlume_boot (k : Nat) (x : Flume) : (s.setFlume k x).boot = s.boot := rfl
@[simp] theorem State.setFlume_tiles (k : Nat) (x : Flume) : (s.setFlume k x).tiles = s.tiles := rfl
@[simp] theorem State.setFlume_clusters (k : Nat) (x : Flume) : (s.setFlume k x).clusters = s.clusters := rfl
@[simp] theorem State.setFlume_dies (k : Nat) (x : Flume) : (s.setFlume k x).dies = s.dies := rfl
@[simp] theorem State.setFlume_flumes (k : Nat) (x : Flume) : (s.setFlume k x).flumes = Tab.put s.flumes k x := rfl
@[simp] theorem State.setFlume_ctxs (k : Nat) (x : Flume) : (s.setFlume k x).ctxs = s.ctxs := rfl
@[simp] theorem State.setFlume_lastCtx (k : Nat) (x : Flume) : (s.setFlume k x).lastCtx = s.lastCtx := rfl
@[simp] theorem State.setFlume_windows (k : Nat) (x : Flume) : (s.setFlume k x).windows = s.windows := rfl
@[simp] theorem State.setFlume_fabDims (k : Nat) (x : Flume) : (s.setFlume k x).fabDims = s.fabDims := rfl
@[simp] theorem State.setFlume_fabSelf (k : Nat) (x : Flume) : (s.setFlume k x).fabSelf = s.fabSelf := rfl
@[simp] theorem State.setFlume_rtsel (k : Nat) (x : Flume) : (s.setFlume k x).rtsel = s.rtsel := rfl
@[simp] theorem State.setFlume_routes (k : Nat) (x : Flume) : (s.setFlume k x).routes = s.routes := rfl
@[simp] theorem State.setFlume_oHold (k : Nat) (x : Flume) : (s.setFlume k x).oHold = s.oHold := rfl
@[simp] theorem State.setFlume_oExpect (k : Nat) (x : Flume) : (s.setFlume k x).oExpect = s.oExpect := rfl
@[simp] theorem State.setFlume_ports (k : Nat) (x : Flume) : (s.setFlume k x).ports = s.ports := rfl
@[simp] theorem State.setFlume_lnkSel (k : Nat) (x : Flume) : (s.setFlume k x).lnkSel = s.lnkSel := rfl
@[simp] theorem State.setFlume_lnkKeys (k : Nat) (x : Flume) : (s.setFlume k x).lnkKeys = s.lnkKeys := rfl
@[simp] theorem State.setFlume_irq (k : Nat) (x : Flume) : (s.setFlume k x).irq = s.irq := rfl
@[simp] theorem State.setFlume_banks (k : Nat) (x : Flume) : (s.setFlume k x).banks = s.banks := rfl
@[simp] theorem State.setFlume_slots (k : Nat) (x : Flume) : (s.setFlume k x).slots = s.slots := rfl
@[simp] theorem State.setFlume_walkers (k : Nat) (x : Flume) : (s.setFlume k x).walkers = s.walkers := rfl
@[simp] theorem State.setFlume_bridge (k : Nat) (x : Flume) : (s.setFlume k x).bridge = s.bridge := rfl
@[simp] theorem State.setFlume_wire (k : Nat) (x : Flume) : (s.setFlume k x).wire = s.wire := rfl
@[simp] theorem State.setFlume_mgmt (k : Nat) (x : Flume) : (s.setFlume k x).mgmt = s.mgmt := rfl
@[simp] theorem State.setFlume_last (k : Nat) (x : Flume) : (s.setFlume k x).last = s.last := rfl

/-! ### setCtx -/

@[simp] theorem State.setCtx_agenda (k : BitVec 6) (x : Context) : (s.setCtx k x).agenda = s.agenda := rfl
@[simp] theorem State.setCtx_inflight (k : BitVec 6) (x : Context) : (s.setCtx k x).inflight = s.inflight := rfl
@[simp] theorem State.setCtx_cur (k : BitVec 6) (x : Context) : (s.setCtx k x).cur = s.cur := rfl
@[simp] theorem State.setCtx_focus (k : BitVec 6) (x : Context) : (s.setCtx k x).focus = s.focus := rfl
@[simp] theorem State.setCtx_fresh (k : BitVec 6) (x : Context) : (s.setCtx k x).fresh = s.fresh := rfl
@[simp] theorem State.setCtx_serial (k : BitVec 6) (x : Context) : (s.setCtx k x).serial = s.serial := rfl
@[simp] theorem State.setCtx_flaws (k : BitVec 6) (x : Context) : (s.setCtx k x).flaws = s.flaws := rfl
@[simp] theorem State.setCtx_archive (k : BitVec 6) (x : Context) : (s.setCtx k x).archive = s.archive := rfl
@[simp] theorem State.setCtx_past (k : BitVec 6) (x : Context) : (s.setCtx k x).past = s.past := rfl
@[simp] theorem State.setCtx_cycle (k : BitVec 6) (x : Context) : (s.setCtx k x).cycle = s.cycle := rfl
@[simp] theorem State.setCtx_mem (k : BitVec 6) (x : Context) : (s.setCtx k x).mem = s.mem := rfl
@[simp] theorem State.setCtx_poison (k : BitVec 6) (x : Context) : (s.setCtx k x).poison = s.poison := rfl
@[simp] theorem State.setCtx_disabled (k : BitVec 6) (x : Context) : (s.setCtx k x).disabled = s.disabled := rfl
@[simp] theorem State.setCtx_boot (k : BitVec 6) (x : Context) : (s.setCtx k x).boot = s.boot := rfl
@[simp] theorem State.setCtx_tiles (k : BitVec 6) (x : Context) : (s.setCtx k x).tiles = s.tiles := rfl
@[simp] theorem State.setCtx_clusters (k : BitVec 6) (x : Context) : (s.setCtx k x).clusters = s.clusters := rfl
@[simp] theorem State.setCtx_dies (k : BitVec 6) (x : Context) : (s.setCtx k x).dies = s.dies := rfl
@[simp] theorem State.setCtx_flumes (k : BitVec 6) (x : Context) : (s.setCtx k x).flumes = s.flumes := rfl
@[simp] theorem State.setCtx_ctxs (k : BitVec 6) (x : Context) : (s.setCtx k x).ctxs = Tab.put s.ctxs k.toNat x := rfl
@[simp] theorem State.setCtx_lastCtx (k : BitVec 6) (x : Context) : (s.setCtx k x).lastCtx = s.lastCtx := rfl
@[simp] theorem State.setCtx_windows (k : BitVec 6) (x : Context) : (s.setCtx k x).windows = s.windows := rfl
@[simp] theorem State.setCtx_fabDims (k : BitVec 6) (x : Context) : (s.setCtx k x).fabDims = s.fabDims := rfl
@[simp] theorem State.setCtx_fabSelf (k : BitVec 6) (x : Context) : (s.setCtx k x).fabSelf = s.fabSelf := rfl
@[simp] theorem State.setCtx_rtsel (k : BitVec 6) (x : Context) : (s.setCtx k x).rtsel = s.rtsel := rfl
@[simp] theorem State.setCtx_routes (k : BitVec 6) (x : Context) : (s.setCtx k x).routes = s.routes := rfl
@[simp] theorem State.setCtx_oHold (k : BitVec 6) (x : Context) : (s.setCtx k x).oHold = s.oHold := rfl
@[simp] theorem State.setCtx_oExpect (k : BitVec 6) (x : Context) : (s.setCtx k x).oExpect = s.oExpect := rfl
@[simp] theorem State.setCtx_ports (k : BitVec 6) (x : Context) : (s.setCtx k x).ports = s.ports := rfl
@[simp] theorem State.setCtx_lnkSel (k : BitVec 6) (x : Context) : (s.setCtx k x).lnkSel = s.lnkSel := rfl
@[simp] theorem State.setCtx_lnkKeys (k : BitVec 6) (x : Context) : (s.setCtx k x).lnkKeys = s.lnkKeys := rfl
@[simp] theorem State.setCtx_irq (k : BitVec 6) (x : Context) : (s.setCtx k x).irq = s.irq := rfl
@[simp] theorem State.setCtx_banks (k : BitVec 6) (x : Context) : (s.setCtx k x).banks = s.banks := rfl
@[simp] theorem State.setCtx_slots (k : BitVec 6) (x : Context) : (s.setCtx k x).slots = s.slots := rfl
@[simp] theorem State.setCtx_walkers (k : BitVec 6) (x : Context) : (s.setCtx k x).walkers = s.walkers := rfl
@[simp] theorem State.setCtx_bridge (k : BitVec 6) (x : Context) : (s.setCtx k x).bridge = s.bridge := rfl
@[simp] theorem State.setCtx_wire (k : BitVec 6) (x : Context) : (s.setCtx k x).wire = s.wire := rfl
@[simp] theorem State.setCtx_mgmt (k : BitVec 6) (x : Context) : (s.setCtx k x).mgmt = s.mgmt := rfl
@[simp] theorem State.setCtx_last (k : BitVec 6) (x : Context) : (s.setCtx k x).last = s.last := rfl

/-! ### setPort -/

@[simp] theorem State.setPort_agenda (k : Nat) (x : Port) : (s.setPort k x).agenda = s.agenda := rfl
@[simp] theorem State.setPort_inflight (k : Nat) (x : Port) : (s.setPort k x).inflight = s.inflight := rfl
@[simp] theorem State.setPort_cur (k : Nat) (x : Port) : (s.setPort k x).cur = s.cur := rfl
@[simp] theorem State.setPort_focus (k : Nat) (x : Port) : (s.setPort k x).focus = s.focus := rfl
@[simp] theorem State.setPort_fresh (k : Nat) (x : Port) : (s.setPort k x).fresh = s.fresh := rfl
@[simp] theorem State.setPort_serial (k : Nat) (x : Port) : (s.setPort k x).serial = s.serial := rfl
@[simp] theorem State.setPort_flaws (k : Nat) (x : Port) : (s.setPort k x).flaws = s.flaws := rfl
@[simp] theorem State.setPort_archive (k : Nat) (x : Port) : (s.setPort k x).archive = s.archive := rfl
@[simp] theorem State.setPort_past (k : Nat) (x : Port) : (s.setPort k x).past = s.past := rfl
@[simp] theorem State.setPort_cycle (k : Nat) (x : Port) : (s.setPort k x).cycle = s.cycle := rfl
@[simp] theorem State.setPort_mem (k : Nat) (x : Port) : (s.setPort k x).mem = s.mem := rfl
@[simp] theorem State.setPort_poison (k : Nat) (x : Port) : (s.setPort k x).poison = s.poison := rfl
@[simp] theorem State.setPort_disabled (k : Nat) (x : Port) : (s.setPort k x).disabled = s.disabled := rfl
@[simp] theorem State.setPort_boot (k : Nat) (x : Port) : (s.setPort k x).boot = s.boot := rfl
@[simp] theorem State.setPort_tiles (k : Nat) (x : Port) : (s.setPort k x).tiles = s.tiles := rfl
@[simp] theorem State.setPort_clusters (k : Nat) (x : Port) : (s.setPort k x).clusters = s.clusters := rfl
@[simp] theorem State.setPort_dies (k : Nat) (x : Port) : (s.setPort k x).dies = s.dies := rfl
@[simp] theorem State.setPort_flumes (k : Nat) (x : Port) : (s.setPort k x).flumes = s.flumes := rfl
@[simp] theorem State.setPort_ctxs (k : Nat) (x : Port) : (s.setPort k x).ctxs = s.ctxs := rfl
@[simp] theorem State.setPort_lastCtx (k : Nat) (x : Port) : (s.setPort k x).lastCtx = s.lastCtx := rfl
@[simp] theorem State.setPort_windows (k : Nat) (x : Port) : (s.setPort k x).windows = s.windows := rfl
@[simp] theorem State.setPort_fabDims (k : Nat) (x : Port) : (s.setPort k x).fabDims = s.fabDims := rfl
@[simp] theorem State.setPort_fabSelf (k : Nat) (x : Port) : (s.setPort k x).fabSelf = s.fabSelf := rfl
@[simp] theorem State.setPort_rtsel (k : Nat) (x : Port) : (s.setPort k x).rtsel = s.rtsel := rfl
@[simp] theorem State.setPort_routes (k : Nat) (x : Port) : (s.setPort k x).routes = s.routes := rfl
@[simp] theorem State.setPort_oHold (k : Nat) (x : Port) : (s.setPort k x).oHold = s.oHold := rfl
@[simp] theorem State.setPort_oExpect (k : Nat) (x : Port) : (s.setPort k x).oExpect = s.oExpect := rfl
@[simp] theorem State.setPort_ports (k : Nat) (x : Port) : (s.setPort k x).ports = Tab.put s.ports k x := rfl
@[simp] theorem State.setPort_lnkSel (k : Nat) (x : Port) : (s.setPort k x).lnkSel = s.lnkSel := rfl
@[simp] theorem State.setPort_lnkKeys (k : Nat) (x : Port) : (s.setPort k x).lnkKeys = s.lnkKeys := rfl
@[simp] theorem State.setPort_irq (k : Nat) (x : Port) : (s.setPort k x).irq = s.irq := rfl
@[simp] theorem State.setPort_banks (k : Nat) (x : Port) : (s.setPort k x).banks = s.banks := rfl
@[simp] theorem State.setPort_slots (k : Nat) (x : Port) : (s.setPort k x).slots = s.slots := rfl
@[simp] theorem State.setPort_walkers (k : Nat) (x : Port) : (s.setPort k x).walkers = s.walkers := rfl
@[simp] theorem State.setPort_bridge (k : Nat) (x : Port) : (s.setPort k x).bridge = s.bridge := rfl
@[simp] theorem State.setPort_wire (k : Nat) (x : Port) : (s.setPort k x).wire = s.wire := rfl
@[simp] theorem State.setPort_mgmt (k : Nat) (x : Port) : (s.setPort k x).mgmt = s.mgmt := rfl
@[simp] theorem State.setPort_last (k : Nat) (x : Port) : (s.setPort k x).last = s.last := rfl

/-! ### setWindow -/

@[simp] theorem State.setWindow_agenda (k : Nat) (x : Window) : (s.setWindow k x).agenda = s.agenda := rfl
@[simp] theorem State.setWindow_inflight (k : Nat) (x : Window) : (s.setWindow k x).inflight = s.inflight := rfl
@[simp] theorem State.setWindow_cur (k : Nat) (x : Window) : (s.setWindow k x).cur = s.cur := rfl
@[simp] theorem State.setWindow_focus (k : Nat) (x : Window) : (s.setWindow k x).focus = s.focus := rfl
@[simp] theorem State.setWindow_fresh (k : Nat) (x : Window) : (s.setWindow k x).fresh = s.fresh := rfl
@[simp] theorem State.setWindow_serial (k : Nat) (x : Window) : (s.setWindow k x).serial = s.serial := rfl
@[simp] theorem State.setWindow_flaws (k : Nat) (x : Window) : (s.setWindow k x).flaws = s.flaws := rfl
@[simp] theorem State.setWindow_archive (k : Nat) (x : Window) : (s.setWindow k x).archive = s.archive := rfl
@[simp] theorem State.setWindow_past (k : Nat) (x : Window) : (s.setWindow k x).past = s.past := rfl
@[simp] theorem State.setWindow_cycle (k : Nat) (x : Window) : (s.setWindow k x).cycle = s.cycle := rfl
@[simp] theorem State.setWindow_mem (k : Nat) (x : Window) : (s.setWindow k x).mem = s.mem := rfl
@[simp] theorem State.setWindow_poison (k : Nat) (x : Window) : (s.setWindow k x).poison = s.poison := rfl
@[simp] theorem State.setWindow_disabled (k : Nat) (x : Window) : (s.setWindow k x).disabled = s.disabled := rfl
@[simp] theorem State.setWindow_boot (k : Nat) (x : Window) : (s.setWindow k x).boot = s.boot := rfl
@[simp] theorem State.setWindow_tiles (k : Nat) (x : Window) : (s.setWindow k x).tiles = s.tiles := rfl
@[simp] theorem State.setWindow_clusters (k : Nat) (x : Window) : (s.setWindow k x).clusters = s.clusters := rfl
@[simp] theorem State.setWindow_dies (k : Nat) (x : Window) : (s.setWindow k x).dies = s.dies := rfl
@[simp] theorem State.setWindow_flumes (k : Nat) (x : Window) : (s.setWindow k x).flumes = s.flumes := rfl
@[simp] theorem State.setWindow_ctxs (k : Nat) (x : Window) : (s.setWindow k x).ctxs = s.ctxs := rfl
@[simp] theorem State.setWindow_lastCtx (k : Nat) (x : Window) : (s.setWindow k x).lastCtx = s.lastCtx := rfl
@[simp] theorem State.setWindow_windows (k : Nat) (x : Window) : (s.setWindow k x).windows = Tab.put s.windows k x := rfl
@[simp] theorem State.setWindow_fabDims (k : Nat) (x : Window) : (s.setWindow k x).fabDims = s.fabDims := rfl
@[simp] theorem State.setWindow_fabSelf (k : Nat) (x : Window) : (s.setWindow k x).fabSelf = s.fabSelf := rfl
@[simp] theorem State.setWindow_rtsel (k : Nat) (x : Window) : (s.setWindow k x).rtsel = s.rtsel := rfl
@[simp] theorem State.setWindow_routes (k : Nat) (x : Window) : (s.setWindow k x).routes = s.routes := rfl
@[simp] theorem State.setWindow_oHold (k : Nat) (x : Window) : (s.setWindow k x).oHold = s.oHold := rfl
@[simp] theorem State.setWindow_oExpect (k : Nat) (x : Window) : (s.setWindow k x).oExpect = s.oExpect := rfl
@[simp] theorem State.setWindow_ports (k : Nat) (x : Window) : (s.setWindow k x).ports = s.ports := rfl
@[simp] theorem State.setWindow_lnkSel (k : Nat) (x : Window) : (s.setWindow k x).lnkSel = s.lnkSel := rfl
@[simp] theorem State.setWindow_lnkKeys (k : Nat) (x : Window) : (s.setWindow k x).lnkKeys = s.lnkKeys := rfl
@[simp] theorem State.setWindow_irq (k : Nat) (x : Window) : (s.setWindow k x).irq = s.irq := rfl
@[simp] theorem State.setWindow_banks (k : Nat) (x : Window) : (s.setWindow k x).banks = s.banks := rfl
@[simp] theorem State.setWindow_slots (k : Nat) (x : Window) : (s.setWindow k x).slots = s.slots := rfl
@[simp] theorem State.setWindow_walkers (k : Nat) (x : Window) : (s.setWindow k x).walkers = s.walkers := rfl
@[simp] theorem State.setWindow_bridge (k : Nat) (x : Window) : (s.setWindow k x).bridge = s.bridge := rfl
@[simp] theorem State.setWindow_wire (k : Nat) (x : Window) : (s.setWindow k x).wire = s.wire := rfl
@[simp] theorem State.setWindow_mgmt (k : Nat) (x : Window) : (s.setWindow k x).mgmt = s.mgmt := rfl
@[simp] theorem State.setWindow_last (k : Nat) (x : Window) : (s.setWindow k x).last = s.last := rfl

/-! ### setBank -/

@[simp] theorem State.setBank_agenda (k : Nat) (x : List BankReq) : (s.setBank k x).agenda = s.agenda := rfl
@[simp] theorem State.setBank_inflight (k : Nat) (x : List BankReq) : (s.setBank k x).inflight = s.inflight := rfl
@[simp] theorem State.setBank_cur (k : Nat) (x : List BankReq) : (s.setBank k x).cur = s.cur := rfl
@[simp] theorem State.setBank_focus (k : Nat) (x : List BankReq) : (s.setBank k x).focus = s.focus := rfl
@[simp] theorem State.setBank_fresh (k : Nat) (x : List BankReq) : (s.setBank k x).fresh = s.fresh := rfl
@[simp] theorem State.setBank_serial (k : Nat) (x : List BankReq) : (s.setBank k x).serial = s.serial := rfl
@[simp] theorem State.setBank_flaws (k : Nat) (x : List BankReq) : (s.setBank k x).flaws = s.flaws := rfl
@[simp] theorem State.setBank_archive (k : Nat) (x : List BankReq) : (s.setBank k x).archive = s.archive := rfl
@[simp] theorem State.setBank_past (k : Nat) (x : List BankReq) : (s.setBank k x).past = s.past := rfl
@[simp] theorem State.setBank_cycle (k : Nat) (x : List BankReq) : (s.setBank k x).cycle = s.cycle := rfl
@[simp] theorem State.setBank_mem (k : Nat) (x : List BankReq) : (s.setBank k x).mem = s.mem := rfl
@[simp] theorem State.setBank_poison (k : Nat) (x : List BankReq) : (s.setBank k x).poison = s.poison := rfl
@[simp] theorem State.setBank_disabled (k : Nat) (x : List BankReq) : (s.setBank k x).disabled = s.disabled := rfl
@[simp] theorem State.setBank_boot (k : Nat) (x : List BankReq) : (s.setBank k x).boot = s.boot := rfl
@[simp] theorem State.setBank_tiles (k : Nat) (x : List BankReq) : (s.setBank k x).tiles = s.tiles := rfl
@[simp] theorem State.setBank_clusters (k : Nat) (x : List BankReq) : (s.setBank k x).clusters = s.clusters := rfl
@[simp] theorem State.setBank_dies (k : Nat) (x : List BankReq) : (s.setBank k x).dies = s.dies := rfl
@[simp] theorem State.setBank_flumes (k : Nat) (x : List BankReq) : (s.setBank k x).flumes = s.flumes := rfl
@[simp] theorem State.setBank_ctxs (k : Nat) (x : List BankReq) : (s.setBank k x).ctxs = s.ctxs := rfl
@[simp] theorem State.setBank_lastCtx (k : Nat) (x : List BankReq) : (s.setBank k x).lastCtx = s.lastCtx := rfl
@[simp] theorem State.setBank_windows (k : Nat) (x : List BankReq) : (s.setBank k x).windows = s.windows := rfl
@[simp] theorem State.setBank_fabDims (k : Nat) (x : List BankReq) : (s.setBank k x).fabDims = s.fabDims := rfl
@[simp] theorem State.setBank_fabSelf (k : Nat) (x : List BankReq) : (s.setBank k x).fabSelf = s.fabSelf := rfl
@[simp] theorem State.setBank_rtsel (k : Nat) (x : List BankReq) : (s.setBank k x).rtsel = s.rtsel := rfl
@[simp] theorem State.setBank_routes (k : Nat) (x : List BankReq) : (s.setBank k x).routes = s.routes := rfl
@[simp] theorem State.setBank_oHold (k : Nat) (x : List BankReq) : (s.setBank k x).oHold = s.oHold := rfl
@[simp] theorem State.setBank_oExpect (k : Nat) (x : List BankReq) : (s.setBank k x).oExpect = s.oExpect := rfl
@[simp] theorem State.setBank_ports (k : Nat) (x : List BankReq) : (s.setBank k x).ports = s.ports := rfl
@[simp] theorem State.setBank_lnkSel (k : Nat) (x : List BankReq) : (s.setBank k x).lnkSel = s.lnkSel := rfl
@[simp] theorem State.setBank_lnkKeys (k : Nat) (x : List BankReq) : (s.setBank k x).lnkKeys = s.lnkKeys := rfl
@[simp] theorem State.setBank_irq (k : Nat) (x : List BankReq) : (s.setBank k x).irq = s.irq := rfl
@[simp] theorem State.setBank_banks (k : Nat) (x : List BankReq) : (s.setBank k x).banks = Tab.put s.banks k x := rfl
@[simp] theorem State.setBank_slots (k : Nat) (x : List BankReq) : (s.setBank k x).slots = s.slots := rfl
@[simp] theorem State.setBank_walkers (k : Nat) (x : List BankReq) : (s.setBank k x).walkers = s.walkers := rfl
@[simp] theorem State.setBank_bridge (k : Nat) (x : List BankReq) : (s.setBank k x).bridge = s.bridge := rfl
@[simp] theorem State.setBank_wire (k : Nat) (x : List BankReq) : (s.setBank k x).wire = s.wire := rfl
@[simp] theorem State.setBank_mgmt (k : Nat) (x : List BankReq) : (s.setBank k x).mgmt = s.mgmt := rfl
@[simp] theorem State.setBank_last (k : Nat) (x : List BankReq) : (s.setBank k x).last = s.last := rfl

/-! ### setThread -/

@[simp] theorem State.setThread_agenda (k j : Nat) (x : Thread) : (s.setThread k j x).agenda = s.agenda := rfl
@[simp] theorem State.setThread_inflight (k j : Nat) (x : Thread) : (s.setThread k j x).inflight = s.inflight := rfl
@[simp] theorem State.setThread_cur (k j : Nat) (x : Thread) : (s.setThread k j x).cur = s.cur := rfl
@[simp] theorem State.setThread_focus (k j : Nat) (x : Thread) : (s.setThread k j x).focus = s.focus := rfl
@[simp] theorem State.setThread_fresh (k j : Nat) (x : Thread) : (s.setThread k j x).fresh = s.fresh := rfl
@[simp] theorem State.setThread_serial (k j : Nat) (x : Thread) : (s.setThread k j x).serial = s.serial := rfl
@[simp] theorem State.setThread_flaws (k j : Nat) (x : Thread) : (s.setThread k j x).flaws = s.flaws := rfl
@[simp] theorem State.setThread_archive (k j : Nat) (x : Thread) : (s.setThread k j x).archive = s.archive := rfl
@[simp] theorem State.setThread_past (k j : Nat) (x : Thread) : (s.setThread k j x).past = s.past := rfl
@[simp] theorem State.setThread_cycle (k j : Nat) (x : Thread) : (s.setThread k j x).cycle = s.cycle := rfl
@[simp] theorem State.setThread_mem (k j : Nat) (x : Thread) : (s.setThread k j x).mem = s.mem := rfl
@[simp] theorem State.setThread_poison (k j : Nat) (x : Thread) : (s.setThread k j x).poison = s.poison := rfl
@[simp] theorem State.setThread_disabled (k j : Nat) (x : Thread) : (s.setThread k j x).disabled = s.disabled := rfl
@[simp] theorem State.setThread_boot (k j : Nat) (x : Thread) : (s.setThread k j x).boot = s.boot := rfl
@[simp] theorem State.setThread_clusters (k j : Nat) (x : Thread) : (s.setThread k j x).clusters = s.clusters := rfl
@[simp] theorem State.setThread_dies (k j : Nat) (x : Thread) : (s.setThread k j x).dies = s.dies := rfl
@[simp] theorem State.setThread_flumes (k j : Nat) (x : Thread) : (s.setThread k j x).flumes = s.flumes := rfl
@[simp] theorem State.setThread_ctxs (k j : Nat) (x : Thread) : (s.setThread k j x).ctxs = s.ctxs := rfl
@[simp] theorem State.setThread_lastCtx (k j : Nat) (x : Thread) : (s.setThread k j x).lastCtx = s.lastCtx := rfl
@[simp] theorem State.setThread_windows (k j : Nat) (x : Thread) : (s.setThread k j x).windows = s.windows := rfl
@[simp] theorem State.setThread_fabDims (k j : Nat) (x : Thread) : (s.setThread k j x).fabDims = s.fabDims := rfl
@[simp] theorem State.setThread_fabSelf (k j : Nat) (x : Thread) : (s.setThread k j x).fabSelf = s.fabSelf := rfl
@[simp] theorem State.setThread_rtsel (k j : Nat) (x : Thread) : (s.setThread k j x).rtsel = s.rtsel := rfl
@[simp] theorem State.setThread_routes (k j : Nat) (x : Thread) : (s.setThread k j x).routes = s.routes := rfl
@[simp] theorem State.setThread_oHold (k j : Nat) (x : Thread) : (s.setThread k j x).oHold = s.oHold := rfl
@[simp] theorem State.setThread_oExpect (k j : Nat) (x : Thread) : (s.setThread k j x).oExpect = s.oExpect := rfl
@[simp] theorem State.setThread_ports (k j : Nat) (x : Thread) : (s.setThread k j x).ports = s.ports := rfl
@[simp] theorem State.setThread_lnkSel (k j : Nat) (x : Thread) : (s.setThread k j x).lnkSel = s.lnkSel := rfl
@[simp] theorem State.setThread_lnkKeys (k j : Nat) (x : Thread) : (s.setThread k j x).lnkKeys = s.lnkKeys := rfl
@[simp] theorem State.setThread_irq (k j : Nat) (x : Thread) : (s.setThread k j x).irq = s.irq := rfl
@[simp] theorem State.setThread_banks (k j : Nat) (x : Thread) : (s.setThread k j x).banks = s.banks := rfl
@[simp] theorem State.setThread_slots (k j : Nat) (x : Thread) : (s.setThread k j x).slots = s.slots := rfl
@[simp] theorem State.setThread_walkers (k j : Nat) (x : Thread) : (s.setThread k j x).walkers = s.walkers := rfl
@[simp] theorem State.setThread_bridge (k j : Nat) (x : Thread) : (s.setThread k j x).bridge = s.bridge := rfl
@[simp] theorem State.setThread_wire (k j : Nat) (x : Thread) : (s.setThread k j x).wire = s.wire := rfl
@[simp] theorem State.setThread_mgmt (k j : Nat) (x : Thread) : (s.setThread k j x).mgmt = s.mgmt := rfl
@[simp] theorem State.setThread_last (k j : Nat) (x : Thread) : (s.setThread k j x).last = s.last := rfl

/-! ### setMe -/

@[simp] theorem State.setMe_agenda (x : Thread) : (s.setMe x).agenda = s.agenda := rfl
@[simp] theorem State.setMe_inflight (x : Thread) : (s.setMe x).inflight = s.inflight := rfl
@[simp] theorem State.setMe_cur (x : Thread) : (s.setMe x).cur = s.cur := rfl
@[simp] theorem State.setMe_focus (x : Thread) : (s.setMe x).focus = s.focus := rfl
@[simp] theorem State.setMe_fresh (x : Thread) : (s.setMe x).fresh = s.fresh := rfl
@[simp] theorem State.setMe_serial (x : Thread) : (s.setMe x).serial = s.serial := rfl
@[simp] theorem State.setMe_flaws (x : Thread) : (s.setMe x).flaws = s.flaws := rfl
@[simp] theorem State.setMe_archive (x : Thread) : (s.setMe x).archive = s.archive := rfl
@[simp] theorem State.setMe_past (x : Thread) : (s.setMe x).past = s.past := rfl
@[simp] theorem State.setMe_cycle (x : Thread) : (s.setMe x).cycle = s.cycle := rfl
@[simp] theorem State.setMe_mem (x : Thread) : (s.setMe x).mem = s.mem := rfl
@[simp] theorem State.setMe_poison (x : Thread) : (s.setMe x).poison = s.poison := rfl
@[simp] theorem State.setMe_disabled (x : Thread) : (s.setMe x).disabled = s.disabled := rfl
@[simp] theorem State.setMe_boot (x : Thread) : (s.setMe x).boot = s.boot := rfl
@[simp] theorem State.setMe_clusters (x : Thread) : (s.setMe x).clusters = s.clusters := rfl
@[simp] theorem State.setMe_dies (x : Thread) : (s.setMe x).dies = s.dies := rfl
@[simp] theorem State.setMe_flumes (x : Thread) : (s.setMe x).flumes = s.flumes := rfl
@[simp] theorem State.setMe_ctxs (x : Thread) : (s.setMe x).ctxs = s.ctxs := rfl
@[simp] theorem State.setMe_lastCtx (x : Thread) : (s.setMe x).lastCtx = s.lastCtx := rfl
@[simp] theorem State.setMe_windows (x : Thread) : (s.setMe x).windows = s.windows := rfl
@[simp] theorem State.setMe_fabDims (x : Thread) : (s.setMe x).fabDims = s.fabDims := rfl
@[simp] theorem State.setMe_fabSelf (x : Thread) : (s.setMe x).fabSelf = s.fabSelf := rfl
@[simp] theorem State.setMe_rtsel (x : Thread) : (s.setMe x).rtsel = s.rtsel := rfl
@[simp] theorem State.setMe_routes (x : Thread) : (s.setMe x).routes = s.routes := rfl
@[simp] theorem State.setMe_oHold (x : Thread) : (s.setMe x).oHold = s.oHold := rfl
@[simp] theorem State.setMe_oExpect (x : Thread) : (s.setMe x).oExpect = s.oExpect := rfl
@[simp] theorem State.setMe_ports (x : Thread) : (s.setMe x).ports = s.ports := rfl
@[simp] theorem State.setMe_lnkSel (x : Thread) : (s.setMe x).lnkSel = s.lnkSel := rfl
@[simp] theorem State.setMe_lnkKeys (x : Thread) : (s.setMe x).lnkKeys = s.lnkKeys := rfl
@[simp] theorem State.setMe_irq (x : Thread) : (s.setMe x).irq = s.irq := rfl
@[simp] theorem State.setMe_banks (x : Thread) : (s.setMe x).banks = s.banks := rfl
@[simp] theorem State.setMe_slots (x : Thread) : (s.setMe x).slots = s.slots := rfl
@[simp] theorem State.setMe_walkers (x : Thread) : (s.setMe x).walkers = s.walkers := rfl
@[simp] theorem State.setMe_bridge (x : Thread) : (s.setMe x).bridge = s.bridge := rfl
@[simp] theorem State.setMe_wire (x : Thread) : (s.setMe x).wire = s.wire := rfl
@[simp] theorem State.setMe_mgmt (x : Thread) : (s.setMe x).mgmt = s.mgmt := rfl
@[simp] theorem State.setMe_last (x : Thread) : (s.setMe x).last = s.last := rfl

/-! ### dropThread -/

@[simp] theorem State.dropThread_agenda (k j : Nat) : (s.dropThread k j).agenda = s.agenda := rfl
@[simp] theorem State.dropThread_inflight (k j : Nat) : (s.dropThread k j).inflight = s.inflight := rfl
@[simp] theorem State.dropThread_cur (k j : Nat) : (s.dropThread k j).cur = s.cur := rfl
@[simp] theorem State.dropThread_focus (k j : Nat) : (s.dropThread k j).focus = s.focus := rfl
@[simp] theorem State.dropThread_fresh (k j : Nat) : (s.dropThread k j).fresh = s.fresh := rfl
@[simp] theorem State.dropThread_serial (k j : Nat) : (s.dropThread k j).serial = s.serial := rfl
@[simp] theorem State.dropThread_flaws (k j : Nat) : (s.dropThread k j).flaws = s.flaws := rfl
@[simp] theorem State.dropThread_archive (k j : Nat) : (s.dropThread k j).archive = s.archive := rfl
@[simp] theorem State.dropThread_past (k j : Nat) : (s.dropThread k j).past = s.past := rfl
@[simp] theorem State.dropThread_cycle (k j : Nat) : (s.dropThread k j).cycle = s.cycle := rfl
@[simp] theorem State.dropThread_mem (k j : Nat) : (s.dropThread k j).mem = s.mem := rfl
@[simp] theorem State.dropThread_poison (k j : Nat) : (s.dropThread k j).poison = s.poison := rfl
@[simp] theorem State.dropThread_disabled (k j : Nat) : (s.dropThread k j).disabled = s.disabled := rfl
@[simp] theorem State.dropThread_boot (k j : Nat) : (s.dropThread k j).boot = s.boot := rfl
@[simp] theorem State.dropThread_clusters (k j : Nat) : (s.dropThread k j).clusters = s.clusters := rfl
@[simp] theorem State.dropThread_dies (k j : Nat) : (s.dropThread k j).dies = s.dies := rfl
@[simp] theorem State.dropThread_flumes (k j : Nat) : (s.dropThread k j).flumes = s.flumes := rfl
@[simp] theorem State.dropThread_ctxs (k j : Nat) : (s.dropThread k j).ctxs = s.ctxs := rfl
@[simp] theorem State.dropThread_lastCtx (k j : Nat) : (s.dropThread k j).lastCtx = s.lastCtx := rfl
@[simp] theorem State.dropThread_windows (k j : Nat) : (s.dropThread k j).windows = s.windows := rfl
@[simp] theorem State.dropThread_fabDims (k j : Nat) : (s.dropThread k j).fabDims = s.fabDims := rfl
@[simp] theorem State.dropThread_fabSelf (k j : Nat) : (s.dropThread k j).fabSelf = s.fabSelf := rfl
@[simp] theorem State.dropThread_rtsel (k j : Nat) : (s.dropThread k j).rtsel = s.rtsel := rfl
@[simp] theorem State.dropThread_routes (k j : Nat) : (s.dropThread k j).routes = s.routes := rfl
@[simp] theorem State.dropThread_oHold (k j : Nat) : (s.dropThread k j).oHold = s.oHold := rfl
@[simp] theorem State.dropThread_oExpect (k j : Nat) : (s.dropThread k j).oExpect = s.oExpect := rfl
@[simp] theorem State.dropThread_ports (k j : Nat) : (s.dropThread k j).ports = s.ports := rfl
@[simp] theorem State.dropThread_lnkSel (k j : Nat) : (s.dropThread k j).lnkSel = s.lnkSel := rfl
@[simp] theorem State.dropThread_lnkKeys (k j : Nat) : (s.dropThread k j).lnkKeys = s.lnkKeys := rfl
@[simp] theorem State.dropThread_irq (k j : Nat) : (s.dropThread k j).irq = s.irq := rfl
@[simp] theorem State.dropThread_banks (k j : Nat) : (s.dropThread k j).banks = s.banks := rfl
@[simp] theorem State.dropThread_slots (k j : Nat) : (s.dropThread k j).slots = s.slots := rfl
@[simp] theorem State.dropThread_walkers (k j : Nat) : (s.dropThread k j).walkers = s.walkers := rfl
@[simp] theorem State.dropThread_bridge (k j : Nat) : (s.dropThread k j).bridge = s.bridge := rfl
@[simp] theorem State.dropThread_wire (k j : Nat) : (s.dropThread k j).wire = s.wire := rfl
@[simp] theorem State.dropThread_mgmt (k j : Nat) : (s.dropThread k j).mgmt = s.mgmt := rfl
@[simp] theorem State.dropThread_last (k j : Nat) : (s.dropThread k j).last = s.last := rfl

/-! ### setSem -/

@[simp] theorem State.setSem_agenda (k j : Nat) (x : Sem) : (s.setSem k j x).agenda = s.agenda := rfl
@[simp] theorem State.setSem_inflight (k j : Nat) (x : Sem) : (s.setSem k j x).inflight = s.inflight := rfl
@[simp] theorem State.setSem_cur (k j : Nat) (x : Sem) : (s.setSem k j x).cur = s.cur := rfl
@[simp] theorem State.setSem_focus (k j : Nat) (x : Sem) : (s.setSem k j x).focus = s.focus := rfl
@[simp] theorem State.setSem_fresh (k j : Nat) (x : Sem) : (s.setSem k j x).fresh = s.fresh := rfl
@[simp] theorem State.setSem_serial (k j : Nat) (x : Sem) : (s.setSem k j x).serial = s.serial := rfl
@[simp] theorem State.setSem_flaws (k j : Nat) (x : Sem) : (s.setSem k j x).flaws = s.flaws := rfl
@[simp] theorem State.setSem_archive (k j : Nat) (x : Sem) : (s.setSem k j x).archive = s.archive := rfl
@[simp] theorem State.setSem_past (k j : Nat) (x : Sem) : (s.setSem k j x).past = s.past := rfl
@[simp] theorem State.setSem_cycle (k j : Nat) (x : Sem) : (s.setSem k j x).cycle = s.cycle := rfl
@[simp] theorem State.setSem_mem (k j : Nat) (x : Sem) : (s.setSem k j x).mem = s.mem := rfl
@[simp] theorem State.setSem_poison (k j : Nat) (x : Sem) : (s.setSem k j x).poison = s.poison := rfl
@[simp] theorem State.setSem_disabled (k j : Nat) (x : Sem) : (s.setSem k j x).disabled = s.disabled := rfl
@[simp] theorem State.setSem_boot (k j : Nat) (x : Sem) : (s.setSem k j x).boot = s.boot := rfl
@[simp] theorem State.setSem_clusters (k j : Nat) (x : Sem) : (s.setSem k j x).clusters = s.clusters := rfl
@[simp] theorem State.setSem_dies (k j : Nat) (x : Sem) : (s.setSem k j x).dies = s.dies := rfl
@[simp] theorem State.setSem_flumes (k j : Nat) (x : Sem) : (s.setSem k j x).flumes = s.flumes := rfl
@[simp] theorem State.setSem_ctxs (k j : Nat) (x : Sem) : (s.setSem k j x).ctxs = s.ctxs := rfl
@[simp] theorem State.setSem_lastCtx (k j : Nat) (x : Sem) : (s.setSem k j x).lastCtx = s.lastCtx := rfl
@[simp] theorem State.setSem_windows (k j : Nat) (x : Sem) : (s.setSem k j x).windows = s.windows := rfl
@[simp] theorem State.setSem_fabDims (k j : Nat) (x : Sem) : (s.setSem k j x).fabDims = s.fabDims := rfl
@[simp] theorem State.setSem_fabSelf (k j : Nat) (x : Sem) : (s.setSem k j x).fabSelf = s.fabSelf := rfl
@[simp] theorem State.setSem_rtsel (k j : Nat) (x : Sem) : (s.setSem k j x).rtsel = s.rtsel := rfl
@[simp] theorem State.setSem_routes (k j : Nat) (x : Sem) : (s.setSem k j x).routes = s.routes := rfl
@[simp] theorem State.setSem_oHold (k j : Nat) (x : Sem) : (s.setSem k j x).oHold = s.oHold := rfl
@[simp] theorem State.setSem_oExpect (k j : Nat) (x : Sem) : (s.setSem k j x).oExpect = s.oExpect := rfl
@[simp] theorem State.setSem_ports (k j : Nat) (x : Sem) : (s.setSem k j x).ports = s.ports := rfl
@[simp] theorem State.setSem_lnkSel (k j : Nat) (x : Sem) : (s.setSem k j x).lnkSel = s.lnkSel := rfl
@[simp] theorem State.setSem_lnkKeys (k j : Nat) (x : Sem) : (s.setSem k j x).lnkKeys = s.lnkKeys := rfl
@[simp] theorem State.setSem_irq (k j : Nat) (x : Sem) : (s.setSem k j x).irq = s.irq := rfl
@[simp] theorem State.setSem_banks (k j : Nat) (x : Sem) : (s.setSem k j x).banks = s.banks := rfl
@[simp] theorem State.setSem_slots (k j : Nat) (x : Sem) : (s.setSem k j x).slots = s.slots := rfl
@[simp] theorem State.setSem_walkers (k j : Nat) (x : Sem) : (s.setSem k j x).walkers = s.walkers := rfl
@[simp] theorem State.setSem_bridge (k j : Nat) (x : Sem) : (s.setSem k j x).bridge = s.bridge := rfl
@[simp] theorem State.setSem_wire (k j : Nat) (x : Sem) : (s.setSem k j x).wire = s.wire := rfl
@[simp] theorem State.setSem_mgmt (k j : Nat) (x : Sem) : (s.setSem k j x).mgmt = s.mgmt := rfl
@[simp] theorem State.setSem_last (k j : Nat) (x : Sem) : (s.setSem k j x).last = s.last := rfl

/-! ### setHrt -/

@[simp] theorem State.setHrt_agenda (k j : Nat) (x : HrtEntry) : (s.setHrt k j x).agenda = s.agenda := rfl
@[simp] theorem State.setHrt_inflight (k j : Nat) (x : HrtEntry) : (s.setHrt k j x).inflight = s.inflight := rfl
@[simp] theorem State.setHrt_cur (k j : Nat) (x : HrtEntry) : (s.setHrt k j x).cur = s.cur := rfl
@[simp] theorem State.setHrt_focus (k j : Nat) (x : HrtEntry) : (s.setHrt k j x).focus = s.focus := rfl
@[simp] theorem State.setHrt_fresh (k j : Nat) (x : HrtEntry) : (s.setHrt k j x).fresh = s.fresh := rfl
@[simp] theorem State.setHrt_serial (k j : Nat) (x : HrtEntry) : (s.setHrt k j x).serial = s.serial := rfl
@[simp] theorem State.setHrt_flaws (k j : Nat) (x : HrtEntry) : (s.setHrt k j x).flaws = s.flaws := rfl
@[simp] theorem State.setHrt_archive (k j : Nat) (x : HrtEntry) : (s.setHrt k j x).archive = s.archive := rfl
@[simp] theorem State.setHrt_past (k j : Nat) (x : HrtEntry) : (s.setHrt k j x).past = s.past := rfl
@[simp] theorem State.setHrt_cycle (k j : Nat) (x : HrtEntry) : (s.setHrt k j x).cycle = s.cycle := rfl
@[simp] theorem State.setHrt_mem (k j : Nat) (x : HrtEntry) : (s.setHrt k j x).mem = s.mem := rfl
@[simp] theorem State.setHrt_poison (k j : Nat) (x : HrtEntry) : (s.setHrt k j x).poison = s.poison := rfl
@[simp] theorem State.setHrt_disabled (k j : Nat) (x : HrtEntry) : (s.setHrt k j x).disabled = s.disabled := rfl
@[simp] theorem State.setHrt_boot (k j : Nat) (x : HrtEntry) : (s.setHrt k j x).boot = s.boot := rfl
@[simp] theorem State.setHrt_clusters (k j : Nat) (x : HrtEntry) : (s.setHrt k j x).clusters = s.clusters := rfl
@[simp] theorem State.setHrt_dies (k j : Nat) (x : HrtEntry) : (s.setHrt k j x).dies = s.dies := rfl
@[simp] theorem State.setHrt_flumes (k j : Nat) (x : HrtEntry) : (s.setHrt k j x).flumes = s.flumes := rfl
@[simp] theorem State.setHrt_ctxs (k j : Nat) (x : HrtEntry) : (s.setHrt k j x).ctxs = s.ctxs := rfl
@[simp] theorem State.setHrt_lastCtx (k j : Nat) (x : HrtEntry) : (s.setHrt k j x).lastCtx = s.lastCtx := rfl
@[simp] theorem State.setHrt_windows (k j : Nat) (x : HrtEntry) : (s.setHrt k j x).windows = s.windows := rfl
@[simp] theorem State.setHrt_fabDims (k j : Nat) (x : HrtEntry) : (s.setHrt k j x).fabDims = s.fabDims := rfl
@[simp] theorem State.setHrt_fabSelf (k j : Nat) (x : HrtEntry) : (s.setHrt k j x).fabSelf = s.fabSelf := rfl
@[simp] theorem State.setHrt_rtsel (k j : Nat) (x : HrtEntry) : (s.setHrt k j x).rtsel = s.rtsel := rfl
@[simp] theorem State.setHrt_routes (k j : Nat) (x : HrtEntry) : (s.setHrt k j x).routes = s.routes := rfl
@[simp] theorem State.setHrt_oHold (k j : Nat) (x : HrtEntry) : (s.setHrt k j x).oHold = s.oHold := rfl
@[simp] theorem State.setHrt_oExpect (k j : Nat) (x : HrtEntry) : (s.setHrt k j x).oExpect = s.oExpect := rfl
@[simp] theorem State.setHrt_ports (k j : Nat) (x : HrtEntry) : (s.setHrt k j x).ports = s.ports := rfl
@[simp] theorem State.setHrt_lnkSel (k j : Nat) (x : HrtEntry) : (s.setHrt k j x).lnkSel = s.lnkSel := rfl
@[simp] theorem State.setHrt_lnkKeys (k j : Nat) (x : HrtEntry) : (s.setHrt k j x).lnkKeys = s.lnkKeys := rfl
@[simp] theorem State.setHrt_irq (k j : Nat) (x : HrtEntry) : (s.setHrt k j x).irq = s.irq := rfl
@[simp] theorem State.setHrt_banks (k j : Nat) (x : HrtEntry) : (s.setHrt k j x).banks = s.banks := rfl
@[simp] theorem State.setHrt_slots (k j : Nat) (x : HrtEntry) : (s.setHrt k j x).slots = s.slots := rfl
@[simp] theorem State.setHrt_walkers (k j : Nat) (x : HrtEntry) : (s.setHrt k j x).walkers = s.walkers := rfl
@[simp] theorem State.setHrt_bridge (k j : Nat) (x : HrtEntry) : (s.setHrt k j x).bridge = s.bridge := rfl
@[simp] theorem State.setHrt_wire (k j : Nat) (x : HrtEntry) : (s.setHrt k j x).wire = s.wire := rfl
@[simp] theorem State.setHrt_mgmt (k j : Nat) (x : HrtEntry) : (s.setHrt k j x).mgmt = s.mgmt := rfl
@[simp] theorem State.setHrt_last (k j : Nat) (x : HrtEntry) : (s.setHrt k j x).last = s.last := rfl

/-! ### setTctx -/

@[simp] theorem State.setTctx_agenda (k : Nat) (c : BitVec 6) (x : TileCtx) : (s.setTctx k c x).agenda = s.agenda := rfl
@[simp] theorem State.setTctx_inflight (k : Nat) (c : BitVec 6) (x : TileCtx) : (s.setTctx k c x).inflight = s.inflight := rfl
@[simp] theorem State.setTctx_cur (k : Nat) (c : BitVec 6) (x : TileCtx) : (s.setTctx k c x).cur = s.cur := rfl
@[simp] theorem State.setTctx_focus (k : Nat) (c : BitVec 6) (x : TileCtx) : (s.setTctx k c x).focus = s.focus := rfl
@[simp] theorem State.setTctx_fresh (k : Nat) (c : BitVec 6) (x : TileCtx) : (s.setTctx k c x).fresh = s.fresh := rfl
@[simp] theorem State.setTctx_serial (k : Nat) (c : BitVec 6) (x : TileCtx) : (s.setTctx k c x).serial = s.serial := rfl
@[simp] theorem State.setTctx_flaws (k : Nat) (c : BitVec 6) (x : TileCtx) : (s.setTctx k c x).flaws = s.flaws := rfl
@[simp] theorem State.setTctx_archive (k : Nat) (c : BitVec 6) (x : TileCtx) : (s.setTctx k c x).archive = s.archive := rfl
@[simp] theorem State.setTctx_past (k : Nat) (c : BitVec 6) (x : TileCtx) : (s.setTctx k c x).past = s.past := rfl
@[simp] theorem State.setTctx_cycle (k : Nat) (c : BitVec 6) (x : TileCtx) : (s.setTctx k c x).cycle = s.cycle := rfl
@[simp] theorem State.setTctx_mem (k : Nat) (c : BitVec 6) (x : TileCtx) : (s.setTctx k c x).mem = s.mem := rfl
@[simp] theorem State.setTctx_poison (k : Nat) (c : BitVec 6) (x : TileCtx) : (s.setTctx k c x).poison = s.poison := rfl
@[simp] theorem State.setTctx_disabled (k : Nat) (c : BitVec 6) (x : TileCtx) : (s.setTctx k c x).disabled = s.disabled := rfl
@[simp] theorem State.setTctx_boot (k : Nat) (c : BitVec 6) (x : TileCtx) : (s.setTctx k c x).boot = s.boot := rfl
@[simp] theorem State.setTctx_clusters (k : Nat) (c : BitVec 6) (x : TileCtx) : (s.setTctx k c x).clusters = s.clusters := rfl
@[simp] theorem State.setTctx_dies (k : Nat) (c : BitVec 6) (x : TileCtx) : (s.setTctx k c x).dies = s.dies := rfl
@[simp] theorem State.setTctx_flumes (k : Nat) (c : BitVec 6) (x : TileCtx) : (s.setTctx k c x).flumes = s.flumes := rfl
@[simp] theorem State.setTctx_ctxs (k : Nat) (c : BitVec 6) (x : TileCtx) : (s.setTctx k c x).ctxs = s.ctxs := rfl
@[simp] theorem State.setTctx_lastCtx (k : Nat) (c : BitVec 6) (x : TileCtx) : (s.setTctx k c x).lastCtx = s.lastCtx := rfl
@[simp] theorem State.setTctx_windows (k : Nat) (c : BitVec 6) (x : TileCtx) : (s.setTctx k c x).windows = s.windows := rfl
@[simp] theorem State.setTctx_fabDims (k : Nat) (c : BitVec 6) (x : TileCtx) : (s.setTctx k c x).fabDims = s.fabDims := rfl
@[simp] theorem State.setTctx_fabSelf (k : Nat) (c : BitVec 6) (x : TileCtx) : (s.setTctx k c x).fabSelf = s.fabSelf := rfl
@[simp] theorem State.setTctx_rtsel (k : Nat) (c : BitVec 6) (x : TileCtx) : (s.setTctx k c x).rtsel = s.rtsel := rfl
@[simp] theorem State.setTctx_routes (k : Nat) (c : BitVec 6) (x : TileCtx) : (s.setTctx k c x).routes = s.routes := rfl
@[simp] theorem State.setTctx_oHold (k : Nat) (c : BitVec 6) (x : TileCtx) : (s.setTctx k c x).oHold = s.oHold := rfl
@[simp] theorem State.setTctx_oExpect (k : Nat) (c : BitVec 6) (x : TileCtx) : (s.setTctx k c x).oExpect = s.oExpect := rfl
@[simp] theorem State.setTctx_ports (k : Nat) (c : BitVec 6) (x : TileCtx) : (s.setTctx k c x).ports = s.ports := rfl
@[simp] theorem State.setTctx_lnkSel (k : Nat) (c : BitVec 6) (x : TileCtx) : (s.setTctx k c x).lnkSel = s.lnkSel := rfl
@[simp] theorem State.setTctx_lnkKeys (k : Nat) (c : BitVec 6) (x : TileCtx) : (s.setTctx k c x).lnkKeys = s.lnkKeys := rfl
@[simp] theorem State.setTctx_irq (k : Nat) (c : BitVec 6) (x : TileCtx) : (s.setTctx k c x).irq = s.irq := rfl
@[simp] theorem State.setTctx_banks (k : Nat) (c : BitVec 6) (x : TileCtx) : (s.setTctx k c x).banks = s.banks := rfl
@[simp] theorem State.setTctx_slots (k : Nat) (c : BitVec 6) (x : TileCtx) : (s.setTctx k c x).slots = s.slots := rfl
@[simp] theorem State.setTctx_walkers (k : Nat) (c : BitVec 6) (x : TileCtx) : (s.setTctx k c x).walkers = s.walkers := rfl
@[simp] theorem State.setTctx_bridge (k : Nat) (c : BitVec 6) (x : TileCtx) : (s.setTctx k c x).bridge = s.bridge := rfl
@[simp] theorem State.setTctx_wire (k : Nat) (c : BitVec 6) (x : TileCtx) : (s.setTctx k c x).wire = s.wire := rfl
@[simp] theorem State.setTctx_mgmt (k : Nat) (c : BitVec 6) (x : TileCtx) : (s.setTctx k c x).mgmt = s.mgmt := rfl
@[simp] theorem State.setTctx_last (k : Nat) (c : BitVec 6) (x : TileCtx) : (s.setTctx k c x).last = s.last := rfl

/-! ### cause -/

@[simp] theorem State.cause_agenda (e : Instr) : (s.cause e).agenda = s.agenda := rfl
@[simp] theorem State.cause_inflight (e : Instr) : (s.cause e).inflight = s.inflight ++ [e] := rfl
@[simp] theorem State.cause_cur (e : Instr) : (s.cause e).cur = s.cur := rfl
@[simp] theorem State.cause_focus (e : Instr) : (s.cause e).focus = s.focus := rfl
@[simp] theorem State.cause_fresh (e : Instr) : (s.cause e).fresh = s.fresh := rfl
@[simp] theorem State.cause_serial (e : Instr) : (s.cause e).serial = s.serial := rfl
@[simp] theorem State.cause_flaws (e : Instr) : (s.cause e).flaws = s.flaws := rfl
@[simp] theorem State.cause_archive (e : Instr) : (s.cause e).archive = s.archive := rfl
@[simp] theorem State.cause_past (e : Instr) : (s.cause e).past = s.past := rfl
@[simp] theorem State.cause_cycle (e : Instr) : (s.cause e).cycle = s.cycle := rfl
@[simp] theorem State.cause_mem (e : Instr) : (s.cause e).mem = s.mem := rfl
@[simp] theorem State.cause_poison (e : Instr) : (s.cause e).poison = s.poison := rfl
@[simp] theorem State.cause_disabled (e : Instr) : (s.cause e).disabled = s.disabled := rfl
@[simp] theorem State.cause_boot (e : Instr) : (s.cause e).boot = s.boot := rfl
@[simp] theorem State.cause_tiles (e : Instr) : (s.cause e).tiles = s.tiles := rfl
@[simp] theorem State.cause_clusters (e : Instr) : (s.cause e).clusters = s.clusters := rfl
@[simp] theorem State.cause_dies (e : Instr) : (s.cause e).dies = s.dies := rfl
@[simp] theorem State.cause_flumes (e : Instr) : (s.cause e).flumes = s.flumes := rfl
@[simp] theorem State.cause_ctxs (e : Instr) : (s.cause e).ctxs = s.ctxs := rfl
@[simp] theorem State.cause_lastCtx (e : Instr) : (s.cause e).lastCtx = s.lastCtx := rfl
@[simp] theorem State.cause_windows (e : Instr) : (s.cause e).windows = s.windows := rfl
@[simp] theorem State.cause_fabDims (e : Instr) : (s.cause e).fabDims = s.fabDims := rfl
@[simp] theorem State.cause_fabSelf (e : Instr) : (s.cause e).fabSelf = s.fabSelf := rfl
@[simp] theorem State.cause_rtsel (e : Instr) : (s.cause e).rtsel = s.rtsel := rfl
@[simp] theorem State.cause_routes (e : Instr) : (s.cause e).routes = s.routes := rfl
@[simp] theorem State.cause_oHold (e : Instr) : (s.cause e).oHold = s.oHold := rfl
@[simp] theorem State.cause_oExpect (e : Instr) : (s.cause e).oExpect = s.oExpect := rfl
@[simp] theorem State.cause_ports (e : Instr) : (s.cause e).ports = s.ports := rfl
@[simp] theorem State.cause_lnkSel (e : Instr) : (s.cause e).lnkSel = s.lnkSel := rfl
@[simp] theorem State.cause_lnkKeys (e : Instr) : (s.cause e).lnkKeys = s.lnkKeys := rfl
@[simp] theorem State.cause_irq (e : Instr) : (s.cause e).irq = s.irq := rfl
@[simp] theorem State.cause_banks (e : Instr) : (s.cause e).banks = s.banks := rfl
@[simp] theorem State.cause_slots (e : Instr) : (s.cause e).slots = s.slots := rfl
@[simp] theorem State.cause_walkers (e : Instr) : (s.cause e).walkers = s.walkers := rfl
@[simp] theorem State.cause_bridge (e : Instr) : (s.cause e).bridge = s.bridge := rfl
@[simp] theorem State.cause_wire (e : Instr) : (s.cause e).wire = s.wire := rfl
@[simp] theorem State.cause_mgmt (e : Instr) : (s.cause e).mgmt = s.mgmt := rfl
@[simp] theorem State.cause_last (e : Instr) : (s.cause e).last = s.last := rfl

/-! ### useSlot -/

@[simp] theorem State.useSlot_agenda (k : Nat) : (s.useSlot k).agenda = s.agenda := rfl
@[simp] theorem State.useSlot_inflight (k : Nat) : (s.useSlot k).inflight = s.inflight := rfl
@[simp] theorem State.useSlot_cur (k : Nat) : (s.useSlot k).cur = s.cur := rfl
@[simp] theorem State.useSlot_focus (k : Nat) : (s.useSlot k).focus = s.focus := rfl
@[simp] theorem State.useSlot_fresh (k : Nat) : (s.useSlot k).fresh = s.fresh := rfl
@[simp] theorem State.useSlot_serial (k : Nat) : (s.useSlot k).serial = s.serial := rfl
@[simp] theorem State.useSlot_flaws (k : Nat) : (s.useSlot k).flaws = s.flaws := rfl
@[simp] theorem State.useSlot_archive (k : Nat) : (s.useSlot k).archive = s.archive := rfl
@[simp] theorem State.useSlot_past (k : Nat) : (s.useSlot k).past = s.past := rfl
@[simp] theorem State.useSlot_cycle (k : Nat) : (s.useSlot k).cycle = s.cycle := rfl
@[simp] theorem State.useSlot_mem (k : Nat) : (s.useSlot k).mem = s.mem := rfl
@[simp] theorem State.useSlot_poison (k : Nat) : (s.useSlot k).poison = s.poison := rfl
@[simp] theorem State.useSlot_disabled (k : Nat) : (s.useSlot k).disabled = s.disabled := rfl
@[simp] theorem State.useSlot_boot (k : Nat) : (s.useSlot k).boot = s.boot := rfl
@[simp] theorem State.useSlot_tiles (k : Nat) : (s.useSlot k).tiles = s.tiles := rfl
@[simp] theorem State.useSlot_clusters (k : Nat) : (s.useSlot k).clusters = s.clusters := rfl
@[simp] theorem State.useSlot_dies (k : Nat) : (s.useSlot k).dies = s.dies := rfl
@[simp] theorem State.useSlot_flumes (k : Nat) : (s.useSlot k).flumes = s.flumes := rfl
@[simp] theorem State.useSlot_ctxs (k : Nat) : (s.useSlot k).ctxs = s.ctxs := rfl
@[simp] theorem State.useSlot_lastCtx (k : Nat) : (s.useSlot k).lastCtx = s.lastCtx := rfl
@[simp] theorem State.useSlot_windows (k : Nat) : (s.useSlot k).windows = s.windows := rfl
@[simp] theorem State.useSlot_fabDims (k : Nat) : (s.useSlot k).fabDims = s.fabDims := rfl
@[simp] theorem State.useSlot_fabSelf (k : Nat) : (s.useSlot k).fabSelf = s.fabSelf := rfl
@[simp] theorem State.useSlot_rtsel (k : Nat) : (s.useSlot k).rtsel = s.rtsel := rfl
@[simp] theorem State.useSlot_routes (k : Nat) : (s.useSlot k).routes = s.routes := rfl
@[simp] theorem State.useSlot_oHold (k : Nat) : (s.useSlot k).oHold = s.oHold := rfl
@[simp] theorem State.useSlot_oExpect (k : Nat) : (s.useSlot k).oExpect = s.oExpect := rfl
@[simp] theorem State.useSlot_ports (k : Nat) : (s.useSlot k).ports = s.ports := rfl
@[simp] theorem State.useSlot_lnkSel (k : Nat) : (s.useSlot k).lnkSel = s.lnkSel := rfl
@[simp] theorem State.useSlot_lnkKeys (k : Nat) : (s.useSlot k).lnkKeys = s.lnkKeys := rfl
@[simp] theorem State.useSlot_irq (k : Nat) : (s.useSlot k).irq = s.irq := rfl
@[simp] theorem State.useSlot_banks (k : Nat) : (s.useSlot k).banks = s.banks := rfl
@[simp] theorem State.useSlot_slots (k : Nat) : (s.useSlot k).slots = Tab.put s.slots k (s.cycle + 1) := rfl
@[simp] theorem State.useSlot_walkers (k : Nat) : (s.useSlot k).walkers = s.walkers := rfl
@[simp] theorem State.useSlot_bridge (k : Nat) : (s.useSlot k).bridge = s.bridge := rfl
@[simp] theorem State.useSlot_wire (k : Nat) : (s.useSlot k).wire = s.wire := rfl
@[simp] theorem State.useSlot_mgmt (k : Nat) : (s.useSlot k).mgmt = s.mgmt := rfl
@[simp] theorem State.useSlot_last (k : Nat) : (s.useSlot k).last = s.last := rfl

/-! ### tickSerial -/

@[simp] theorem State.tickSerial_agenda : s.tickSerial.agenda = s.agenda := rfl
@[simp] theorem State.tickSerial_inflight : s.tickSerial.inflight = s.inflight := rfl
@[simp] theorem State.tickSerial_cur : s.tickSerial.cur = s.cur := rfl
@[simp] theorem State.tickSerial_focus : s.tickSerial.focus = s.focus := rfl
@[simp] theorem State.tickSerial_fresh : s.tickSerial.fresh = s.fresh := rfl
@[simp] theorem State.tickSerial_serial : s.tickSerial.serial = s.serial + 1 := rfl
@[simp] theorem State.tickSerial_flaws : s.tickSerial.flaws = s.flaws := rfl
@[simp] theorem State.tickSerial_archive : s.tickSerial.archive = s.archive := rfl
@[simp] theorem State.tickSerial_past : s.tickSerial.past = s.past := rfl
@[simp] theorem State.tickSerial_cycle : s.tickSerial.cycle = s.cycle := rfl
@[simp] theorem State.tickSerial_mem : s.tickSerial.mem = s.mem := rfl
@[simp] theorem State.tickSerial_poison : s.tickSerial.poison = s.poison := rfl
@[simp] theorem State.tickSerial_disabled : s.tickSerial.disabled = s.disabled := rfl
@[simp] theorem State.tickSerial_boot : s.tickSerial.boot = s.boot := rfl
@[simp] theorem State.tickSerial_tiles : s.tickSerial.tiles = s.tiles := rfl
@[simp] theorem State.tickSerial_clusters : s.tickSerial.clusters = s.clusters := rfl
@[simp] theorem State.tickSerial_dies : s.tickSerial.dies = s.dies := rfl
@[simp] theorem State.tickSerial_flumes : s.tickSerial.flumes = s.flumes := rfl
@[simp] theorem State.tickSerial_ctxs : s.tickSerial.ctxs = s.ctxs := rfl
@[simp] theorem State.tickSerial_lastCtx : s.tickSerial.lastCtx = s.lastCtx := rfl
@[simp] theorem State.tickSerial_windows : s.tickSerial.windows = s.windows := rfl
@[simp] theorem State.tickSerial_fabDims : s.tickSerial.fabDims = s.fabDims := rfl
@[simp] theorem State.tickSerial_fabSelf : s.tickSerial.fabSelf = s.fabSelf := rfl
@[simp] theorem State.tickSerial_rtsel : s.tickSerial.rtsel = s.rtsel := rfl
@[simp] theorem State.tickSerial_routes : s.tickSerial.routes = s.routes := rfl
@[simp] theorem State.tickSerial_oHold : s.tickSerial.oHold = s.oHold := rfl
@[simp] theorem State.tickSerial_oExpect : s.tickSerial.oExpect = s.oExpect := rfl
@[simp] theorem State.tickSerial_ports : s.tickSerial.ports = s.ports := rfl
@[simp] theorem State.tickSerial_lnkSel : s.tickSerial.lnkSel = s.lnkSel := rfl
@[simp] theorem State.tickSerial_lnkKeys : s.tickSerial.lnkKeys = s.lnkKeys := rfl
@[simp] theorem State.tickSerial_irq : s.tickSerial.irq = s.irq := rfl
@[simp] theorem State.tickSerial_banks : s.tickSerial.banks = s.banks := rfl
@[simp] theorem State.tickSerial_slots : s.tickSerial.slots = s.slots := rfl
@[simp] theorem State.tickSerial_walkers : s.tickSerial.walkers = s.walkers := rfl
@[simp] theorem State.tickSerial_bridge : s.tickSerial.bridge = s.bridge := rfl
@[simp] theorem State.tickSerial_wire : s.tickSerial.wire = s.wire := rfl
@[simp] theorem State.tickSerial_mgmt : s.tickSerial.mgmt = s.mgmt := rfl
@[simp] theorem State.tickSerial_last : s.tickSerial.last = s.last := rfl

end Sys2Proof.Machine
end

