-- ==== Sys2Proof/Laws/Tables.lean ====
section
/-! SUPPORT. Laws of the sparse tables, of the units of the state, and of memory: read after write, and the canonical form. -/

namespace Sys2Proof.Machine
open Sys2Proof

/-! ### Tables -/

@[simp] theorem Tab.get_put_same {α : Type} (d : α) (t : Tab α) (k : Nat) (v : α) : Tab.get d (Tab.put t k v) k = v := by
  induction t with
  | nil => simp [Tab.put, Tab.get]
  | cons e t ih =>
    obtain ⟨j, x⟩ := e
    simp only [Tab.put]
    split
    · simp [Tab.get]
    · split
      · simp [Tab.get]
      · rename_i h1 h2; simp [Tab.get, h1, h2, ih]

theorem Tab.get_put_ne {α : Type} (d : α) (t : Tab α) {k j : Nat} (v : α) (h : j ≠ k) : Tab.get d (Tab.put t k v) j = Tab.get d t j := by
  induction t with
  | nil => simp [Tab.put, Tab.get, h]
  | cons e t ih =>
    obtain ⟨i, x⟩ := e
    simp only [Tab.put]
    split
    · simp only [Tab.get, h, if_false]
      split
      · have h1 : j ≠ i := by omega
        have h2 : j < i := by omega
        simp [h1, h2]
      · rfl
    · split
      · rename_i h2; subst h2; simp [Tab.get, h]
      · simp [Tab.get, ih]

@[simp] theorem Tab.find_put_same {α : Type} (t : Tab α) (k : Nat) (v : α) : Tab.find (Tab.put t k v) k = some v := by
  induction t with
  | nil => simp [Tab.put, Tab.find]
  | cons e t ih =>
    obtain ⟨j, x⟩ := e
    simp only [Tab.put]
    split
    · simp [Tab.find]
    · split
      · simp [Tab.find]
      · rename_i h1 h2; simp [Tab.find, h1, h2, ih]

theorem Tab.find_put_ne {α : Type} (t : Tab α) {k j : Nat} (v : α) (h : j ≠ k) : Tab.find (Tab.put t k v) j = Tab.find t j := by
  induction t with
  | nil => simp [Tab.put, Tab.find, h]
  | cons e t ih =>
    obtain ⟨i, x⟩ := e
    simp only [Tab.put]
    split
    · simp only [Tab.find, h, if_false]
      split
      · have h1 : j ≠ i := by omega
        have h2 : j < i := by omega
        simp [h1, h2]
      · rfl
    · split
      · rename_i h2; subst h2; simp [Tab.find, h]
      · simp [Tab.find, ih]

/-! ### Units -/

@[simp] theorem State.tile_setTile (s : State) (k : Nat) (x : Tile) : (s.setTile k x).tile k = x := by simp [State.tile]
theorem State.tile_setTile_ne (s : State) {k j : Nat} (x : Tile) (h : j ≠ k) : (s.setTile k x).tile j = s.tile j := by
  simp [State.tile, Tab.get_put_ne _ _ _ h]
@[simp] theorem State.cluster_setCluster (s : State) (k : Nat) (x : Cluster) : (s.setCluster k x).cluster k = x := by simp [State.cluster]
@[simp] theorem State.die_setDie (s : State) (k : Nat) (x : Die) : (s.setDie k x).die k = x := by simp [State.die]
@[simp] theorem State.flume_setFlume (s : State) (k : Nat) (x : Flume) : (s.setFlume k x).flume k = x := by simp [State.flume]
@[simp] theorem State.ctx_setCtx (s : State) (k : BitVec 6) (x : Context) : (s.setCtx k x).ctx k = x := by simp [State.ctx]
theorem State.ctx_setCtx_ne (s : State) {k j : BitVec 6} (x : Context) (h : j ≠ k) : (s.setCtx k x).ctx j = s.ctx j := by
  have : j.toNat ≠ k.toNat := fun e => h (BitVec.eq_of_toNat_eq e)
  simp [State.ctx, Tab.get_put_ne _ _ _ this]
@[simp] theorem State.port_setPort (s : State) (k : Nat) (x : Port) : (s.setPort k x).port k = x := by simp [State.port]
@[simp] theorem State.window_setWindow (s : State) (k : Nat) (x : Window) : (s.setWindow k x).window k = x := by simp [State.window]
@[simp] theorem State.bank_setBank (s : State) (k : Nat) (x : List BankReq) : (s.setBank k x).bank k = x := by simp [State.bank]

@[simp] theorem State.thread_setThread (s : State) (k j : Nat) (x : Thread) : (s.setThread k j x).thread? k j = some x := by
  simp [State.thread?, State.setThread]
theorem State.thread_setThread_ne (s : State) {k j k' j' : Nat} (x : Thread) (h : k' ≠ k ∨ j' ≠ j) :
    (s.setThread k j x).thread? k' j' = s.thread? k' j' := by
  unfold State.thread? State.setThread
  by_cases e : k' = k
  · subst e
    have : j' ≠ j := by rcases h with h | h
                        · exact absurd rfl h
                        · exact h
    simp [Tab.find_put_ne _ _ this]
  · rw [State.tile_setTile_ne _ _ e]
@[simp] theorem State.me_setMe (s : State) (x : Thread) : (s.setMe x).me = some x := by simp [State.me, State.setMe, State.setThread, State.thread?]
@[simp] theorem State.sem_setSem (s : State) (k j : Nat) (x : Sem) : (s.setSem k j x).sem k j = x := by simp [State.sem, State.setSem]
@[simp] theorem State.hrt_setHrt (s : State) (k j : Nat) (x : HrtEntry) : (s.setHrt k j x).hrt k j = x := by simp [State.hrt, State.setHrt]
@[simp] theorem State.tctx_setTctx (s : State) (k : Nat) (c : BitVec 6) (x : TileCtx) : (s.setTctx k c x).tctx k c = x := by
  simp [State.tctx, State.setTctx]

/-! ### Registers of a thread -/

theorem Thread.reg_setReg (t : Thread) (r q : GReg) (x : Reg) (h : t.regs.length = 16) :
    (t.setReg r x).reg q = if q = r then x else t.reg q := by
  have hr : r.toNat < t.regs.length := by rw [h]; exact r.isLt
  by_cases e : q = r
  · subst e
    simp [Thread.reg, Thread.setReg, List.getD, hr]
  · have hn : r.toNat ≠ q.toNat := fun c => e (BitVec.eq_of_toNat_eq c).symm
    simp [Thread.reg, Thread.setReg, List.getD, e, List.getElem?_set_ne hn]

/-! ### Memory -/

theorem memWfFrom_mono {k j : Nat} {m : List Host.Cell} (h : j ≤ k) (w : memWfFrom k m = true) : memWfFrom j m = true := by
  cases m with
  | nil => rfl
  | cons e m =>
    obtain ⟨a, b⟩ := e
    simp only [memWfFrom, Bool.and_eq_true, decide_eq_true_eq] at w ⊢
    exact ⟨⟨by omega, w.1.2⟩, w.2⟩

/-- Below its bound a canonical memory lists nothing. -/
theorem memGet_below {k j : Nat} {m : List Host.Cell} (h : j < k) (w : memWfFrom k m = true) : memGet m j = Config.unwrittenByte := by
  cases m with
  | nil => rfl
  | cons e m =>
    obtain ⟨a, b⟩ := e
    simp only [memWfFrom, Bool.and_eq_true, decide_eq_true_eq] at w
    have h1 : j ≠ a := by omega
    have h2 : j < a := by omega
    simp [memGet, h1, h2]

theorem memWfFrom_memSet (m : List Host.Cell) : ∀ (j k : Nat) (b : Byte), j ≤ k → memWfFrom j m = true → memWfFrom j (memSet m k b) = true := by
  induction m with
  | nil =>
    intro j k b hj w
    simp only [memSet]
    split
    · rfl
    · rename_i hb; simp [memWfFrom, hj, hb]
  | cons e m ih =>
    obtain ⟨a, x⟩ := e
    intro j k b hj w
    have w' := w
    simp only [memWfFrom, Bool.and_eq_true, decide_eq_true_eq] at w'
    simp only [memSet]
    split
    · split
      · exact w
      · rename_i hk hb
        simp only [memWfFrom, Bool.and_eq_true, decide_eq_true_eq, bne_iff_ne, ne_eq]
        exact ⟨⟨hj, hb⟩, ⟨⟨by omega, by simpa using w'.1.2⟩, w'.2⟩⟩
    · split
      · split
        · exact memWfFrom_mono (by omega) w'.2
        · rename_i h1 h2 hb
          subst h2
          simp only [memWfFrom, Bool.and_eq_true, decide_eq_true_eq, bne_iff_ne, ne_eq]
          exact ⟨⟨hj, hb⟩, w'.2⟩
      · simp only [memWfFrom, Bool.and_eq_true, decide_eq_true_eq]
        exact ⟨w'.1, ih (a + 1) k b (by omega) w'.2⟩

/-- Setting a byte keeps the canonical form. -/
theorem memWf_nil : Memory.wf [] = true := rfl
theorem memSet_wf {m : List Host.Cell} (k : Nat) (b : Byte) (w : Memory.wf m = true) : Memory.wf (memSet m k b) = true :=
  memWfFrom_memSet m 0 k b (Nat.zero_le k) w

theorem memWrite_wf (bs : List Byte) : ∀ {m : List Host.Cell} (a : Nat), Memory.wf m = true → Memory.wf (memWrite m a bs) = true := by
  induction bs with
  | nil => intro m a w; exact w
  | cons b bs ih => intro m a w; exact ih (a + 1) (memSet_wf a b w)

theorem mergeUnit_wf {m : List Host.Cell} (u : Nat) (data : Word) (mask : BitVec 8) (w : Memory.wf m = true) :
    Memory.wf (mergeUnit m u data mask) = true := by
  unfold mergeUnit
  generalize List.range 8 = l
  induction l generalizing m with
  | nil => exact w
  | cons k l ih =>
    simp only [List.foldl_cons]
    apply ih
    split
    · exact memSet_wf _ _ w
    · exact w

theorem memGet_memSet_from (m : List Host.Cell) : ∀ (j k q : Nat) (b : Byte), memWfFrom j m = true →
    memGet (memSet m k b) q = if q = k then b else memGet m q := by
  induction m with
  | nil =>
    intro j k q b w
    simp only [memSet]
    split
    · rename_i hb
      subst hb
      by_cases e : q = k <;> simp [memGet, e]
    · by_cases e : q = k <;> simp [memGet, e]
  | cons e m ih =>
    obtain ⟨a, x⟩ := e
    intro j k q b w
    simp only [memWfFrom, Bool.and_eq_true, decide_eq_true_eq] at w
    simp only [memSet]
    split
    · rename_i hk
      split
      · rename_i hb
        subst hb
        by_cases e : q = k
        · subst e
          have h1 : q ≠ a := by omega
          simp [memGet, h1, hk]
        · simp [e]
      · by_cases e : q = k
        · subst e; simp [memGet]
        · simp only [memGet, e, if_false]
          split
          · have h1 : q ≠ a := by omega
            have h2 : q < a := by omega
            simp [h1, h2]
          · rfl
    · split
      · rename_i h1 h2
        subst h2
        split
        · rename_i hb
          subst hb
          by_cases e : q = k
          · subst e
            simp [memGet_below (Nat.lt_succ_self q) w.2]
          · simp only [memGet, e, if_false]
            split
            · exact memGet_below (by omega) w.2
            · rfl
        · by_cases e : q = k <;> simp [memGet, e]
      · rename_i h1 h2
        by_cases e : q = a
        · subst e
          have : q ≠ k := by omega
          simp [memGet, this]
        · simp only [memGet, e, if_false]
          split
          · have : q ≠ k := by omega
            simp [this]
          · exact ih (a + 1) k q b w.2

/-- Read after write of one byte. -/
theorem memGet_memSet {m : List Host.Cell} (k q : Nat) (b : Byte) (w : Memory.wf m = true) :
    memGet (memSet m k b) q = if q = k then b else memGet m q := memGet_memSet_from m 0 k q b w

/-- Reading a byte after a write of bytes. -/
theorem memGet_memWrite (bs : List Byte) : ∀ {m : List Host.Cell} (a q : Nat), Memory.wf m = true →
    memGet (memWrite m a bs) q = if a ≤ q ∧ q < a + bs.length then bs.getD (q - a) 0 else memGet m q := by
  induction bs with
  | nil =>
    intro m a q w
    have h : ¬(a ≤ q ∧ q < a + ([] : List Byte).length) := by simp only [List.length_nil]; omega
    simp only [memWrite]
    rw [if_neg h]
  | cons b bs ih =>
    intro m a q w
    simp only [memWrite]
    rw [ih (a + 1) q (memSet_wf a b w), memGet_memSet a q b w]
    simp only [List.length_cons]
    by_cases h1 : q = a
    · subst h1
      have h2 : ¬(q + 1 ≤ q ∧ q < q + 1 + bs.length) := by omega
      have h3 : q ≤ q ∧ q < q + (bs.length + 1) := by omega
      simp [h2, h3]
    · by_cases h2 : a + 1 ≤ q ∧ q < a + 1 + bs.length
      · have h3 : a ≤ q ∧ q < a + (bs.length + 1) := by omega
        have h4 : q - a = (q - (a + 1)) + 1 := by omega
        rw [if_pos h2, if_pos h3, h4, List.getD_cons_succ]
      · have h3 : ¬(a ≤ q ∧ q < a + (bs.length + 1)) := by omega
        rw [if_neg h2, if_neg h3, if_neg h1]

/-- Writing the value that an unlisted address reads as removes the entry: equal memories are equal data. -/
theorem memGet_ext : ∀ {m n : List Host.Cell}, ∀ {j k : Nat}, memWfFrom j m = true → memWfFrom k n = true →
    (∀ a, memGet m a = memGet n a) → m = n := by
  intro m
  induction m with
  | nil =>
    intro n j k _ wn h
    cases n with
    | nil => rfl
    | cons e n =>
      obtain ⟨a, b⟩ := e
      simp only [memWfFrom, Bool.and_eq_true, decide_eq_true_eq, bne_iff_ne, ne_eq] at wn
      have := h a
      simp only [memGet, if_true] at this
      exact absurd this.symm wn.1.2
  | cons e m ih =>
    obtain ⟨a, b⟩ := e
    intro n j k wm wn h
    have wm' := wm
    simp only [memWfFrom, Bool.and_eq_true, decide_eq_true_eq, bne_iff_ne, ne_eq] at wm'
    cases n with
    | nil =>
      have := h a
      simp only [memGet, if_true] at this
      exact absurd this wm'.1.2
    | cons f n =>
      obtain ⟨c, d⟩ := f
      have wn' := wn
      simp only [memWfFrom, Bool.and_eq_true, decide_eq_true_eq, bne_iff_ne, ne_eq] at wn'
      have hac : a = c := by
        rcases Nat.lt_trichotomy a c with l | l | l
        · have := h a
          have h1 : a ≠ c := by omega
          simp only [memGet, if_true, h1, if_false, l] at this
          exact absurd this wm'.1.2
        · exact l
        · have := h c
          have h1 : c ≠ a := by omega
          simp only [memGet, if_true, h1, if_false, l] at this
          exact absurd this.symm wn'.1.2
      subst hac
      have hbd : b = d := by have := h a; simpa [memGet] using this
      subst hbd
      have : m = n := by
        apply ih wm'.2 wn'.2
        intro q
        by_cases e : q < a + 1
        · rw [memGet_below e wm'.2, memGet_below e wn'.2]
        · have := h q
          have h1 : q ≠ a := by omega
          have h2 : ¬q < a := by omega
          simpa [memGet, h1, h2] using this
      rw [this]

/-! ### What reads and writes of memory change -/

@[simp] theorem State.logError_mem (s : State) (d ty : Nat) (u : BitVec 16) (a : BitVec 48) (y : BitVec 60) : (s.logError d ty u a y).mem = s.mem := by
  unfold State.logError
  dsimp only [State.setDie]

@[simp] theorem State.showFlaw_mem (s : State) (f : Flaw) : (s.showFlaw f).mem = s.mem := by
  cases f <;> simp only [State.showFlaw] <;> (try split) <;> simp

theorem State.foldl_showFlaw_mem (fs : List Flaw) : ∀ s : State, (fs.foldl State.showFlaw s).mem = s.mem := by
  induction fs with
  | nil => intro s; rfl
  | cons f fs ih => intro s; rw [List.foldl_cons, ih, State.showFlaw_mem]

/-- A read finds what has gone bad, and changes no byte. -/
@[simp] theorem State.touch_mem (s : State) (u : Nat) : (s.touch u).mem = s.mem := by
  unfold State.touch
  split
  · rfl
  · rw [State.foldl_showFlaw_mem]

@[simp] theorem State.touchAll_mem (us : List Nat) : ∀ s : State, (s.touchAll us).mem = s.mem := by
  induction us with
  | nil => intro s; rfl
  | cons u us ih => intro s; exact (ih (s.touch u)).trans (s.touch_mem u)

@[simp] theorem State.readBytes_mem (s : State) (pa n : Nat) : (s.readBytes pa n).1.mem = s.mem := by simp [State.readBytes]
@[simp] theorem State.readBytes_bytes (s : State) (pa n : Nat) : (s.readBytes pa n).2.1 = memRead s.mem pa n := by simp [State.readBytes]

@[simp] theorem State.keepPast_mem (s : State) (us : List (Nat × BitVec 8)) : (s.keepPast us).mem = s.mem := by
  unfold State.keepPast
  split <;> rfl

@[simp] theorem State.notify_mem (s : State) (u : Nat) : (s.notify u).mem = s.mem := by
  unfold State.notify
  split <;> rfl

theorem State.foldl_notify_mem (us : List Nat) : ∀ s : State, (us.foldl State.notify s).mem = s.mem := by
  induction us with
  | nil => intro s; rfl
  | cons u us ih => intro s; rw [List.foldl_cons, ih, State.notify_mem]

/-- A write changes its bytes and no other. -/
@[simp] theorem State.writeBytes_mem (s : State) (pa : Nat) (bs : List Byte) (p : Bool) : (s.writeBytes pa bs p).mem = memWrite s.mem pa bs := by
  simp [State.writeBytes, State.foldl_notify_mem]

/-- A store changes the bytes under its mask and no other. -/
@[simp] theorem State.perform_mem (s : State) (u : Nat) (data : Word) (mask : BitVec 8) (p : Bool) :
    (s.perform u data mask p).mem = mergeUnit s.mem u data mask := by
  unfold State.perform
  rw [State.notify_mem]
  dsimp only
  rw [State.keepPast_mem]
  split <;> simp

/-- Every memory operation keeps the canonical form. -/
theorem State.writeBytes_wf (s : State) (pa : Nat) (bs : List Byte) (p : Bool) (w : Memory.wf s.mem = true) :
    Memory.wf (s.writeBytes pa bs p).mem = true := by
  rw [State.writeBytes_mem]
  exact memWrite_wf bs pa w
theorem State.perform_wf (s : State) (u : Nat) (data : Word) (mask : BitVec 8) (p : Bool) (w : Memory.wf s.mem = true) :
    Memory.wf (s.perform u data mask p).mem = true := by
  rw [State.perform_mem]
  exact mergeUnit_wf u data mask w
theorem State.ringPut_wf (ps : List (List Byte)) : ∀ (s : State) (base size n k : Nat), Memory.wf s.mem = true →
    Memory.wf (s.ringPut base size n k ps).mem = true := by
  induction ps with
  | nil => intro s base size n k w; exact w
  | cons p ps ih => intro s base size n k w; exact ih _ base size n (k + 1) (s.writeBytes_wf _ p _ w)

end Sys2Proof.Machine
end

