-- ==== Sys2Proof/Laws/Issue.lean ====
section
/-! SUPPORT. What the operations shared by the meanings can do: the issue checks, the poison check, completion in sequence, and the current thread. -/

namespace Sys2Proof.Machine
open Sys2Proof

theorem lowest_none {rs : List GReg} : lowest rs = none ↔ rs = [] := by
  cases rs with
  | nil => simp [lowest]
  | cons r rs => simp only [lowest]; split <;> simp

theorem Thread.empties_nil (t : Thread) (rs : List GReg) : t.empties rs = [] ↔ ∀ r ∈ rs, (t.reg r).prod = none := by
  simp [Thread.empties, List.filter_eq_nil_iff, Reg.full]

theorem Thread.poisoned_nil (t : Thread) (rs : List GReg) : t.poisoned rs = [] ↔ ∀ r ∈ rs, (t.reg r).poison = false := by
  simp [Thread.poisoned, List.filter_eq_nil_iff, Thread.pois]

/-- An instruction whose registers are full and whose mode allows it reaches its own meaning. -/
theorem issue_ok {s : State} {t : Thread} (i : Instr) {priv : Bool} {srcs : List Src} {blocks dests : List GReg} {k : Thread → Out}
    (hm : s.me = some t) (hp : priv = false ∨ isFirmware s.cur.2 = true)
    (hf : ∀ r ∈ srcs.map (·.reg) ++ blocks ++ dests, (t.reg r).prod = none) :
    issue s i priv srcs blocks dests k = k t := by
  have h1 : (priv && !isFirmware s.cur.2) = false := by rcases hp with h | h <;> simp [h]
  have h2 : t.empties ((srcs.filter (·.trap)).map (·.reg)) = [] := by
    rw [Thread.empties_nil]
    intro r hr
    apply hf
    simp only [List.mem_map, List.mem_filter] at hr
    obtain ⟨x, ⟨hx, -⟩, rfl⟩ := hr
    exact List.mem_append_left _ (List.mem_append_left _ (List.mem_map_of_mem hx))
  have h3 : t.empties (srcs.map (·.reg) ++ blocks ++ dests) = [] := (Thread.empties_nil _ _).2 hf
  simp only [issue, hm, h1, h2, h3, lowest_none.2 rfl, Bool.false_eq_true, if_false]

/-- Everything the issue checks can do. -/
theorem issue_cases {s s' : State} {i : Instr} {priv : Bool} {srcs : List Src} {blocks dests : List GReg} {k : Thread → Out}
    (h : issue s i priv srcs blocks dests k = .next s') :
    ∃ t, s.me = some t ∧
      ((priv = true ∧ isFirmware s.cur.2 = false ∧ s' = s.stopFor s.cur.1 s.cur.2 t (t.before i.size Cause.priv (instrValue i))) ∨
       (∃ r : GReg, s' = s.stopFor s.cur.1 s.cur.2 t (t.before i.size Cause.emptyRead (r.zeroExtend 64))) ∨
       (∃ e, e ≠ [] ∧ s' = s.blockAt s.cur.1 s.cur.2 t (.regs e)) ∨
       ((priv = false ∨ isFirmware s.cur.2 = true) ∧ (∀ r ∈ srcs.map (·.reg) ++ blocks ++ dests, (t.reg r).prod = none) ∧ k t = .next s')) := by
  unfold issue at h
  split at h
  · cases h
  · rename_i t ht
    refine ⟨t, ht, ?_⟩
    split at h
    · rename_i hp
      simp only [Bool.and_eq_true, Bool.not_eq_true'] at hp
      exact .inl ⟨hp.1, hp.2, by simpa [trapBefore] using h.symm⟩
    · rename_i hp
      have hp' : priv = false ∨ isFirmware s.cur.2 = true := by
        cases priv <;> cases hb : isFirmware s.cur.2 <;> simp_all
      split at h
      · rename_i r _
        exact .inr (.inl ⟨r, by simpa [trapBefore] using h.symm⟩)
      · split at h
        · rename_i he
          exact .inr (.inr (.inr ⟨hp', (Thread.empties_nil _ _).1 he, h⟩))
        · rename_i hne
          exact .inr (.inr (.inl ⟨_, hne, by simpa [block] using h.symm⟩))

theorem poisonCheck_ok {s : State} {t : Thread} {i : Instr} {rs : List GReg} {k : Out} (h : ∀ r ∈ rs, (t.reg r).poison = false) :
    poisonCheck s t i rs k = k := by
  simp only [poisonCheck, (Thread.poisoned_nil t rs).2 h, lowest_none.2 rfl]

theorem poisonCheck_cases {s s' : State} {t : Thread} {i : Instr} {rs : List GReg} {k : Out} (h : poisonCheck s t i rs k = .next s') :
    (∃ r : GReg, s' = s.stopFor s.cur.1 s.cur.2 t (t.before i.size Cause.poison (r.zeroExtend 64))) ∨
    ((∀ r ∈ rs, (t.reg r).poison = false) ∧ k = .next s') := by
  unfold poisonCheck at h
  split at h
  · rename_i r _
    exact .inl ⟨r, by simpa [trapBefore] using h.symm⟩
  · rename_i he
    exact .inr ⟨(Thread.poisoned_nil t rs).1 (lowest_none.1 he), h⟩

/-! ### The current thread -/

theorem Tab.put_find_self {α : Type} : ∀ {t : Tab α} {k : Nat} {v : α}, Tab.find t k = some v → Tab.put t k v = t
  | [], _, _, h => by simp [Tab.find] at h
  | (j, x) :: t, k, v, h => by
    simp only [Tab.find] at h
    simp only [Tab.put]
    split at h
    · rename_i e
      subst e
      simp only [Option.some.injEq] at h
      subst h
      simp
    · rename_i e
      split at h
      · cases h
      · rename_i l
        simp only [l, if_false, e]
        rw [Tab.put_find_self h]

theorem Tab.put_get_self {α : Type} {d : α} : ∀ {t : Tab α} {k : Nat}, Tab.get d t k ≠ d → Tab.put t k (Tab.get d t k) = t
  | [], _, h => by simp [Tab.get] at h
  | (j, x) :: t, k, h => by
    simp only [Tab.get] at h ⊢
    simp only [Tab.put]
    split at h
    · rename_i e; subst e; simp
    · rename_i e
      split at h
      · exact absurd rfl h
      · rename_i l
        simp only [l, e, if_false]
        rw [Tab.put_get_self h]

/-- Writing back the current thread changes nothing. -/
theorem State.setThread_self {s : State} {k j : Nat} {t : Thread} (h : s.thread? k j = some t) : s.setThread k j t = s := by
  unfold State.setThread
  rw [Tab.put_find_self (by simpa [State.thread?] using h)]
  have hne : Tab.get Tile.reset s.tiles k ≠ Tile.reset := by
    intro c
    have h' : Tab.find (Tab.get Tile.reset s.tiles k).threads j = some t := h
    rw [c] at h'
    simp [Tile.reset, Tab.find] at h'
  have := Tab.put_get_self hne
  unfold State.setTile State.tile
  rw [this]

theorem State.setMe_self {s : State} {t : Thread} (h : s.me = some t) : s.setMe t = s := State.setThread_self h

/-- Completion in sequence away from the end of the innermost loop: the thread goes on, or takes the trap that it owes (R67, R243). -/
theorem State.retireAt_straight (s : State) (tile slot : Nat) (t : Thread) (n : Nat)
    (h : ∀ e rest, t.loops = e :: rest → t.pc + BitVec.ofNat 48 n ≠ e.endNext) :
    s.retireAt tile slot t n =
      s.settleOwed tile slot { t with pc := t.pc + BitVec.ofNat 48 n, icount := t.icount + 1, status := .ready, instr := none } := by
  simp only [State.retireAt, Thread.advance, Thread.counted]
  cases hl : t.loops with
  | nil => rfl
  | cons e rest =>
    simp only [h e rest hl, if_false]
    rfl

/-- A thread that owes no trap goes on. -/
theorem State.settleOwed_none (s : State) (tile slot : Nat) {t : Thread} (h : t.owed = none) : s.settleOwed tile slot t = s.setThread tile slot t := by
  simp only [State.settleOwed, h]

end Sys2Proof.Machine
end

