-- ==== Sys2Proof/Tests/Slice0.lean ====
section
/-! SUPPORT. Tests: ill-formed terms are refused, words of the spec decode, and each statement's premises are met by a concrete state. -/

namespace Sys2Proof.Tests
open Sys2Proof Sys2Proof.Machine Sys2Proof.Spec

/-! ### Ill-formed terms, one for each check of Instr.wf -/

theorem test_wf_bitfield : (Instr.ext 1 ⟨2, false⟩ 60 4).wf = false ∧ (Instr.ins 1 ⟨2, false⟩ 63 1).wf = false := by decide
theorem test_wf_fcvt : (Instr.fcvt .bf2f .rtz 1 ⟨2, false⟩).wf = false := by decide
theorem test_wf_fadd_doubleword : (Instr.amo .fadd .d .plain 1 ⟨2, false⟩ ⟨3, false⟩).wf = false ∧ (Instr.ramoW false .fadd .dflt .d 1 2 3 0).wf = false ∧
    (Instr.ramoL false .fadd .dflt .d 1 2 3 0).wf = false := by decide
theorem test_wf_zero_counts : (Instr.loop 0 0 0 ⟨1, false⟩).wf = false ∧ (Instr.loopn 0 0 0 ⟨1, false⟩).wf = false ∧ (Instr.align 0).wf = false ∧
    (Instr.barr 1 ⟨2, false⟩ 0).wf = false := by decide
theorem test_wf_fence_mask : (Instr.fence .die 1 1).wf = false ∧ (Instr.fence .dev 1 4).wf = false := by decide
theorem test_wf_control_number : (Instr.rdctl 1 0x0012).wf = false ∧ (Instr.wrctl 0x00C6 ⟨1, false⟩).wf = false := by decide
theorem test_wf_modifiers : (Instr.vadd ⟨0, 0⟩ ⟨1, 0⟩ ⟨2, 0⟩ (.rot 10 0) .none).wf = false ∧ (Instr.vadd ⟨0, 0⟩ ⟨1, 0⟩ ⟨2, 0⟩ .none (.bfly 3 3)).wf = false ∧
    (Instr.vabs ⟨0, 0⟩ ⟨1, 0⟩ (.bcast 2 4)).wf = false ∧ (Instr.vst false 1 0 ⟨0, 0⟩ (.rot 0 0)).wf = false := by decide
theorem test_wf_wld : (Instr.wld false .bf16 false 1 1 0).wf = false ∧ (Instr.wld false .e4m3 false 1 0 1).wf = false ∧
    (Instr.wld false .int3 false 1 4033 0).wf = false := by decide
theorem test_wf_mma : (Instr.mma false .fp4 false 0 1 none 0 1 0 0).wf = false ∧ (Instr.mma false .bf16 false 0 1 none 0 4 0 0).wf = false ∧
    (Instr.mma false .e4m3 false 0 1 none 0 0 1 0).wf = false ∧ (Instr.mma false .bf16 false 0 1 none 1 0 0 0).wf = false := by decide
theorem test_wf_unused_te : (Instr.cheW true false 0 none 0).wf = false ∧ (Instr.cheL true false 0 none 0 0).wf = false ∧
    (Instr.li false true 1 0).wf = false := by decide
theorem test_wf_event : Instr.wf .irqRecordWrite = false := by decide

/-! ### Words of the spec's encodings -/

theorem test_decode_integer : decodeTableWord 32 0x00621404 = some (.add 4 ⟨1, false⟩ ⟨2, true⟩) ∧ decodeTableWord 32 0x01421604 = some (.mulhu 6 ⟨1, false⟩ ⟨2, false⟩) ∧
    decodeTableWord 32 0xFF802214 = some (.andi 2 ⟨2, false⟩ 0x7FC0) ∧ decodeTableWord 32 0x000E2218 = some (.ori 2 ⟨2, false⟩ 7) ∧
    decodeTableWord 32 0x03987430 = some (.ext 4 ⟨7, false⟩ 12 7) ∧ decodeTableWord 32 0x01907434 = some (.ins 4 ⟨7, false⟩ 8 3) ∧
    decodeTableWord 32 0x01C2140C = some (.sel 4 ⟨7, false⟩ ⟨1, false⟩ ⟨2, false⟩) := by decide
theorem test_decode_float : decodeTableWord 32 0x10021438 = some (.fadd .rne 4 ⟨1, false⟩ ⟨2, false⟩) ∧
    decodeTableWord 32 0x80821538 = some (.fset .lt 5 ⟨1, false⟩ ⟨2, false⟩) ∧ decodeTableWord 32 0x71001438 = some (.fcvt .f2e4 .rne 4 ⟨1, false⟩) := by decide
theorem test_decode_control : decodeTableWord 32 0xFFFFFF84 = some (.jmp 0xFFFFFF) ∧ decodeTableWord 32 0x00001088 = some (.jal 0x10) ∧
    decodeTableWord 32 0x000000A0 = some .nop ∧ decodeTableWord 32 0x1C406394 = some (.loop 1 49 3 ⟨3, false⟩) ∧ decodeTableWord 32 0x000A00A4 = some (.trap 5) ∧
    decodeTableWord 32 0x000000A5 = some .wfe ∧ decodeTableWord 32 0x00000011 = some .yield := by decide
theorem test_decode_system : decodeTableWord 32 0x00000091 = some .eret ∧ decodeTableWord 32 0x00406099 = some (.tlbinvAll ⟨6, false⟩) ∧
    decodeTableWord 32 0x0000629D = some (.ctxsave 2 ⟨6, false⟩) ∧ decodeTableWord 32 0x000063A1 = some (.ctxload 3 ⟨6, false⟩) ∧
    decodeTableWord 32 0x00005495 = some (.capr 4 ⟨5, false⟩) ∧ decodeTableWord 32 0x00400389 = some (.rdctl 3 0x10) := by decide
theorem test_decode_barriers_handles : decodeTableWord 32 0x0002636D = some (.binit ⟨6, false⟩ ⟨2, false⟩ 3) ∧ decodeTableWord 32 0x01406871 = some (.barr 8 ⟨6, false⟩ 5) ∧
    decodeTableWord 32 0x04006979 = some (.bwait 9 ⟨6, false⟩ ⟨0, false⟩ 16) ∧ decodeTableWord 32 0x00075631 = some (.invokeh 6 ⟨5, false⟩ ⟨7, false⟩) ∧
    decodeTableWord 32 0x00006939 = some (.hget 9 ⟨6, false⟩) := by decide
theorem test_decode_wide : decodeTableWord 64 0x0000A82454034406 = some (.vadd ⟨3, 17⟩ ⟨2, 0⟩ ⟨1, 5⟩ (.rot 5 1) .none) ∧
    decodeTableWord 64 0x029A020050200212 = some (.rwimW false .o .d 4 5 0x10 0x14) ∧
    decodeTableWord 96 0x0005000100C007E00000011F = some (.mma false .e4m3 false 63 0 none 0x60 1 0 5) := by decide

/-! ### Premises met: each statement's hypotheses hold together in a small state. The state after an access is its first component. -/

/-- A user thread of context 5 in slot 5 of tile 0. -/
def t0 : Thread := { Thread.fresh 0x4000000100 5 4 0 with inst := 1 }
/-- A live device whose SRAM of tile 0 is mapped at its own addresses for context 5, with a thread in a slot of tile 0 that runs. -/
def onSlot (slot : Nat) (t : Thread) : State :=
  { State.reset with
    cur := (0, slot), boot := { Boot.reset with phase := .running }, ctxs := [(5, { Context.reset with state := .live })],
    tiles := [(0, { Tile.reset with threads := [(slot, t)], insts := [(slot, 1)], tlb := [⟨5, 0x4000000000, 0x200000, .mem 0x4000000000 true true true, 0, false, 0⟩] })] }
abbrev on (t : Thread) : State := onSlot 5 t
/-- A register set, and a register poisoned. -/
abbrev with1 (v : Word) : Thread := t0.write 1 v false
abbrev bad1 (v : Word) : Thread := t0.write 1 v true
/-- A result as data that can be compared. -/
def sum {α β : Type} : Except α β → α ⊕ β
  | .error e => .inl e
  | .ok x => .inr x
/-- What an access of the thread gives: a cause, or the physical address. -/
abbrev gives (s : State) (t : Thread) (k : Access3) (va : Word) : BitVec 8 ⊕ Nat := sum (s.access (s.who t) k false va).2

abbrev rem1 : Thread := with1 0x5000000008
def anAccess (n : Nat) : Access := ⟨n, true, 5, 1, some 2, 7, 2, none, 0, 0, false, ⟨⟨7, 0, 0, 0, 5, 2, 0, 0, 3, 1, 1, 0, 0, 0, 0, 0, 0⟩, 5, n, 0, 0, 0, 12, false, .load 0 .d⟩, n, false⟩
/-- Firmware in slot 254, beside a user thread stopped by a trap. -/
def stopped : Thread := { t0 with status := .stopped { cause := Cause.soft, kind := 1, value := 7, pc := 0x4000000100, loop := 0, resume := 0x4000000104, skip := 0x4000000104, popLoop := false, lost := [], written := true } }
theorem runs_t0 : Runs (on t0) t0 ∧ Full t0 [0, 1, 2, 3, 4, 5, 15] ∧ Clean t0 [0, 1, 2, 3, 4, 5, 15] := by decide
theorem witness_IntegerBinary : Runs (on t0) t0 ∧ Full t0 [1, 2, 3] := by decide
theorem witness_IntegerUnary : Runs (on t0) t0 ∧ Full t0 [1, 2] := by decide
theorem witness_SelectSetLiteral : Runs (on t0) t0 ∧ Full t0 [4, 1, 2, 3] := by decide
theorem witness_InsertField : (Instr.ins 4 ⟨7, false⟩ 60 3).wf = true ∧ (fld (0x34 + 60 * 2 ^ 17 + 4 * 2 ^ 23) 0 8 = 0x34 ∧ 64 < fld (0x34 + 60 * 2 ^ 17 + 4 * 2 ^ 23) 17 6 + (fld (0x34 + 60 * 2 ^ 17 + 4 * 2 ^ 23) 23 6 + 1)) ∧
    (Runs (on t0) t0 ∧ Full t0 [7, 4] ∧ (60 : BitVec 6).toNat + ((3 : BitVec 6).toNat + 1) ≤ 64) ∧
    (let u := t0.markEmpty 4 .recv; Runs (on u) u ∧ Full u [7] ∧ (u.reg 4).prod ≠ none) := by decide
theorem witness_FloatingScalar : Runs (on t0) t0 ∧ Full t0 [1, 2, 3] := by decide
theorem witness_FloatCorners : (Fp.dec32 0x7FC00000).isNan = true ∧ (Fp.dec32 0x7F800001).isSig = true ∧ (Fp.dec32 0x80000000).isNan = false := by decide

/-- A load of a word: misaligned, not mapped, mapped, with a poisoned address, behind a store that covers it and one that does not. -/
def stored (n : Nat) (unit : Nat) (data : Word) (mask : BitVec 8) (rel : Option Scope) : FifoEntry :=
  ⟨n, 5, 5, (0x4000000000, 0x200000), unit, data, mask, false, rel, none⟩
def behind (mask : BitVec 8) : State :=
  (on (with1 0x4000001000)).setTile 0 { (on (with1 0x4000001000)).tile 0 with fifo := [stored 0 0x4000001000 7 mask none] }
/-- The device in a cycle, with a page of tile 1 mapped for the thread. -/
def far (cycle : Nat) (t : Thread) : State :=
  { (on t).setTile 0 { (on t).tile 0 with tlb := [⟨5, 0x4000200000, 0x200000, .mem 0x4000200000 true true true, 0, false, 0⟩] } with cycle }
abbrev far1 : Thread := with1 0x4000200008
abbrev at1 : Thread := with1 0x4000001000
theorem witness_Loads : loadForm (.ldd 2 ⟨1, false⟩ 0) = some (.d, 2, ⟨1, false⟩, 0) ∧ Runs (on (with1 0x4000001000)) (with1 0x4000001000) ∧ Full (with1 0x4000001000) [1, 2] ∧
    (0x4000001004 : Word).toNat % 8 ≠ 0 ∧ (0x4000001000 : Word).toNat % 8 = 0 ∧ gives (on (with1 0x4000200000)) (with1 0x4000200000) .read 0x4000200000 = .inl Cause.prot ∧
    gives (on (with1 0x40001FFFF8)) (with1 0x40001FFFF8) .read 0x40001FFFF8 = .inr 0x40001FFFF8 ∧ (bad1 0x4000001000).pois 1 = true ∧
    (behind 0x0F).forward 0 5 0x4000001000 8 = .wait ∧ (behind 0xFF).forward 0 5 0x4000001000 8 = .value 7 false ∧ (behind 0xFF).forward 0 5 0x4000001008 8 = .bank ∧
    paTile 0x4000001008 = 0 := by decide
theorem witness_Loads_far : Runs (far 6 far1) far1 ∧ gives (far 6 far1) far1 .read 0x4000200008 = .inr 0x4000200008 ∧ paTile 0x4000200008 ≠ 0 ∧
    (far 6 far1).forward 0 5 0x4000200008 8 = .bank := by decide
theorem serves_now (s : State) (own : Prop) (k : Nat) (h : (own ∧ s.cycle % 8 = 2) ∨ (¬own ∧ s.cycle % 8 = 6)) (u : s.slotUsed k = false) (e : s.bank k = []) : SlotServes s own k :=
  ⟨h, u, fun r hr => by rw [e] at hr; exact absurd hr List.not_mem_nil⟩
theorem serves_never (s : State) (own : Prop) (k : Nat) (h : s.cycle % 8 ≠ 2 ∧ s.cycle % 8 ≠ 6) : ¬SlotServes s own k :=
  fun x => x.1.elim (fun y => h.1 y.2) (fun y => h.2 y.2)
/-- A read of the own tile is served in the sequencer's slot, one of another tile in the mesh-in slot, and neither in a third. -/
theorem witness_Loads_slots : ServesRead (far 2 at1) 0x4000001000 ∧ ServesRead (far 6 far1) 0x4000200008 ∧ ¬ServesRead (far 6 at1) 0x4000001000 ∧ ¬ServesRead (far 5 far1) 0x4000200008 :=
  ⟨serves_now _ _ _ (.inl ⟨rfl, rfl⟩) (by decide) (by decide), serves_now _ _ _ (.inr ⟨by decide, rfl⟩) (by decide) (by decide),
    fun h => h.1.elim (fun x => absurd x.2 (by decide)) (fun x => x.1 rfl), serves_never _ _ _ (by decide)⟩
theorem witness_Loads_sound : (∀ f ∈ (on t0).flaws, ∀ u ∈ unitsOf 0x4000001000 8, f.at u = false) := nofun
theorem witness_Loads_forwarding : (0x4000001000 % 8 + 8 ≤ 8) ∧ (∃ b ∈ ({ on t0 with bridge := [⟨0, stored 0 0x4000001000 7 0xFF none⟩] } : State).bridge, b.entry.unit = 0x4000001000) ∧
    (behind 0x0F).bridge = [] ∧ ((behind 0x0F).tile 0).fifo = [] ++ stored 0 0x4000001000 7 0x0F none :: [] ∧ (stored 0 0x4000001000 7 0x0F none).slot = 5 ∧
    (∃ k < 8, (0x0F : BitVec 8).getLsbD (0 + k) = false) ∧ (∀ k < 8, (0xFF : BitVec 8).getLsbD (0 + k) = true) ∧ ((on t0).tile 0).fifo = [] := by decide

/-- The device with a FIFO, and a store of the thread that waits. -/
def fifo (es : List FifoEntry) (t : Thread) : State := (on t).setTile 0 { (on t).tile 0 with fifo := es }
def entry (n : Nat) (rel : Option Scope) : FifoEntry := stored n (0x4000001000 + 8 * n) 7 0x0F rel
theorem witness_StoreIssue : (0x4000001000 % 8 + 8 ≤ 8 ∧ 0x4000001007 % 8 + 1 ≤ 8) ∧ storeForm (.stRel .d .dev ⟨1, false⟩ ⟨2, false⟩ 1) = some (8, ⟨1, false⟩, ⟨2, false⟩, 8, some .dev) ∧
    Runs (on at1) at1 ∧ Full at1 [1, 2] ∧ gives (on at1) at1 .write 0x4000001008 = .inr 0x4000001008 ∧ (on at1).fifoRoom 0 5 (at1.since (on at1)) = true ∧
    (fifo ((List.range 8).map fun n => entry n none) at1).fifoRoom 0 5 0 = false ∧ (fifo ((List.range 7).map fun n => entry n none) at1).fifoRoom 0 5 0 = true := by decide
/-- A store to tile 1, and one to another die. -/
def toTile1 : FifoEntry := stored 2 0x4000200008 7 0xFF none
def toDie1 : FifoEntry := stored 3 (0x4000000000 + 512 * 2 ^ 21) 7 0xFF none
theorem witness_StorePerform : (let s := fifo [entry 0 none] t0; (s.tile 0).fifo = [entry 0 none] ∧ Memory.wf s.mem = true ∧ s.headHeld 0 (entry 0 none) = false ∧ paTile (entry 0 none).unit = 0 ∧
      dieOf (paTile (entry 0 none).unit) = dieOf 0 ∧ s.mergeFails (entry 0 none) = false ∧ s.flaws = [] ∧ ({ s with flaws := [.sramUe 0x4000001000 1] } : State).mergeFails (entry 0 none) = true) ∧
    (let s : State := { fifo [entry 1 (some .dev)] t0 with bridge := [⟨0, entry 0 none⟩] }; s.headHeld 0 (entry 1 (some .dev)) = true) ∧
    (let s := fifo [toTile1] t0; s.headHeld 0 toTile1 = false ∧ dieOf (paTile toTile1.unit) = dieOf 0 ∧ paTile toTile1.unit ≠ 0 ∧ s.storeQueued toTile1 = false ∧ toTile1.mask = 0xFF ∧ (s.setBank (bankOf toTile1.unit) [.store 0 2]).storeQueued toTile1 = true ∧
      ({ s with flaws := [.sramUe 0x4000200008 1] } : State).mergeFails { toTile1 with mask := 0x0F } = true) ∧
    (fifo [toDie1] t0).headHeld 0 toDie1 = false ∧ dieOf (paTile toDie1.unit) ≠ dieOf 0 := by decide
theorem witness_StorePerform_bridge : (let s : State := { on t0 with bridge := [⟨0, toDie1⟩] }
    s.bridgeHead 0 (bankOf toDie1.unit) = some ⟨0, toDie1⟩ ∧ s.bridgeLoss ⟨0, toDie1⟩ = none ∧ Memory.wf s.mem = true ∧
      ({ s with flaws := [.bridgeLost toDie1.unit 1] } : State).bridgeLoss ⟨0, toDie1⟩ ≠ none ∧ s.thread? 0 toDie1.slot = some t0 ∧ s.storeQueued toDie1 = false) := by decide
/-- A store of the own tile is performed in the sequencer's slot, one to another tile or die in the mesh-in slot, and they wait in the others. -/
theorem witness_StorePerform_slots : SlotServes { fifo [entry 0 none] t0 with cycle := 2 } (paTile (entry 0 none).unit = 0) (bankOf (entry 0 none).unit) ∧
    SlotServes { fifo [toTile1] t0 with cycle := 6 } (paTile toTile1.unit = 0) (bankOf toTile1.unit) ∧
    SlotServes { on t0 with bridge := [⟨0, toDie1⟩], cycle := 6 } (paTile toDie1.unit = 0) (bankOf toDie1.unit) ∧
    ¬SlotServes (fifo [entry 0 none] t0) (paTile (entry 0 none).unit = 0) (bankOf (entry 0 none).unit) :=
  ⟨serves_now _ _ _ (.inl ⟨rfl, rfl⟩) (by decide) (by decide), serves_now _ _ _ (.inr ⟨by decide, rfl⟩) (by decide) (by decide),
    serves_now _ _ _ (.inr ⟨by decide, rfl⟩) (by decide) (by decide), serves_never _ _ _ (by decide)⟩
/-- Whether a contender passes. -/
def goes : Decision → Bool
  | .go _ => true
  | _ => false
/-- The device in the cycle of the mesh-in slots, with context 5 in a mode of the order log. -/
def slotNow (mode : BitVec 2) (t : Thread) : State := { (on t).setCtx 5 { (on t).ctx 5 with mode } with cycle := 6 }
/-- Whether a contender is held. -/
def holds (d : Decision) : Bool := match d with
  | .hold _ => true
  | _ => false
theorem witness_AtomicOps : Runs (on at1) at1 ∧ Full at1 [1, 2, 3] ∧ gives (on at1) at1 .both 0x4000001000 = .inr 0x4000001000 ∧ (on at1).unitClear 0 5 0x4000001000 = true ∧
    (AtOrder.rel .dev).release = some .dev ∧ (on at1).released 0 5 .dev = true ∧ (fifo [entry 1 none] at1).released 0 5 .dev = false ∧
    (fifo [entry 0 none] at1).unitClear 0 5 0x4000001000 = false ∧
    goes ((slotNow 0 at1).decideAt 5 1 (unitSite 0x4000001000) (at1.contender (0, 5))) = true ∧ holds ((slotNow 2 at1).decideAt 5 1 (unitSite 0x4000001000) (at1.contender (0, 5))) = true ∧
    Memory.wf (on at1).mem = true ∧ 0x4000001004 % AtSize.w.bytes = 0 := by decide
theorem witness_AtomicOps_slot : SlotServes (slotNow 0 at1) False (bankOf 0x4000001000) ∧ ¬SlotServes (on at1) False (bankOf 0x4000001000) :=
  ⟨serves_now _ _ _ (.inr ⟨id, rfl⟩) (by decide) (by decide), serves_never _ _ _ (by decide)⟩
theorem witness_AtomicOps_effects : ((slotNow 0 at1).bankCas .d 0x4000001000 1 2 true).old ≠ (1 : Word).toNat % 2 ^ 64 ∧ ((slotNow 0 at1).bankCas .d 0x4000001000 0 2 true).poisoned = false ∧
    ([0x4000001000, 0x4000001008] : List Nat).Pairwise (· < ·) ∧ (∀ f ∈ (on at1).flaws, f.at 0x4000001000 = false) ∧
    (∃ syn, Flaw.sramUe 0x4000001000 syn ∈ ({ on at1 with flaws := [.sramUe 0x4000001000 3] } : State).flaws) :=
  ⟨by decide, by decide, by decide, by decide, ⟨3, by decide⟩⟩
theorem witness_AtomicOps_translation : (2 ^ 48 ≤ (0x1000000000000 : Word).toNat) ∧ (tlbFind 5 0x4000001000 ((on at1).tile 0).tlb).isSome = true ∧ (on at1).sramOn 0x4000001000 = true ∧
    Access3.read.allowed true true true = true ∧ Access3.read.allowed true true false = false := by decide
theorem witness_ControlTransfer : Runs (on t0) t0 ∧ Full t0 [1, 2, 15] ∧ Clean t0 [1, 2] ∧ IntCond.holds .eq (t0.val 1) (t0.val 2) = true ∧ IntCond.holds .ne (t0.val 1) (t0.val 2) = false ∧
    (bad1 0).pois 1 = true ∧ (bad1 0).pois 2 = false ∧ (with1 2).val 1 % 4 ≠ 0 ∧ t0.rets.length < 4 ∧ t0.spill.toNat < 2 ^ 48 ∧ ({ t0 with rets := [4] } : Thread).rets.getLast? = some 4 := by decide
/-- A thread whose return stack is full, or empty, with its spill register. -/
def stacked (rets : List Pc) (spill : Word) (t : Thread) : Thread := { t with rets, spill }
abbrev four : List Pc := [4, 8, 12, 16]
theorem witness_ControlTransfer_spill : (let u := stacked four 0x4000002000 t0
     Runs (on u) u ∧ u.rets = 4 :: [8, 12, 16] ∧ 3 ≤ u.rets.tail.length ∧ u.spill.toNat / 2 ^ 48 ≠ 0xFFFF ∧
     gives (on u) u .write (BitVec.ofNat 64 (u.spill.toNat % 2 ^ 48 / 8 * 8)) = .inr 0x4000002000 ∧ (on u).fifoRoom 0 5 (u.since (on u)) = true ∧
     (fifo ((List.range 8).map fun n => entry n none) u).fifoRoom 0 5 0 = false) ∧
    (let u := stacked four 0xFFFF000000000000 t0; 4 ≤ u.rets.length ∧ u.spill.toNat / 2 ^ 48 = 0xFFFF) ∧
    (let u := stacked four 0x5000000000 t0; u.spill.toNat / 2 ^ 48 ≠ 0xFFFF ∧ gives (on u) u .write (BitVec.ofNat 64 (u.spill.toNat % 2 ^ 48 / 8 * 8)) = .inl Cause.prot) ∧
    (let u := stacked four 0x4000002000 (bad1 0); (u.val 1).toNat % 4 = 0 ∧ u.pois 1 = true ∧ gives (on u) u .write (BitVec.ofNat 64 (u.spill.toNat % 2 ^ 48 / 8 * 8)) = .inr 0x4000002000) := by decide
/-- The slot that a RET reads. -/
abbrev refillAt (t : Thread) : Word := BitVec.ofNat 64 (t.spill.toNat % 2 ^ 48 / 8 * 8) - 8
theorem witness_ControlTransfer_refill : (let u := stacked [] 0x0001004000002008 t0
     u.rets = [] ∧ 2 ^ 48 ≤ u.spill.toNat ∧ gives (on u) u .read (refillAt u) = .inr 0x4000002000 ∧ paTile 0x4000002000 = 0 ∧ (on u).forward 0 5 0x4000002000 8 = .bank ∧
     ((on u).readBytes 0x4000002000 8).2.2 = false ∧ (({ on u with poison := [0x4000002000] } : State).readBytes 0x4000002000 8).2.2 = true ∧
     (fifo [stored 0 0x4000002000 7 0xFF none] u).forward 0 5 0x4000002000 8 = .value 7 false ∧ (fifo [stored 0 0x4000002000 7 0x0F none] u).forward 0 5 0x4000002000 8 = .wait) ∧
    (let u := stacked [] 0x0001005000000008 t0; gives (on u) u .read (refillAt u) = .inl Cause.prot) ∧
    (let u := stacked [] 0x0001004000200010 t0
     gives (far 6 u) u .read (refillAt u) = .inr 0x4000200008 ∧ (far 6 u).forward 0 5 0x4000200008 8 = .bank) := by decide
theorem witness_ControlTransfer_slots : (let u := stacked [] 0x0001004000002008 t0; ServesRead (far 2 u) 0x4000002000 ∧ ¬ServesRead (far 6 u) 0x4000002000) ∧
    (let u := stacked [] 0x0001004000200010 t0; ServesRead (far 6 u) 0x4000200008 ∧ ¬ServesRead (far 5 u) 0x4000200008) :=
  ⟨⟨serves_now _ _ _ (.inl ⟨rfl, rfl⟩) (by decide) (by decide), fun h => h.1.elim (fun x => absurd x.2 (by decide)) (fun x => x.1 rfl)⟩,
    serves_now _ _ _ (.inr ⟨by decide, rfl⟩) (by decide) (by decide), serves_never _ _ _ (by decide)⟩
/-- A loop of a number of trips in the thread, at whose end the next instruction stands. -/
def loopAt (loopn : Bool) (trips max n : Nat) (gc : Src) : LoopEntry := ⟨loopn, 0x4000000100, 0x4000000104, 0x40000000FC, trips, max, n, gc⟩
def inLoops (es : List LoopEntry) (t : Thread) : Thread := { t with loops := es }
theorem witness_Loops : Runs (on (with1 3)) (with1 3) ∧ Full (with1 3) [1] ∧ ((with1 3).val 1).toNat ≠ 0 ∧ (with1 3).loops.length < 2 ∧ (with1 3).pois 1 = false ∧
    2 ≤ (inLoops [loopAt false 0 9 2 ⟨1, false⟩, loopAt false 0 9 2 ⟨1, false⟩] t0).loops.length ∧ t0.owed = none ∧
    t0.pc + BitVec.ofNat 48 4 = (loopAt false 0 9 2 ⟨1, false⟩).endNext ∧ decide (0 + 1 < 2) = true ∧ 0 + 1 ≠ 9 ∧ 8 + 1 = 9 ∧ decide (1 + 1 < 2) = false ∧
    ((t0.markEmpty 1 .recv).reg 1).prod ≠ none ∧ (loopAt true 0 9 0 ⟨1, true⟩).gc.trap = true ∧ (loopAt true 0 9 0 ⟨1, false⟩).gc.trap = false ∧
    (bad1 1).pois 1 = true ∧ ((bad1 1).reg 1).prod = none ∧ decide ((with1 1).val 1 ≠ 0) = true ∧ decide ((with1 0).val 1 ≠ 0) = false := by decide
theorem witness_SoftTrap : Runs (on t0) t0 ∧ t0.loops = [] ∧ (1 : BitVec 9) ≠ 0 ∧ (loopAt false 0 9 2 ⟨1, false⟩).trips + 1 < 2 ∧ (2 : Nat) ≤ (loopAt false 1 9 2 ⟨1, false⟩).trips + 1 ∧
    (on t0).trapRoom 5 1 = false ∧ Memory.wf (on t0).mem = true ∧ (let u := inLoops [loopAt true 0 9 0 ⟨1, true⟩] (t0.markEmpty 1 .recv); Runs (on u) u ∧ (u.reg 1).prod ≠ none) := by decide
/-- A tile whose user slots are taken. -/
def threadsFrom : Nat → Nat → Tab Thread
  | 0, _ => []
  | n + 1, k => (k, t0) :: threadsFrom n (k + 1)
def fullTile : State := (on t0).setTile 0 { (on t0).tile 0 with threads := threadsFrom 248 0 }
theorem find_threadsFrom : ∀ (n k j : Nat), k ≤ j → j < k + n → Tab.find (threadsFrom n k) j = some t0
  | 0, k, j, h1, h2 => by omega
  | n + 1, k, j, h1, h2 => by
    by_cases h : j = k
    · simp [threadsFrom, Tab.find, h]
    · simp only [threadsFrom, Tab.find, if_neg h, if_neg (show ¬j < k by omega)]
      exact find_threadsFrom n (k + 1) j (by omega) (by omega)
theorem fullTile_full : ∀ k < 248, fullTile.thread? 0 k = some t0 := fun k h => find_threadsFrom 248 0 k (Nat.zero_le k) (by omega)
theorem witness_SpawnThread : (on t0).tileOn 0 = true ∧ (on t0).tileOn 384 = false ∧ (0x4000000100 : Word).toNat % 4 = 0 ∧
    ((on t0).thread? 0 0 = none) ∧
    (let w : Word := 0
     Runs (on (with1 w)) (with1 w) ∧ Full (with1 w) [1, 2, 0, 1, 2, 3, 4] ∧ Clean (with1 w) [1, 2] ∧ w.toNat < 2 ^ 23 ∧ w.getLsbD 22 = false ∧ w.extractLsb' 11 11 = (0 : BitVec 11)) ∧
    (on t0).released 0 5 .die = true ∧ (fifo [entry 0 none] t0).released 0 5 .die = false ∧
    (let w : Word := 2 ^ 22 + 7 * 2 ^ 11; w.toNat < 2 ^ 23 ∧ w.getLsbD 22 = true ∧ w.extractLsb' 11 11 ≠ (on t0).fabSelf ∧ (on t0).reach (w.extractLsb' 11 11) = false ∧
      ({ on t0 with routes := [(7, (true, 1))] } : State).reach (w.extractLsb' 11 11) = true) ∧ (on t0).released 0 5 .dom = true ∧ (fifo [entry 0 none] t0).released 0 5 .dom = false ∧
    ¬(2 ^ 23 : Word).toNat < 2 ^ 23 ∧ (let w : Word := 7 * 2 ^ 11; w.getLsbD 22 = false ∧ w.extractLsb' 11 11 ≠ (0 : BitVec 11)) := by decide
theorem witness_SpawnThread_poisoned : (bad1 0).pois 1 = true ∧ (∀ q ∈ [(1 : GReg), 2], (bad1 0).pois q = true → 1 ≤ q) ∧ Full (bad1 0) [1, 2, 0, 1, 2, 3, 4] ∧ Runs (on (bad1 0)) (bad1 0) := by decide
theorem witness_SpawnThread_full : ∀ k < 248, (fullTile.thread? 0 k).isSome := fun k h => by rw [fullTile_full k h]; rfl

theorem witness_JoinAndQuit : Runs (on t0) t0 ∧ Full t0 [1] ∧
    (let w : Word := 0x0000001140000006 -- instance 1 of slot 6 of tile 0, context 5
     w.toNat / 2 ^ 8 % 2048 = 0 ∧ w.extractLsb' 19 11 = (on t0).fabSelf ∧ w.extractLsb' 30 6 = t0.ctx ∧ w.toNat % 256 ≠ 5 ∧
      (on t0).thread? 0 6 = none ∧ ((on t0).setThread 0 6 t0).thread? 0 6 = some t0 ∧ t0.inst = w.extractLsb' 36 8) ∧
    (0x0000001000000006 : Word).extractLsb' 30 6 ≠ t0.ctx ∧ ((on t0).lfree 0 5 t0).2 = none ∧ ((on t0).cluster 0).tilesFree ((on t0).owned 0 5 t0) = true ∧
    ((on t0).withdrawAll 0 5 t0).fifoOf 0 5 = [] ∧ (fifo [entry 0 none] t0).fifoOf 0 5 ≠ [] := by decide
/-- A millstone with an innings of the thread and an open chain, and one on whose tile 3 a command is pending. -/
def lease5 : Lease := ⟨0, 5, 1, 5, 0, 0, 2, 8, 0, 8, 100⟩
def leased (chain : Option Chain) : State :=
  (on t0).setCluster 0 { (on t0).cluster 0 with innings := some lease5, chain }
def aChain (issued expect : Nat) : Chain := ⟨1, 0x4000000080, expect, issued, none, 127, false, 0, 0⟩
def pendingTile : State :=
  let c := (on t0).cluster 0
  (on t0).setCluster 0 { c.setTile 3 ⟨some (0, 5, 1), .fp32, [], 0⟩ with queue := [⟨.asave 3 [] 0, (on t0).who t0, false, []⟩] }
theorem witness_JoinAndQuit_units : ((leased (some (aChain 0 1))).lfree 0 5 t0).2 = some 0x4000000080 ∧ (pendingTile.lfree 0 5 t0).2 = none ∧
    pendingTile.owned 0 5 t0 = [3] ∧ (pendingTile.cluster 0).tilesFree [3] = false := by decide
theorem witness_Migrate : Runs (on at1) at1 ∧ Full at1 [1] ∧ (on at1).settled 0 5 at1 = true ∧ (fifo [entry 0 none] at1).settled 0 5 at1 = false ∧
    gives (on at1) at1 .read 0x4000001000 = .inr 0x4000001000 ∧ gives (on rem1) rem1 .read 0x5000000008 = .inl Cause.prot ∧ (bad1 0x4000001000).pois 1 = true ∧
    paTile 0x4000001000 = 0 ∧ gives (far 0 far1) far1 .read 0x4000200008 = .inr 0x4000200008 ∧ paTile 0x4000200008 ≠ 0 ∧ (on at1).owned 0 5 at1 = [] ∧
    pendingTile.owned 0 5 t0 ≠ [] ∧ clusterOf (paTile 0x4000800000) ≠ clusterOf 0 ∧
    (let u : Thread := { t0 with status := .blocked (.moving 1) 0 0 }
     (on u).thread? 0 5 = some u ∧ (on u).freeSlot 1 = some 0 ∧ u.handle = none ∧ ({ u with handle := some 1 } : Thread).handle = some 1) := by decide
theorem leastBelow_none (p : Nat → Bool) : ∀ (n k : Nat), (∀ j, k ≤ j → j < k + n → p j = false) → leastBelow p k n = none
  | 0, _, _ => rfl
  | n + 1, k, h => by
    rw [leastBelow, h k (Nat.le_refl k) (by omega)]
    exact leastBelow_none p n (k + 1) fun j h1 h2 => h j (by omega) (by omega)
theorem witness_Migrate_full : fullTile.freeSlot 0 = none :=
  leastBelow_none _ 248 0 fun j _ h => by rw [fullTile_full j (by omega)]; rfl
/-- A launch of one task in one crew at tile 0's cluster, without events. -/
def launch1 : Launch := ⟨[0x4000000000, 0, 0, 0, 0, 0x10001, 0, 0, 0, 0, 0, 0, 0, 0, 0, 0], 0, 0, none, 0, none⟩
def ringCtx (target : BitVec 32) : State := (on t0).setCtx 5 { (on t0).ctx 5 with admitBase := 0x4000004000, target }
def queued : State := { (on t0).setCtx 5 { (on t0).ctx 5 with queue := [launch1] } with cycle := 1 }
theorem witness_Launches : Runs (on at1) at1 ∧ Full at1 [1, 2] ∧ (0x4000001000 : Word).toNat % 64 = 0 ∧ (0x4000001020 : Word).toNat % 64 ≠ 0 ∧
    gives (on at1) at1 .read 0x4000001000 = .inr 0x4000001000 ∧ gives (on at1) at1 .read (0x4000001000 + 64) = .inr 0x4000001040 ∧ gives (on at1) at1 .read 0x5000000000 = .inl Cause.prot ∧
    gives (on at1) at1 .read (0x40001FFFC0 + 64) = .inl Cause.prot ∧ gives (on at1) at1 .read 0x40001FFFC0 = .inr 0x40001FFFC0 ∧ (bad1 0x4000001000).pois 1 = true ∧
    (on at1).released 0 5 .dev = true ∧ (fifo [entry 0 none] at1).released 0 5 .dev = false ∧
    (on t0).admitCode 5 launch1.words = 0 ∧ (on t0).admitCode 5 [] ≠ 0 ∧
    (∀ p ∈ State.reset.ctxs, p.2.state ≠ .live) ∧ (queued.startLaunch 5 launch1).isSome = true ∧ (queued.ctx 5).queue = [launch1] ∧ (queued.ctx 5).state = .live ∧ launch1.cycle < queued.cycle ∧
    queued.tornDown 5 = false ∧ recordWait launch1.words &&& ~~~((queued.ctx 5).evec &&& ~~~((queued.ctx 5).eventsAt queued.cycle).2) = 0 ∧ (0 : Nat) ≤ (launch1.words.getD 5 0).toNat / 2 ^ 32 % 2 ^ 4 ∧
    0 < (launch1.words.getD 5 0).toNat / 2 ^ 16 % 2 ^ 16 ∧ 0 < (launch1.words.getD 5 0).toNat % 2 ^ 16 := by decide +kernel
theorem witness_Launches_ring : Admits (ringCtx 1) 5 ∧ ¬Admits (ringCtx 0) 5 := by
  refine ⟨?_, fun h => h.2.1 (by decide +kernel)⟩
  unfold Admits
  decide +kernel
/-- A launch of another cycle, one on a cluster that is not there, and two that start one after the other. -/
theorem witness_Launches_pass : LaunchReady queued 5 launch1 ∧ ¬LaunchReady queued 5 { launch1 with cycle := 1 } ∧
    queued.startLaunch 5 { launch1 with words := [0x4000000000, 0, 0, 0, 0, 0x180000010001, 0, 0, 0, 0, 0, 0, 0, 0, 0, 0] } = none ∧
    ((queued.startLaunch 5 launch1).bind fun s => s.startLaunch 5 launch1).isSome = true ∧ ((on t0).ctx 4).state ≠ .live := by
  unfold LaunchReady
  decide +kernel
theorem witness_Launches_waiting : ∀ c : BitVec 6, (({ queued with cycle := 0 } : State).ctx c).state = .live → ∀ l ∈ (({ queued with cycle := 0 } : State).ctx c).queue, 0 ≤ l.cycle :=
  fun _ _ _ _ => Nat.zero_le _
theorem witness_Launches_others : ∀ x, x ≠ 5 → (queued.ctx x).state ≠ .live ∨ (queued.ctx x).queue = [] := by decide +kernel
theorem witness_SchedulingAndEvents : Runs (on t0) t0 ∧ Full t0 [1] ∧ (on t0).released 0 5 .dev = true ∧ (fifo [entry 0 none] t0).released 0 5 .dev = false ∧ t0.latch = false ∧
    ({ t0 with latch := true } : Thread).latch = true ∧ t0.status = .ready ∧ t0.pipe ≤ (on t0).cycle ∧ (on t0).cycle < ({ t0 with pipe := 8 } : Thread).pipe ∧ ((on t0).ctx t0.ctx).state = .live ∧
    (((on t0).setCtx 5 { (on t0).ctx 5 with state := .saved }).ctx t0.ctx).state = .saved ∧ (match stopped.status with | .stopped _ => true | _ => false) = true ∧
    (let u : Thread := { t0 with status := .blocked (.regs [1]) 0 0 }; u.held = [] ∧ Full u [1]) ∧
    (((on t0).tile 0).threads.map (·.1)).Pairwise (· < ·) ∧ (∀ p ∈ ((on t0).tile 0).threads, p.1 < 256) ∧ ((on t0).tile 0).ptr < 256 ∧
    (on t0).boot.phase = .running ∧ State.reset.boot.phase ≠ .running ∧
    (5, t0) ∈ ((on t0).tile 0).threads ∧ (on t0).ready 0 5 t0 = true ∧ (∀ p ∈ (State.reset.tile 0).threads, State.reset.ready 0 p.1 p.2 = false) ∧
    (∀ p ∈ ((on t0).tile 0).threads, (on t0).ready 0 p.1 p.2 = true → p.1 ≠ 5 → False) := by decide
theorem witness_TestFull : Runs (on t0) t0 ∧ Full t0 [2] ∧ (t0.reg 1).prod = none ∧ (let u := t0.markEmpty 1 .recv; Runs (on u) u ∧ Full u [2] ∧ (u.reg 1).prod ≠ none) := by decide
theorem witness_CancelProducer : Runs (on t0) t0 ∧ (t0.reg 1).prod = none ∧ ((t0.markEmpty 1 (.access 3)).reg 1).prod = some (.access 3) ∧
    ((t0.markEmpty 1 (.hget 0x400)).reg 1).prod = some (.hget 0x400) ∧ ((t0.markEmpty 1 (.lease 2)).reg 1).prod = some (.lease 2) ∧
    ((t0.markEmpty 1 .vred).reg 1).prod = some .vred ∧ ((t0.markEmpty 1 .recv).reg 1).prod = some .recv ∧ (leased none).innings 0 5 t0 = some lease5 ∧ lease5.d = 2 ∧ lease5.cycle = (leased none).cycle ∧ (t0.reg 2).prod = none ∧
    (on t0).innings 0 5 t0 = none ∧ (let u : Thread := { t0 with fills := (0, [1]) }; (u.reg 1).prod = none ∧ u.fills.1 = (on u).cycle ∧ (1 : BitVec 4) ∈ u.fills.2 ∧ (2 : BitVec 4) ∉ u.fills.2) := by decide
def firmware (sel : Word) : State :=
  let s := (onSlot 254 t0).setThread 0 5 stopped
  s.setTile 0 { s.tile 0 with trapSel := sel }
/-- The id of the thread in slot 5: instance 1, context 5. -/
def sel5 : Word := 0x0000001140000005
theorem witness_ReturnFromTrap : Runs (firmware sel5) t0 ∧ Firmware (firmware sel5) ∧ ((firmware sel5).selectedTrap 0).map (·.1) = some 5 ∧ (firmware (sel5 + 1)).selectedTrap 0 = none ∧
    ((firmware sel5).selectedTrap 0).map (fun x => x.2.1.regs.length) = some 16 ∧ (5 : Nat) ≠ (firmware sel5).cur.2 ∧
    ((firmware sel5).tile 0).trapSel.toNat / 2 ^ 48 % 4 = 0 ∧ (((firmware (sel5 + 2 ^ 48)).tile 0).trapSel.toNat / 2 ^ 48 % 4 = 1) ∧
    (((firmware (sel5 + 2 ^ 49)).tile 0).trapSel.toNat / 2 ^ 48 % 4 = 2) ∧ ((firmware (sel5 + 3 * 2 ^ 48)).tile 0).trapSel.toNat / 2 ^ 48 % 4 = 3 := by decide
theorem witness_ReturnFromTrap_hget : (let p : Packet := { (anAccess 4).pkt with body := .hget 0x400 }
     let s := (firmware sel5).setTile 0 { (firmware sel5).tile 0 with accs := [{ anAccess 4 with pkt := p, handle := 0x400 }] }
     let s1 : State := { s with serial := 9 }
     (∀ q ∈ s1.tiles, ∀ a ∈ q.2.accs, a.rid < s1.serial) ∧ ((s1.access? 4).map fun x => (x.1, x.2.pkt.body, handleDev x.2.handle)) = some (0, .hget 0x400, 0) ∧
     ((stopped.markEmpty 2 (.access 4)).reg 2).prod = some (.access 4)) := by decide

/-- A page of tile 0 that leads to a window of device 7, cached; device 7 is reachable. -/
def remotePage (rd : Bool) (revoked : Bool) (t : Thread) : State :=
  let s : State := { on t with routes := [(7, (true, 1))] }
  s.setTile 0 { s.tile 0 with tlb := [⟨5, 0x5000000000, 0x200000, .remote 7 3 0 2 false true rd, 1, revoked, 0⟩] }
/-- A translation: a cause, memory, or a window's device and offset. -/
def trans : Trans → BitVec 8 ⊕ Nat ⊕ (BitVec 11 × Nat)
  | .bad c => .inl c
  | .ok (.mem pa ..) _ => .inr (.inl pa)
  | .ok (.remote d _ wo ..) _ => .inr (.inr (d, wo))
abbrev transOf (s : State) (t : Thread) (va : Word) : BitVec 8 ⊕ Nat ⊕ (BitVec 11 × Nat) := trans (s.translate (s.who t) va).2
/-- An access in class O that the thread made from tile 1. -/
def elsewhere : Access := { anAccess 0 with cls := 1, pkt := { (anAccess 0).pkt with hdr := { (anAccess 0).pkt.hdr with stile := 1 } } }
theorem witness_RemoteIssue : (remoteForm (.rldW false .dflt .d 2 1 0)).isSome = true ∧ Runs (remotePage true false rem1) rem1 ∧ Full rem1 [1, 2] ∧
    transOf (remotePage true false rem1) rem1 0x5000000008 = .inr (.inr (7, 8)) ∧ Access3.read.allowed false true true = true ∧ Access3.read.allowed false true false = false ∧
    (match ((remotePage true true rem1).translate ((remotePage true true rem1).who rem1) 0x5000000008).2 with | .ok _ e => e.revoked | _ => false) = true ∧
    transOf (on at1) at1 0x4000001000 = .inr (.inl 0x4000001000) ∧ transOf (on rem1) rem1 0x5000000008 = .inl Cause.prot ∧ (bad1 0x5000000008).pois 1 = true ∧
    (remotePage true false rem1).reach 7 = true ∧ (on rem1).reach 7 = false ∧ (remotePage true false rem1).accessRoom 0 = true ∧
    (remotePage true false rem1).oBehind 0 5 7 = false ∧ ((on rem1).setTile 0 { (on rem1).tile 0 with accs := [elsewhere] }).oBehind 0 5 7 = true ∧
    ((on rem1).setTile 0 { (on rem1).tile 0 with accs := List.replicate 64 (anAccess 0) }).accessRoom 0 = false ∧
    ((on rem1).setTile 0 { (on rem1).tile 0 with accs := List.replicate 63 (anAccess 0) }).accessRoom 0 = true ∧ rem1.val 1 % 8 = 0 ∧ (0x5000000004 : Word).toNat % AtSize.d.bytes ≠ 0 := by decide
/-- A packet for tile 0 of this device. -/
def pkt (cls : BitVec 2) (op : BitVec 6) (b : Body) : Packet := ⟨⟨0, 0, 0, 1, 5, cls, 0, 0, 3, 1, op, 0, 0, 0, 0, 0, 0⟩, 9, 4, 0, 0, 0, 12, true, b⟩
/-- The device with page tables (entry 16) and window 3 onto 64 KiB of context 0. -/
def windowed (w : Window) : State := (State.reset.withFetchWord 32 0xA0).setWindow 3 w
def open3 : Window := ⟨.opened, 1, 0, 0x4000000000, 0x10000, true, false⟩
/-- The page through which a request of context 0 reaches an address, and whether that is populated SRAM. -/
def looked (s : State) (va : Word) : (BitVec 8 ⊕ Nat ⊕ (BitVec 11 × Nat)) × Bool := match s.translateIn [] 1 0 0 va with
  | (s1, _, r, _) => (trans r, s1.sramOn (match r with | .ok (.mem pa ..) _ => pa | _ => 0))
theorem witness_BankRequests : (requestNeeds (pkt 2 1 (.load 8 .d))).isSome = true ∧
    ((windowed ⟨.revoking, 2, 0, 0, 0, true, true⟩).window (pkt 2 1 (.load 8 .d)).hdr.win.toNat).state ≠ .opened ∧
    ((windowed open3).window 3).state = .opened ∧ (pkt 2 1 (.load 8 .d)).hdr.gen = ((windowed open3).window 3).gen ∧ ((windowed open3).ctx 0).state.suspended = false ∧
    (((windowed open3).setCtx 0 { (windowed open3).ctx 0 with state := .saved }).ctx 0).state.suspended = true ∧
    ((0x10000 : BitVec 36).toNat < 0xFFF9 + 8 ∧ 0xFFF8 + 8 ≤ (0x10000 : BitVec 36).toNat) ∧ ((windowed open3).window 3).w = false ∧ ((windowed open3).window 3).rd = true ∧
    looked (windowed open3) (0x4000000000 + 8) = (.inr (.inl 0x4000000008), true) ∧ (looked (windowed open3) (0x8000000000 + 8)).1 = .inl Cause.page := by decide +kernel
/-- A walk for a request of this device that reads a poisoned table entry. -/
def poisonedWalk : State :=
  let s := { windowed open3 with poison := [0x10000000000] }
  s.setTile 0 { s.tile 0 with accs := [{ anAccess 4 with pkt := pkt 2 1 (.load 8 .d) }] }
theorem witness_BankRequests_poison : (poisonedWalk.translateIn [] 1 0 0 0x4000000008).2.2.2 = true ∧ (pkt 2 1 (.load 8 .d)).hdr.sdev = poisonedWalk.fabSelf ∧
    ((poisonedWalk.access? 4).map fun x => (x.1, x.2.slot)) = some (0, 5) := by decide +kernel
/-- A load and a class A store of another device that wait at a bank of tile 0. -/
abbrev atBank (b : Body) : BankReq := .remote (pkt 2 1 b) 0x4000001008 5 (0x4000000000, 0x200000) 0
theorem witness_BankRequests_slot : (let s : State := { (on t0).setBank 0 [atBank (.load 8 .d)] with cycle := 6 }
     s.cycle % 8 = 6 ∧ s.slotUsed 0 = false ∧ s.bank (0 * 16 + 0) = [] ++ atBank (.load 8 .d) :: [] ∧ (∀ x ∈ s.bank 0, s.bankLive x = true) ∧ s.bankHere 0 (atBank (.load 8 .d)) = true ∧
     s.bankPoint 0 (atBank (.load 8 .d)) = none ∧ (s.useSlot 0).slotUsed 0 = true) ∧
    (let b := Body.store 8 .d 1 false
     let s : State := { (on t0).setBank 0 [atBank b] with cycle := 6 }
     (s.bankPoint 0 (atBank b)).isSome = true ∧ ((s.bankPoint 0 (atBank b)).map fun x => goes ((s.contend 0 (s.bank 0)).decideAt x.1 x.2.1 x.2.2.1 x.2.2.2)) = some true) ∧
    (on t0).cycle % 8 ≠ 6 ∧ Memory.wf (on t0).mem = true ∧ 0x4000001008 % AtSize.d.bytes = 0 ∧ ((on t0).sem 0 4).setAt ≠ some (on t0).cycle ∧ (on t0).flaws = [] ∧ (on t0).thread? 0 5 = some t0 := by decide
/-- A load of the bank's own tile, which is present in the sequencer's slot, and the load of another device, which is not. -/
def ownLoad : BankReq := .thread 0 5 1 (.load .d 2) 0x4000001000 4 0 (0x4000000000, 0x200000) 3
/-- The thread's load of a word at its tile's bank, in a cycle, with stores in the bridge buffer. -/
theorem own_ownLoad : OwnTile 0 ownLoad := ⟨rfl, trivial⟩
theorem own_atBank : ¬OwnTile 0 (atBank (.load 8 .d)) := id
def cycled (c : Nat) (b : List BridgeEntry) : State := { on t0 with cycle := c, bridge := b }
theorem witness_BankRequests_present : Present (cycled 2 []) 0 ownLoad ∧ Present (cycled 6 []) 0 (atBank (.load 8 .d)) := by
  unfold Present
  exact ⟨⟨.inl ⟨own_ownLoad, by decide⟩, by decide, by simp [cycled]⟩, .inr ⟨own_atBank, by decide⟩, trivial⟩
theorem witness_BankRequests_absent : ¬Present (cycled 2 []) 0 (atBank (.load 8 .d)) ∧ ¬Present (cycled 6 []) 0 ownLoad ∧
    ¬Present (cycled 2 [⟨0, stored 0 0x4000001000 7 0xFF none⟩]) 0 ownLoad := by
  unfold Present
  exact ⟨fun h => h.1.elim (fun x => own_atBank x.1) (fun x => absurd x.2 (by decide)), fun h => h.1.elim (fun x => absurd x.2 (by decide)) (fun x => x.1 own_ownLoad),
    fun h => absurd h.2.2 (by simp [cycled, ownLoad, stored])⟩
theorem witness_BankRequests_off : (on t0).bank 0 = [] ∧ ∀ r ∈ (on t0).bank 0, ∀ x, (on t0).bankPoint 0 r = some x → ((on t0).ctx x.1).mode = 0 :=
  have e : (on t0).bank 0 = [] := by decide
  ⟨e, fun r h => by rw [e] at h; exact absurd h List.not_mem_nil⟩
theorem witness_BankRequests_engines : ({ on t0 with cycle := 3 } : State).flumeSlot [0, 1] = true ∧ (on t0).flumeSlot [0] = false ∧ (on t0).flumeSlot [] = true ∧
    (∀ j < 8, inSram (0x4000001000 + j) = true) := by decide
/-- A descriptor of eight rows of 64 KiB in memory. -/
def described : State := { on t0 with mem := memWrite [] 0x4000003000 (leBytes 8 4 ++ leBytes 65536 4 ++ leBytes 1 4 ++ List.replicate 52 0) }
theorem witness_BankRequests_descriptor : (let r := (({ described with cur := (0, 5) } : State).setMe { t0 with pipe := 1 }).readBytes 0x4000003000 64
    (∀ j < 8, r.1.poison.contains (0x4000003000 + 8 * j) = false) ∧ manifestAt r.2.1 0 4 * manifestAt r.2.1 4 4 * manifestAt r.2.1 8 4 ≠ 0 ∧ (r.1.flume (flumeOf 0)).queue.length < 32) ∧
    Describes .cpys (({ described with cur := (0, 5) } : State).setMe { t0 with pipe := 1 } |>.readBytes 0x4000003000 64).2.1 ∧ Clean t0 [1, 2, 3] := by
  refine ⟨by decide +kernel, ?_, by decide⟩
  unfold Describes
  decide +kernel
/-- An access of the thread whose response fills g2. -/
def waiting : State :=
  let u := t0.markEmpty 2 (.access 4)
  (on u).setTile 0 { (on u).tile 0 with accs := [anAccess 4] }
theorem witness_RequestAndResponse : (let p := pkt 2 0x20 (.data 7 false [])
     waiting.access? p.rid = some (0, anAccess 4) ∧ (anAccess 4).rid = p.rid ∧ (anAccess 4).dst = some 2 ∧ (waiting.thread? 0 5).map (fun t => t.regs.length) = some 16 ∧
     (waiting.thread? 0 5).map (·.inst) = some (anAccess 4).inst ∧ (waiting.thread? 0 5).map (fun t => (t.reg 2).prod) = some (some (.access p.rid)) ∧
     (waiting.thread? 0 5).map (·.status) = some .ready ∧ (on t0).access? p.rid = none) ∧ (7 : BitVec 11) ≠ (on t0).fabSelf ∧ (1 : BitVec 2) ≠ 2 := by decide
/-- An access that fills no register, whose thread runs on or waits for its answer. -/
def unfilled (w : Option Wait) : State :=
  let u := match w with | some w => { t0 with status := .blocked w 0 0 } | none => t0
  (on u).setTile 0 { (on u).tile 0 with accs := [{ anAccess 4 with dst := none, entry := w.isNone }] }
theorem witness_RequestAndResponse_unfilled : (unfilled none).access? 4 = some (0, { anAccess 4 with dst := none }) ∧ (unfilled none).thread? 0 5 = some t0 ∧ t0.inst = (anAccess 4).inst ∧
    (unfilled (some (.htest 4 2))).access? 4 = some (0, { anAccess 4 with dst := none, entry := false }) ∧ ((unfilled (some (.htest 4 2))).thread? 0 5).map (·.status) = some (.blocked (.htest 4 2) 0 0) ∧
    ((unfilled (some (.located 4))).thread? 0 5).map (·.status) = some (.blocked (.located 4) 0 0) ∧ (unfilled none).thread? 0 6 = none := by decide
theorem witness_RequestAndResponse_ready : ∀ d n c, t0.status ≠ .blocked (.htest 4 d) n c ∧ t0.status ≠ .blocked (.located 4) n c := fun _ _ _ => ⟨nofun, nofun⟩
theorem witness_RequestAndResponse_body : ∀ h, (anAccess 4).pkt.body ≠ .hget h := nofun
/-- A packet of class V for a device, by way of another, in a phase. -/
def routed (dev mid : BitVec 11) (ph : BitVec 1) : Packet := { pkt 3 1 (.load 0 .d) with hdr := { (pkt 3 1 (.load 0 .d)).hdr with dev, mid, ph } }
theorem witness_RequestAndResponse_hget : (let p := pkt 2 0x20 .ack
     let a : Access := { anAccess 4 with pkt := { (anAccess 4).pkt with body := .hget 0x400 } }
     let s := waiting.setTile 0 { waiting.tile 0 with accs := [a] }
     s.access? p.rid = some (0, a) ∧ p.body = .ack ∧ a.pkt.body = .hget 0x400 ∧ (∀ e ∈ (s.tile 0).tlb, e.filled ≤ a.since)) := by decide
theorem witness_PacketRouting : (let p := pkt 1 8 .ack
     p.malformed = false ∧ p.hdr.cls ≠ 3 ∧ p.hdr.dev = (on t0).fabSelf ∧ (pkt 1 0 .ack).malformed = true) ∧
    (let q : Packet := { pkt 1 8 .ack with hdr := { (pkt 1 8 .ack).hdr with dev := 7 } }
     q.hdr.dev ≠ (on t0).fabSelf ∧ (on t0).reach q.hdr.dev = false ∧ (remotePage true false t0).reach q.hdr.dev = true ∧ q.hdr.cls = 1 ∧ q.malformed = false) ∧
    ((routed 7 7 0).malformed = false ∧ (routed 7 7 0).hdr.cls = 3 ∧ (routed 7 7 0).hdr.ph = 0 ∧ (routed 7 7 0).hdr.mid ≠ (on t0).fabSelf) ∧
    ((routed 7 0 0).malformed = false ∧ (routed 7 0 0).hdr.mid = (on t0).fabSelf ∧ (routed 7 0 0).hdr.dev ≠ (on t0).fabSelf) ∧
    ((routed 7 7 1).malformed = false ∧ (routed 7 7 1).hdr.ph = 1) ∧ ((routed 0 7 1).malformed = false ∧ (routed 0 7 1).hdr.dev = (on t0).fabSelf) ∧
    (let s : State := { on t0 with oHold := [pkt 1 8 .ack] }; s.nextO (threadKey 0 1 9) = some (pkt 1 8 .ack)) ∧ (on t0).nextO (threadKey 0 1 9) = none := by decide
/-- A class A packet for device 1 of a line of four: one port shortens its path, has room, or has none. -/
def lined (full : Bool) : State :=
  let s : State := { on t0 with fabDims := 3 * 128 }
  if full then s.setPort 0 { s.port 0 with out := List.replicate 64 { pkt 2 1 .ack with hdr := { (pkt 2 1 .ack).hdr with vc := 2 } } } else s
theorem witness_PacketRouting_adaptive : Shortens (lined false) 128 0 ∧ ¬Shortens (lined false) 128 2 ∧ ¬Shortens (lined false) 128 4 ∧ (0 : Nat) % 2 = (0 : BitVec 4).toNat / 8 ∧ (2 : BitVec 4) = 2 ∧
    (pkt 0 1 .ack).hdr.cls = 0 ∧ (pkt 2 1 .ack).hdr.cls = 2 := by
  unfold Shortens
  decide
theorem witness_Windows : Runs (on (with1 0x10000)) (with1 0x10000) ∧ Full (with1 0x10000) [1, 2, 3] ∧ (0x10000 : Word).toNat % 65536 = 0 ∧ (0x10008 : Word).toNat % 65536 ≠ 0 ∧
    (let y : Word := 0xC000000000010000
     y.toNat / 2 ^ 36 % 2 ^ 26 = 0 ∧ y.toNat % 2 ^ 36 ≠ 0 ∧ y.toNat % 2 ^ 36 % 65536 = 0 ∧ 0xFFFFFFFF0000 + y.toNat % 2 ^ 36 ≤ 2 ^ 48) ∧ 2 ^ 48 < 0xFFFFFFFF0000 + 0x20000 ∧
    Clean (with1 0x10000) [1, 2] ∧ ((on t0).window 0).state = .free ∧ (with1 1023).val 1 < 1024 ∧ 1024 ≤ ((with1 1024).val 1).toNat ∧ (bad1 3).pois 1 = true ∧ ((bad1 0x10000).pois 1 = true ∧ Full (bad1 0x10000) [1, 2, 3]) ∧
    (let s := (on t0).setWindow 3 ⟨.opened, 16383, 5, 0, 0x10000, true, true⟩
     (s.window 3).state = .opened ∧ (s.window 3).ctx = t0.ctx ∧ s.windowBusy 3 = false ∧ (s.window 4).state = .free ∧
     (s.setBank 0 [atBank (.load 8 .d)]).windowBusy 3 = true ∧ (s.setWindow 3 ⟨.revoking, 1, 5, 0, 0x10000, true, true⟩ |>.window 3).state = .revoking) ∧
    (let u : Thread := { t0 with status := .blocked (.wrevoke 3 2) 0 0 }
     let s := (on u).setWindow 3 ⟨.revoking, 2, 5, 0, 0x10000, true, true⟩
     (s.window 3).state = .revoking ∧ (s.window 3).ctx = u.ctx ∧ s.windowBusy 3 = false ∧ s.revoker 3 = some (0, 5, 2) ∧ s.thread? 0 5 = some u ∧
     (s.setBank 0 [atBank (.load 8 .d)]).windowBusy 3 = true) := by decide
/-- Windows that are all open: none is free. -/
def windowsFrom : Nat → Nat → Tab Window
  | 0, _ => []
  | n + 1, k => (k, open3) :: windowsFrom n (k + 1)
theorem get_windowsFrom : ∀ (n k j : Nat), k ≤ j → j < k + n → Tab.get Window.reset (windowsFrom n k) j = open3
  | 0, k, j, h1, h2 => by omega
  | n + 1, k, j, h1, h2 => by
    by_cases h : j = k
    · simp [windowsFrom, Tab.get, h]
    · simp only [windowsFrom, Tab.get, if_neg h, if_neg (show ¬j < k by omega)]
      exact get_windowsFrom n (k + 1) j (by omega) (by omega)
theorem witness_Windows_full : ∀ w < 1024, (({ on t0 with windows := windowsFrom 1024 0 } : State).window w).state ≠ .free := fun w h => by
  have e : ({ on t0 with windows := windowsFrom 1024 0 } : State).window w = open3 := get_windowsFrom 1024 0 w (Nat.zero_le w) (by omega)
  rw [e]; decide

/-- A handle of entry 3 of tile 0, and the device with that entry in a state of use. -/
def h3 : Word := handleWord 0 0 3 1 5
def handled (u : HrtUse) (t : Thread) : State := (on t).setHrt 0 3 ⟨1, 5, some u, false, false, 0, 0, []⟩
theorem witness_Invocations : HrtUse.isHandle .running = true ∧ (0 < 2048 ∧ 4094 < 4095) ∧ Runs (on t0) t0 ∧ Full t0 [1, 2, 0, 1, 2, 3, 4] ∧ Clean t0 [1, 2] ∧
    (on t0).freeEntry? 0 = some 0 ∧ (on t0).target 0 = some (true, 0, 0) ∧ (on t0).target (2 ^ 23) = none ∧ (on t0).target (2 ^ 22 + 7 * 2 ^ 11 + 9) = some (false, 7, 9) ∧
    (on t0).released 0 5 .die = true ∧ (on t0).released 0 5 ((on t0).scopeTo 0 0 0) = true ∧ (fifo [entry 0 none] t0).released 0 5 .die = false ∧
    (on t0).oBehind 0 5 7 = false ∧ ((on t0).setTile 0 { (on t0).tile 0 with accs := [elsewhere] }).oBehind 0 5 7 = true ∧
    h3.toNat % 1024 = 0 ∧ (h3 + 1).toNat % 1024 ≠ 0 ∧ handleDev h3 = (on t0).fabSelf ∧ handleCtx h3 = t0.ctx ∧ handleCtx (handleWord 0 0 3 1 4) ≠ t0.ctx ∧ handleNull h3 = false ∧
    handleNull (handleWord 0 0 4095 1 5) = true ∧ handleTile h3 = (on t0).cur.1 ∧ handleTile (handleWord 0 1 3 1 5) ≠ (on t0).cur.1 ∧ handleDev (handleWord 7 0 3 1 5) ≠ (on t0).fabSelf ∧ (bad1 h3).pois 1 = true ∧ (bad1 h3).val 1 = h3 := by decide
/-- Handle entries that are all in use: none is free. -/
def entriesFrom : Nat → Nat → Tab HrtEntry
  | 0, _ => []
  | n + 1, k => (k, ⟨1, 5, some .running, false, false, 0, 0, []⟩) :: entriesFrom n (k + 1)
theorem find_entriesFrom : ∀ (n k j : Nat), k ≤ j → j < k + n → Tab.get HrtEntry.free (entriesFrom n k) j = ⟨1, 5, some .running, false, false, 0, 0, []⟩
  | 0, k, j, h1, h2 => by omega
  | n + 1, k, j, h1, h2 => by
    by_cases h : j = k
    · simp [entriesFrom, Tab.get, h]
    · simp only [entriesFrom, Tab.get, if_neg h, if_neg (show ¬j < k by omega)]
      exact find_entriesFrom n (k + 1) j (by omega) (by omega)
theorem witness_Invocations_full : ((on t0).setTile 0 { (on t0).tile 0 with hrt := entriesFrom 4095 0 }).freeEntry? 0 = none :=
  leastBelow_none _ 4095 0 fun j _ h => by
    rw [show ((on t0).setTile 0 { (on t0).tile 0 with hrt := entriesFrom 4095 0 }).hrt 0 j = ⟨1, 5, some .running, false, false, 0, 0, []⟩ from
      find_entriesFrom 4095 0 j (Nat.zero_le j) h]
    rfl
theorem witness_HandleUse : Runs (on t0) t0 ∧ Full t0 [1, 2] ∧ t0.handle = none ∧
    (let u : Thread := { t0 with handle := some h3 }
     Runs (on u) u ∧ u.handle = some h3 ∧ ((on u).lfree 0 5 u).2 = none ∧ ((on u).cluster 0).tilesFree ((on u).owned 0 5 u) = true ∧ (on u).released 0 5 .dom = true ∧
     (on u).reach (handleDev h3) = true ∧ (fifo [entry 0 none] u).released 0 5 .dom = false ∧
     ((leased (some (aChain 0 1))).lfree 0 5 u).2 = some 0x4000000080 ∧ (pendingTile.lfree 0 5 u).2 = none ∧ (pendingTile.cluster 0).tilesFree (pendingTile.owned 0 5 u) = false) ∧
    (handled (.fulfilled 7 true) t0).readHandle h3 = .value 7 true ∧ (handled .running t0).readHandle h3 = .wait ∧ (on t0).readHandle h3 = .broken (status Code.stale) ∧
    ((on t0).tctx 0 5).hndTrapb = false ∧ ((on t0).setTctx 0 5 { (on t0).tctx 0 5 with hndTrapb := true } |>.tctx 0 5).hndTrapb = true ∧
    (handled .running t0).behindCancel h3 = false ∧ (on t0).reach (handleDev (handleWord 7 0 3 1 5)) = false ∧ (remotePage true false t0).reach (handleDev (handleWord 7 0 3 1 5)) = true ∧
    (with1 h3).val 1 = h3 ∧ (bad1 h3).pois 1 = true ∧ (remotePage true false t0).oBehind 0 5 7 = false ∧
    ((remotePage true false t0).setTile 0 { (on t0).tile 0 with accs := [elsewhere] }).oBehind 0 5 7 = true := by decide
theorem witness_HandleUse_again : (let u := (with1 h3).markEmpty 2 (.hget h3)
    Runs (handled .running u) u ∧ (u.reg 2).prod = some (.hget h3) ∧ handleDev h3 = (handled .running u).fabSelf ∧ handleTile h3 = (handled .running u).cur.1 ∧ Full u [1] ∧ u.val 1 = h3 ∧
    u.pois 1 = false ∧ (handled .running u).readHandle h3 = .wait ∧ (on u).readHandle h3 = .broken (status Code.stale) ∧ (handled (.fulfilled 7 true) u).readHandle h3 = .value 7 true) := by decide
def suspended : State := (on t0).setCtx 5 { (on t0).ctx 5 with state := .saved }
theorem witness_ClassOArrivals_create : (on t0).actingCtx 0 5 0 = some 5 ∧ (on t0).actingCtx 7 5 0 = none ∧ ((on t0).ctx 5).state.suspended = false ∧ (suspended.ctx 5).state.suspended = true ∧
    (suspended.ctx 5).arrivals.length < 64 ∧ 64 ≤ ((suspended.setCtx 5 { suspended.ctx 5 with arrivals := List.replicate 64 (pkt 1 9 .ack) }).ctx 5).arrivals.length ∧
    (sum ((on t0).createLocal 0 5 0x4000000100 (payloadRegs t0.payload) 0 0 none).2) = .inr 0 ∧
    (sum ((on t0).createLocal 0 5 0x4000000102 (payloadRegs t0.payload) 0 0 none).2) = .inl Code.badTarget := by decide
theorem witness_ClassOArrivals_ended : (State.reset.ctx 5).state = .free ∧ (on t0).actingCtx 0 5 0 = some 5 ∧ ((on t0).ctx 5).state ≠ .free ∧ ((on t0).ctx 5).state ≠ .lost ∧
    ((suspended.setCtx 5 { suspended.ctx 5 with kept := List.replicate 64 (pkt 1 9 .ack) }).ctx 5).kept.length + (suspended.ctx 5).arrivals.length = 64 := by decide
theorem witness_ClassOArrivals_dead : ∀ p ∈ State.reset.tiles, ∀ q ∈ p.2.threads, q.2.ctx ≠ 5 := fun _ h => by simp [State.reset] at h
/-- A tile at which an HCANCEL on the handle waits for the end of its cycle. -/
def cancelling : Packet := { pkt 2 11 (.hcancel h3) with acked := true }
def behindOne : State := (handled .running t0).setTile 0 { (handled .running t0).tile 0 with late := [.hcancelRequest cancelling] }
theorem witness_ClassOArrivals_late : behindOne.behindCancel h3 = true ∧ (handled .running t0).behindCancel h3 = false ∧ .hcancelRequest cancelling ∉ ((handled .running t0).tile 0).late ∧
    cancelling.acked = true ∧ cancelling.hdr.cls ≠ 1 ∧ behindOne.peerOk cancelling 5 = true ∧ (behindOne.tiles.map (·.1)).Nodup ∧ (∀ q ∈ behindOne.tiles, q.1 ≠ 0 → q.2.late = []) ∧
    (behindOne.tile 0).late = [.hcancelRequest cancelling] := by decide
theorem witness_ClassOArrivals_home : ((handled .running t0).ctx (handleCtx h3)).state.suspended = false ∧
    (handled .running t0).lookup h3 = some (⟨1, 5, some .running, false, false, 0, 0, []⟩, .running) ∧ (pkt 1 11 (.hget h3)).hdr.tile.toNat = handleTile h3 ∧ h3.toNat % 1024 = 0 ∧
    handleDev h3 = (handled .running t0).fabSelf ∧ (((handled .running t0).tile (handleTile h3)).threads.map (·.1)).Pairwise (· < ·) ∧
    HrtUse.pending .running = true ∧ HrtUse.pending (.fulfilled 7 false) = false ∧ (handled .running t0).peerOk (pkt 1 11 (.hget h3)) 5 = true ∧ handleNull h3 = false ∧
    (handled .running t0).freeEntry? 0 = some 0 ∧ (0 : Nat) ≠ handleSlot h3 ∧ (pkt 2 11 (.hdrop h3)).acked = true ∧ (pkt 2 11 (.hdrop h3)).hdr.cls ≠ 1 := by decide
/-- A thread that waits for the handle, at no loop's end and without a trap that it owes. -/
abbrev waiter3 : Thread := { t0.markEmpty 2 (.hget h3) with status := .blocked (.hget h3 2) 0 0 }
theorem witness_ClassOArrivals_waiter : (handled .running waiter3).thread? 0 5 = some waiter3 ∧ waiter3.loops = [] ∧ waiter3.owed = none ∧ (handled .running waiter3).mayRun 0 5 waiter3 = true := by decide
/-- Semaphore 4 of tile 0 holds a count. -/
def counted (c : BitVec 24) (err : Bool) (t : Thread) : State := (on t).setSem 0 4 ⟨err, 0, c, none, none⟩
def waitsSem (n : BitVec 24) : Thread := { t0 with status := .blocked (.sem 4 n 2) 0 0 }
def semServed (s : State) (n : BitVec 24) : Option (Sem × Word) := (s.sem 0 4).serve n
theorem witness_Semaphores : Runs (counted 3 false t0) t0 ∧ Full t0 [1, 2] ∧ (counted 3 false t0).released 0 5 .die = true ∧ (fifo [entry 0 none] t0).released 0 5 .die = false ∧
    (bad1 3).pois 1 = true ∧ ((counted 3 false t0).sem 0 4).count < 4 ∧ (3 : BitVec 24) ≤ ((counted 3 false t0).sem 0 4).count ∧ ((counted 3 true t0).sem 0 4).err = true ∧
    ((counted 3 false t0).sem 0 4).setAt ≠ some (counted 3 false t0).cycle ∧ (((on t0).setSem 0 4 ⟨false, 0, 3, some 0, some 0⟩).sem 0 4).setAt = some (on t0).cycle ∧
    ((counted 3 false t0).sem 0 4).changed ≠ some (counted 3 false t0).cycle ∧ (((on t0).setSem 0 4 ⟨false, 0, 3, some 0, some 0⟩).sem 0 4).changed = some (on t0).cycle ∧
    (counted 3 false t0).semWaiters 0 4 = [] ∧ Unlogged (counted 3 false t0) 5 5 (siteOf 0 4) ∧ (counted 3 false (waitsSem 3)).semWaiters 0 4 ≠ [] ∧
    ((counted 3 false (waitsSem 3)).semWaiters 0 4).map (fun w => w.n) = [3] ∧ (semServed (counted 3 false t0) 3).isSome = true ∧ semServed (counted 3 false t0) 4 = none := by decide
def msg : Packet := pkt 1 8 (.message 1 0 t0.payload)
def aMessage : Message := ⟨1, 0, 0, 0, 0, false, false, false, 5, 0, 0⟩
def heaped (n : Nat) (sl : List (Nat × Nat × Message)) : State :=
  let s := (on t0).setTile 0 { (on t0).tile 0 with rq := List.replicate n aMessage }
  s.setCtx 5 { s.ctx 5 with sluiceBase := 0x4000010000, sluice := sl }
theorem witness_Messaging : Runs (on t0) t0 ∧ Full t0 [0, 1, 2, 3] ∧ (on t0).target 384 = some (true, 0, 384) ∧ (on t0).target (2 ^ 23) = none ∧ (on t0).tileOn 384 = false ∧ (on t0).tileOn 0 = true ∧
    (on t0).released 0 5 ((on t0).scopeTo 0 0 0) = true ∧ (fifo [entry 0 none] t0).released 0 5 .die = false ∧ (on t0).reach 0 = true ∧ (on t0).reach 7 = false ∧ ((on t0).tile 0).rq = [] ∧ (((on t0).tile 0).rq.length ≤ 32) ∧
    (on t0).oBehind 0 5 7 = false ∧ ((on t0).setTile 0 { (on t0).tile 0 with accs := [elsewhere] }).oBehind 0 5 7 = true ∧ ((bad1 0).pois 1 = true ∧ (on (bad1 0)).target ((bad1 0).val 1) = some (true, 0, 0)) ∧
    msg.toMessage ((on t0).receiving msg) = some aMessage ∧ Unlogged (on t0) ((on t0).receiving msg) 3 (siteOf 0 0) ∧ Unlogged (on t0) ((on t0).receiving msg) 4 (siteOf 0 0) ∧
    (on t0).messagesAhead 0 5 (.messageEntry msg) = false ∧
    ((on t0).setTile 0 { (on t0).tile 0 with hold2 := [.messageEntry { msg with rid := 99 }] }).messagesAhead 0 ((on t0).receiving msg) (.messageEntry msg) = true ∧
    ((heaped 31 []).tile 0).rq.length < 32 ∧ 32 ≤ ((heaped 32 []).tile 0).rq.length ∧ ((on t0).ctx 5).sluiceFor 0 = [] ∧ (on t0).heapRoom 5 = false ∧ (heaped 32 []).heapRoom 5 = true ∧
    ((heaped 31 [(0, 0, aMessage)]).ctx 5).sluiceFor 0 = [(0, 0, aMessage)] ∧
    (let u : Thread := { t0 with status := .blocked .recv 0 0 }; ((on u).recvWaiters 0).map (fun w => w.2.1) = [5] ∧ Unlogged (on u) 5 6 (siteOf 0 0)) := by decide
/-- A barrier object at 0x4000001000. -/
def barriered (o : Barrier) (t : Thread) : State := (on t).writeBarrier 0x4000001000 o
def obj (expected arrived : Nat) (en : Bool) : Barrier := { Barrier.ofNat 0 with expected, arrived, rearm := expected, en }
abbrev bar1 : Thread := at1.write 2 1 false
theorem witness_BarrierObjects : Runs (on bar1) bar1 ∧ Full bar1 [1, 2, 3, 4] ∧ Clean bar1 [1, 2, 3] ∧ (0x4000001000 : Word).toNat % 16 = 0 ∧ (0x4000001008 : Word).toNat % 16 ≠ 0 ∧
    gives (on bar1) bar1 .both 0x4000001000 = .inr 0x4000001000 ∧ gives (on bar1) bar1 .read 0x4000001000 = .inr 0x4000001000 ∧ gives (on rem1) rem1 .both 0x5000000000 = .inl Cause.prot ∧
    (bad1 0x4000001000).pois 1 = true ∧ (bar1.val 2).toNat = 1 ∧ (bar1.val 3).toNat < 2 ^ 20 ∧
    (on bar1).tileOn ((2 ^ 19 + 384 * 2 ^ 8) / 2 ^ 8 % 2048) = false ∧ (on bar1).released 0 5 .dev = true ∧ (fifo [entry 0 none] bar1).released 0 5 .dev = false ∧ (on bar1).unitClear 0 5 0x4000001000 = true ∧
    (on bar1).unitClear 0 5 0x4000001008 = true ∧ (fifo [entry 0 none] bar1).unitClear 0 5 0x4000001000 = false ∧ (fifo [entry 1 none] bar1).unitClear 0 5 0x4000001008 = false ∧
    ((0 : Word).toNat < 1 ∧ (65536 : Word).toNat > 65535 ∧ (65535 : Word).toNat ≤ 65535) ∧
    ((0xFFFFFFFFFFFF7FFF : Word).toInt < -32768 ∧ (0x7FFF : Word).toInt ≤ 32767 ∧ (-32768 : Int) ≤ (0xFFFFFFFFFFFF8000 : Word).toInt) ∧ ((15 : Word).toNat < 16 ∧ 16 ≤ (16 : Word).toNat) := by decide
theorem witness_BarrierObjects_slot : (slotNow 0 bar1).alone = true ∧ ((slotNow 0 bar1).setThread 0 6 t0).alone = false ∧ Unlogged (slotNow 0 bar1) 5 7 (barrierSite 0x4000001000) ∧
    (let u := with1 0x4000200010; gives (far 6 u) u .read 0x4000200010 = .inr 0x4000200010 ∧ paTile 0x4000200010 ≠ 0) ∧ (BankOp.barr 2 1).isBarrier = true := by decide
theorem witness_BarrierObjects_slots : SlotServes (slotNow 0 bar1) False (bankOf 0x4000001000) ∧ ¬SlotServes (on bar1) False (bankOf 0x4000001000) ∧ ServesRead (far 2 bar1) 0x4000001000 ∧
    ServesRead (far 6 bar1) 0x4000200010 ∧ ¬ServesRead (far 5 bar1) 0x4000200010 :=
  ⟨serves_now _ _ _ (.inr ⟨id, rfl⟩) (by decide) (by decide), serves_never _ _ _ (by decide), serves_now _ _ _ (.inl ⟨rfl, rfl⟩) (by decide) (by decide),
    serves_now _ _ _ (.inr ⟨by decide, rfl⟩) (by decide) (by decide), serves_never _ _ _ (by decide)⟩
theorem witness_BarrierObjects_object : (let r := (barriered (obj 4 2 false) bar1).readBarrier 0x4000001000
     r.2.1 = false ∧ r.2.2.valid = true ∧ r.2.2.arrived + 1 < r.2.2.expected ∧ r.2.2.arrived + 2 = r.2.2.expected ∧ r.2.2.expected < r.2.2.arrived + 3 ∧ r.2.2.en = false ∧ r.2.2.phase ≠ 1 ∧ r.2.2.phase = 0) ∧
    (({ on bar1 with poison := [0x4000001000] } : State).readBarrier 0x4000001000).2.1 = true ∧ ((barriered (obj 4 2 true) bar1).readBarrier 0x4000001000).2.2.en = true ∧
    ((on bar1).readBarrier 0x4000001000).2.2.valid = false ∧ (obj 65535 65535 true).expected < 2 ^ 16 ∧ (obj 4 2 false).spare = false ∧ Memory.wf (on bar1).mem = true ∧
    (on bar1).thread? 0 5 = some bar1 := by decide
def crewed (crew : Nat) : Thread := { t0 with launch := some 0, crew }
def aligned (n : Nat) (t : Thread) : State := (on t).setCluster 0 { (on t).cluster 0 with align := List.replicate n ⟨5, 0x4000000100, 0, 10, 2⟩ }
theorem witness_AlignAndTimeouts : Runs (on t0) t0 ∧ t0.launch = none ∧ (crewed 2).launch ≠ none ∧ ((on (crewed 2)).cluster 0).align.length < 8 ∧ 1 < (crewed 2).crew ∧ (crewed 1).crew ≤ 1 ∧
    8 ≤ ((on t0).setCluster 0 { (on t0).cluster 0 with align := List.replicate 8 ⟨5, 0, 0, 10, 2⟩ } |>.cluster 0).align.length ∧ (5 : BitVec 6) = t0.ctx ∧ (0 : Pc) ≠ t0.pc ∧
    ((aligned 1 (crewed 2)).cluster 0).align = [⟨5, 0x4000000100, 0, 10, 2⟩] ∧
    ((((aligned 1 (crewed 2)).blockAt 0 5 (crewed 2) (.align 0x4000000100)).aligned 0 5 0x4000000100).length < 2) ∧
    (let s := (((aligned 1 (crewed 2)).setThread 0 6 { crewed 2 with status := .blocked (.align 0x4000000100) 0 0 }).blockAt 0 5 (crewed 2) (.align 0x4000000100))
     2 ≤ (s.aligned 0 5 0x4000000100).length) ∧ ((0 : Nat) < 0 + 10 ∧ 0 + 10 ≤ (10 : Nat)) ∧ (suspended.ctx 5).state.suspended = true := by decide
/-- Two entries in the table, of which the second is the thread's; a thread that waits at it, and one that does not. -/
def tabled : State :=
  let u : Thread := { crewed 2 with status := .blocked (.align 0x4000000100) 0 0 }
  ((on u).setThread 0 6 t0).setCluster 0 { (on u).cluster 0 with align := [⟨5, 0x4000000200, 0, 90, 2⟩, ⟨5, 0x4000000100, 0, 10, 2⟩] }
theorem witness_AlignAndTimeouts_table : (tabled.cluster 0).align = [⟨5, 0x4000000200, 0, 90, 2⟩] ++ ⟨5, 0x4000000100, 0, 10, 2⟩ :: [] ∧
    (∀ y ∈ ([⟨5, 0x4000000200, 0, 90, 2⟩] : List AlignEntry), ¬(y.ctx = t0.ctx ∧ y.pc = t0.pc)) ∧ (∀ p ∈ tabled.tiles, (p.2.threads.map (·.1)).Pairwise (· < ·)) ∧
    (∀ p ∈ (tabled.tile 0).threads, p.2.owed = none ∧ p.2.loops = []) ∧ (tabled.thread? 0 5).map (·.status) = some (.blocked (.align 0x4000000100) 0 0) ∧ tabled.thread? 0 6 = some t0 ∧
    (tabled.aligned 0 5 0x4000000100).length = 1 ∧ (0 : Nat) = 0 / 96 * 512 + 0 % 96 * 4 + 0 := by decide
theorem witness_AlignAndTimeouts_bwait : (let u : Thread := { t0 with status := .blocked (.bwoken 2 false) 0 0 }; (on u).thread? 0 5 = some u ∧ (on u).mayRun 0 5 u = true ∧
      ((on u).setCtx 5 { (on u).ctx 5 with state := .stopping }).mayRun 0 5 u = false) ∧
    (let u : Thread := { t0 with status := .blocked (.bwait 0x4000001000 0 64 2 false) 0 0 }; (on u).thread? 0 5 = some u) ∧ (0 : Nat) + 64 < 65 ∧ 64 ≤ (0 : Nat) + 64 ∧
    ({ obj 4 2 false with phase := 1 } : Barrier).valid = true ∧ ({ obj 4 2 false with phase := 1 } : Barrier).phase ≠ (0 : BitVec 4).toNat ∧ (Barrier.ofNat 0).valid = false := by decide
def withAccs (t : Thread) : State := (on t).setTile 0 { (on t).tile 0 with accs := [anAccess 4] }
theorem witness_Fences : Runs (withAccs t0) t0 ∧ Full t0 [2] ∧ (fifo [entry 0 none] t0).fenced 0 5 .die 7 = false ∧ (on t0).fenced 0 5 .die 0 = true ∧ (on t0).fenced 0 5 .dom 7 = true ∧
    (withAccs t0).fenced 0 5 .dom 2 = false ∧ (withAccs t0).fenced 0 5 .dom 1 = true ∧
    (let u : Thread := { t0 with losses := ⟨[(2, 7, false)], [1]⟩ }
     u.losses.lost.filter (fun x => x.2.2 || inMask 2 x.1) ≠ [] ∧ u.losses.lost.filter (fun x => x.2.2 || inMask 1 x.1) = [] ∧ u.losses.rejected.filter (inMask 1) ≠ [] ∧
     u.losses.rejected.filter (inMask 4) = []) ∧
    (∀ x ∈ ((withAccs t0).tile 0).accs, (withAccs t0).expired 0 5 x = false) ∧
    (let v : Thread := { t0.markEmpty 2 (.access 4) with status := .ready }
     (anAccess 4).dst = some 2 ∧ (withAccs v).thread? 0 (anAccess 4).slot = some v ∧ v.inst = (anAccess 4).inst ∧ (v.reg 2).prod = some (.access (anAccess 4).rid)) := by decide
theorem witness_Fences_expired : (anAccess 4).counted = true ∧ ({ anAccess 4 with taken := true, pkt := { (anAccess 4).pkt with body := .hget 0x400 } } : Access).counted = false ∧
    ({ anAccess 4 with pkt := { (anAccess 4).pkt with body := .hget 0x400 } } : Access).counted = true ∧ inMask 7 (anAccess 4).cls = true ∧
    (let u : Thread := { t0 with status := .blocked (.fence .dom 7 300000) 0 0 }
     (withAccs u).thread? 0 5 = some u ∧ (withAccs u).fifoOf 0 5 = [] ∧ (withAccs u).bridgeOf 0 5 = [] ∧ (withAccs u).cycle < 0 + 300000 ∧
     0 + 300000 ≤ ({ withAccs u with cycle := 2 ^ 40 } : State).cycle) ∧
    (fifo [entry 0 none] t0).fifoOf 0 5 ≠ [] ∧ (∀ e ∈ ((fifo [entry 0 none] t0).tile 0).fifo, e.rel = none) := by decide
abbrev page1 : Thread := with1 0x4000000000
theorem witness_CapabilitiesAndTlb : Runs (onSlot 254 page1) page1 ∧ Firmware (onSlot 254 page1) ∧ Full page1 [1, 2] ∧ page1.pois 1 = false ∧
    (let s := onSlot 254 page1; (s.flush 5 (some 0x4000000000)).tlbClear 5 (some 0x4000000000) s.serial s.cycle = true) ∧
    (let s := (onSlot 254 page1).setTile 0 { (onSlot 254 page1).tile 0 with fifo := [{ stored 0 0x4000001000 7 0xFF none with slot := 254 }] }
     (s.flush 5 none).tlbClear 5 none 1 0 = false) ∧
    (let u : Thread := { page1 with status := .blocked (.tlbinv 5 (some 0x4000000000)) 0 0 }; Runs (onSlot 254 u) u ∧ (onSlot 254 u).tlbClear 5 (some 0x4000000000) 0 0 = true) ∧
    ((63 : Word).toNat < 64 ∧ 64 ≤ (64 : Word).toNat) ∧ ((5 : Word).toNat < 6 ∧ (6 : Word).toNat = 6 ∧ 7 ≤ (7 : Word).toNat ∧ ((List.range 8).map fun k => (BitVec.ofNat 64 (2 ^ 16 + k)).toNat - 2 ^ 16) = [0, 1, 2, 3, 4, 5, 6, 7] ∧ (0x10000 : Word).toNat = 2 ^ 16 ∧ 2 ^ 17 ≤ (0x20000 : Word).toNat ∧
      (0x1FFFF : Word).toNat < 2 ^ 17) ∧ (onSlot 254 page1).enabled < 2 ^ 16 := by decide
/-- A load of the flushed page that waits at a bank since before the point keeps TLBINV; one that came after it does not. -/
theorem witness_CapabilitiesAndTlb_bank : (let u : Thread := { page1 with status := .blocked .bank 0 0 }
    let s := ((onSlot 254 page1).setThread 0 6 u).setBank 0 [.thread 0 6 1 (.load .d 2) 0x4000001000 4 0 (0x4000000000, 0x200000) 3]
    (s.flush 5 (some 0x4000000000)).tlbClear 5 (some 0x4000000000) 4 0 = false ∧ (s.flush 5 (some 0x4000000000)).tlbClear 5 (some 0x4000000000) 3 0 = true) := by decide
theorem witness_CapabilitiesAndTlb_fresh : ∀ q r n k, page1.status ≠ .blocked (.tlbinv q r) n k := nofun
/-- The device whose page tables entry 16 places. -/
def walked : State := State.reset.withFetchWord 32 0xA0
theorem witness_TranslateAndWalk : (2 ^ 48 ≤ (0x1000000000000 : Word).toNat) ∧ ((0xFFFFFFFFFFFF : Word).toNat < 2 ^ 48) ∧
    (tlbFind 5 0x40001FFFFF ((on t0).tile 0).tlb).isSome = true ∧ tlbFind 5 0x4000200000 ((on t0).tile 0).tlb = none ∧ (on t0).sramOn 0x40001FFFFF = true ∧ (on t0).sramOn 0x4030000000 = false ∧
    Access3.read.allowed true true false = false ∧ tlbFind 0 0x4000000000 (walked.tile 0).tlb = none ∧
    (match (walked.walk 0 (walked.walker 0) 0x4000000000 3 (baseOf (walked.ctx 0).ptroot 12)).2.1 with | .leaf _ _ _ => true | _ => false) = true ∧ walked.flaws = [] ∧ walked.walker 0 = [] ∧
    walked.populated 0 = false ∧ ({ walked with poison := [0x8000000000] } : State).isPoisoned 0x8000000000 = true ∧
    walked.populated (baseOf (walked.ctx 0).ptroot 12 + 8 * levelIndex 0x4000000000 3) = true ∧
    (let e := leNat (memRead walked.mem (baseOf (walked.ctx 0).ptroot 12 + 8 * levelIndex 0x4000000000 3) 8); e % 2 = 1 ∧ e / 2 % 2 = 0 ∧ (pteNext e).isSome = true) ∧
    leNat (memRead walked.mem (baseOf (walked.ctx 0).ptroot 12 + 8 * levelIndex 0x800000000000 3) 8) % 2 = 0 := by decide +kernel
theorem witness_ControlRegisters : Runs (on t0) t0 ∧ Full t0 [1, 2] ∧ (0xF0, 0xF2, true, true) ∈ controls ∧ ¬Firmware (on t0) ∧ Firmware (onSlot 254 t0) ∧ Runs (onSlot 254 t0) t0 ∧ ¬Firmware (onSlot 247 t0) ∧
    Firmware (onSlot 248 t0) ∧ (bad1 0).pois 1 = true ∧ (0x42, 0xFFFFFFFFFFFFFFFF) ∈ plainControls ∧ (0x41, 0x43, false, false) ∈ controls := by decide
theorem witness_FieldWrites : (1 : Word).getLsbD 0 = true ∧ (0x8000000000000000 : Word).getLsbD 63 = true ∧ (0 : Word).getLsbD 63 = false ∧ (0x80 : Word).getLsbD 7 = true ∧ ((on t0).die 0).nrrTest = false ∧
    (((on t0).setDie 0 { (on t0).die 0 with nrrTest := true }).die 0).nrrTest = true ∧ (1 : Word) ≠ 0 ∧ (on t0).rtsel = (on t0).fabSelf ∧
    (∀ p ∈ (on t0).tiles, ∀ r ∈ p.2.records, r.1 ≠ 5) ∧ ((on t0).die 0).errNow.1 = (on t0).cycle ∧ ((on t0).die 0).errNow.1 ≠ ({ on t0 with cycle := 1 } : State).cycle := by decide
theorem witness_FieldWrites_quiet : ((on t0).die 0).now.events = [] ∧ (0 < (((on t0).logError 0 1 4 0 0).die 0).now.events.length) := by decide +kernel
theorem witness_FieldWrites_traps : ∀ tile slot t i, State.reset.thread? tile slot = some t → t.status = .stopped i → i.written = true := by
  intro tile slot t i h; exact absurd h (by simp [State.thread?, State.tile, State.reset, Tab.get, Tab.find, Tile.reset])
def ringed : State := { on t0 with cycle := 1, irq := { Irq.reset with base := 0x4000040000, held := [7] } }
theorem witness_DeviceEvents : (((on t0).setDie 0 { (on t0).die 0 with acts := [(0, 2 ^ 20)] }).die 0).nrrTest = false ∧ 2 ^ 20 ≤ Tab.get 0 [(0, 2 ^ 20)] 0 ∧ Tab.get 0 ((on t0).die 0).acts 0 < 2 ^ 20 ∧
    ((on t0).cycle / ((on t0).tctx 0 5).excWin.toNat ≤ ((on t0).tctx 0 5).cleared / ((on t0).tctx 0 5).excWin.toNat) ∧
    (let s : State := { on t0 with cycle := 0x10000 }; (s.tctx 0 5).cleared / (s.tctx 0 5).excWin.toNat < s.cycle / (s.tctx 0 5).excWin.toNat) ∧
    ringed.irq.held = [7] ∧ ringed.irq.recent ringed.cycle < ringed.irq.held.length ∧ ringed.populated ringed.irq.base.toNat = true ∧ Memory.wf ringed.mem = true ∧
    (ringed.irq.prod - BitVec.ofNat 32 (leNat (memRead ringed.mem ringed.irq.base.toNat 8))).toNat < 2 ^ ringed.irq.log2n.toNat - 1 ∧ (on t0).irq.held = [] ∧
    (∀ p ∈ (on t0).tiles, ∀ q ∈ p.2.regs, q.2.now.events = []) ∧ ((on t0).tiles.map (·.1)).Pairwise (· < ·) ∧ (∀ p ∈ (on t0).tiles, (p.2.regs.map (·.1)).Pairwise (· < ·)) ∧ (0x50 ≤ (0x52 : Nat)) ∧
    (let x := (on t0).tctx 0 5; x.now.events = [] ∧ x.cnt.length = 8 ∧ x.fired.length = 8 ∧ x.thresh.length = 8 ∧ x.acted.length = 8 ∧ x.acted.getD 7 false = false ∧ ¬x.thresh.getD 7 0 < 1) ∧
    (on t0).thread? ((on t0).who t0).seat.1 ((on t0).who t0).seat.2.1 = some t0 ∧ t0.inst = ((on t0).who t0).seat.2.2 ∧ t0.ctx = ((on t0).who t0).ctx ∧
    (let x := { (on t0).tctx 0 5 with thresh := List.replicate 8 0, excIrq := 1 }; x.thresh.getD 0 0 < (1 : BitVec 32) ∧ x.excIrq.getLsbD 0 = true ∧ x.excIrq.getLsbD 1 = false) := by decide +kernel
/-- The device with an error record of an earlier cycle or of this one at a unit, and with an interrupt record of a tile pushed in this cycle. -/
def erred (unit : BitVec 16) (now : Nat) : State := { (on t0).logError 0 1 unit 0 0 with cycle := now }
theorem witness_DeviceEvents_order : ((erred 4 0).die 0).log.length < 255 ∧ (((erred 4 0).die 0).log.getLast?.map recStamp) = some 0 ∧ (((erred 4 7).die 0).log.getLast?.map recKey) = (((erred 4 0).die 0).log.getLast?.map recKey) ∧
    ((on t0).die 0).log.getLast? = none ∧ (on t0).irq.recent 0 = 0 ∧ ((on t0).irqPush 1 3 5 0).irq.recent 0 = 1 ∧ (((on t0).irqPush 1 3 5 0).irq.held.map irqKey) = [3 * 256 + 1] := by decide +kernel
/-- The order log in a mode with a ring of 256 records, and a site with a queue. -/
def logged (mode : BitVec 2) (prod cons : Word) (sites : List Site) : State :=
  (on t0).setCtx 5 { (on t0).ctx 5 with mode, ringBase := 0x4000020008, ordProd := prod, ordCons := cons, sites }
def aSite (q : List (BitVec 24 × BitVec 48 × BitVec 16)) (held : List Contender) (since : Option Nat) : Site := ⟨1, 9, 4, some 77, q, held, since, none⟩
/-- A contender of a stream. -/
def rival (sid : BitVec 48) (tag : BitVec 16) : Contender := ⟨sid, tag, 0, 5, some 5⟩
theorem witness_OrderLog : ((logged 0 0 0 []).ctx 5).mode = 0 ∧ ((logged 1 0 0 []).ctx 5).mode = 1 ∧ (((logged 1 0 0 [aSite [] [] none]).ctx 5).site 1 9).winner ≠ some (rival 78 0).sid ∧
    (((logged 1 0 0 [aSite [] [] none]).ctx 5).site 1 9).winner = some (rival 77 0).sid ∧ (((logged 1 0 0 [aSite [] [] none]).ctx 5).site 1 9).held = [] ∧
    (((logged 1 0 0 [aSite [] [] none]).ctx 5).site 1 9).room = none ∧ (((logged 1 0 0 [{ aSite [] [] none with room := some (7, 7) }]).ctx 5).site 1 9).room = some (7, 7) ∧
    (logged 1 0 0 []).populated (((logged 1 0 0 []).ctx 5).ringBase.toNat % 2 ^ 48 / 2 ^ 12 * 2 ^ 12) = true ∧
    (((logged 1 255 0 []).ctx 5).ordProd - ((logged 1 255 0 []).ctx 5).ordCons).toNat < 2 ^ (((logged 1 0 0 []).ctx 5).ringBase.toNat % 32) ∧
    2 ^ (((logged 1 0 0 []).ctx 5).ringBase.toNat % 32) ≤ (((logged 1 256 0 []).ctx 5).ordProd - ((logged 1 256 0 []).ctx 5).ordCons).toNat ∧ Memory.wf (logged 1 0 0 []).mem = true ∧
    ({ logged 1 0 0 [] with cycle := 1 } : State).cycle ≠ ((logged 1 0 0 []).ctx 5).ordNow.1 ∧ (let c := { (logged 1 1 0 []).ctx 5 with ordNow := (0, [(0, 1, 0)]) }; c.ordNow = ((logged 1 1 0 []).cycle, [(0, 1, 0)]) ∧ c.ordProd ≠ 0 ∧ c.ordProd ≠ c.ordCons) ∧
    (∀ h ∈ [rival 78 3], h.sid = 78 → precedes h.tag 3 = false) ∧ ¬(∀ h ∈ [rival 78 2], h.sid = 78 → precedes h.tag 3 = false) := by decide
theorem witness_OrderLog_replay : (((logged 2 0 0 [aSite [(4, 77, 2)] [] none]).ctx 5).site 1 9).queue = [((((logged 2 0 0 [aSite [(4, 77, 2)] [] none]).ctx 5).site 1 9).seq, 77, 2)] ∧
    (logged 2 0 0 []).nextRecord 5 = none ∧ ((logged 2 0 1 []).nextRecord 5).isSome = true ∧ (((logged 2 0 1 []).ctx 5).site 0 0).queue.length < 16 ∧
    (let s : State := { logged 2 0 0 [aSite [] [rival 78 2] (some 0)] with cycle := 0x100000 }; (s.ctx 5).mode = 2 ∧ ((s.ctx 5).site 1 9).held ≠ [] ∧
      ∃ k, ((s.ctx 5).site 1 9).since = some k ∧ k + (s.ctx 5).modeHold.toNat * 64 ≤ s.cycle) ∧
    (t0.ctx = 5 ∧ (logged 0 0 0 []).thread? (rival t0.sid 2).tile (rival t0.sid 2).slot = some t0) ∧ (strange 78 2).ctx = none ∧
    ((rival t0.sid 2).slot < 248 ∧ ((logged 0 0 0 []).setThread 0 9 t0).streamSeat 5 t0.sid = some (0, 5) ∧ (logged 0 0 0 []).thread? 0 7 = none) ∧
    ((logged 2 3 3 [aSite [] [] none]).ctx 5).ordProd = ((logged 2 3 3 [aSite [] [] none]).ctx 5).ordCons ∧ (∀ z ∈ ((logged 2 3 3 [aSite [] [] none]).ctx 5).sites, z.queue = []) :=
  ⟨by decide, by decide, by decide, by decide, ⟨by decide, by decide, 0, by decide⟩, by decide, by decide, by decide, by decide, by decide⟩
/-- Context 1, with the image of a context without threads in its save area. -/
def imaged (state : CtxState) (map0 : List Host.Cell) (t : Thread) : State :=
  let s := (onSlot 254 t).setCtx 1 { Context.reset with state, saveBase := 0x10000000000, saveSize := 0x1000 }
  { s with mem := [(0x10000000000, 1), (0x10000000004, 0x10), (0x10000000005, 0x03), (0x10000000010, 1), (0x10000000012, 1), (0x10000000014, 1)] ++ map0 ++ [(0x10000000318, 1)] }
abbrev ctx1 : Thread := with1 1
theorem witness_ContextImages : Runs (onSlot 254 ctx1) ctx1 ∧ Firmware (onSlot 254 ctx1) ∧ ¬Firmware (on ctx1) ∧ Runs (on ctx1) ctx1 ∧ Full ctx1 [1, 2] ∧
    ((0x40 : Word) &&& ~~~0x3F ≠ 0 ∧ (0x3F : Word) &&& ~~~0x3F = 0 ∧ (0x13F : Word) &&& ~~~0x13F = 0 ∧ (0x200 : Word) &&& ~~~0x13F ≠ 0) ∧ (1 : BitVec 6) ≠ ctx1.ctx ∧
    (bad1 1).pois 1 = true ∧ ((imaged .free [] ctx1).ctx 1).state = .free ∧ ((imaged .live [] ctx1).ctx 1).state = .live ∧ (onSlot 254 ctx1).goodImage 1 = none ∧
    (let s := (imaged .live [] ctx1).setCtx 1 { (imaged .live [] ctx1).ctx 1 with state := .stopping }; s.stopped 1 none = true ∧ s.enginesDone 1 = true ∧ s.accessesDone 1 0 = true) ∧
    ((imaged .live [] ctx1).threadsOf 1 = []) := by decide +kernel
/-- A thread of context 1 that stands in an instruction of another tile keeps its context from being at rest. -/
theorem witness_ContextImages_waits : (let s := (imaged .live [] ctx1).setCtx 1 { (imaged .live [] ctx1).ctx 1 with state := .stopping }
    (s.setTile 1 { s.tile 1 with fifo := [{ stored 0 0x4000200008 7 0xFF none with slot := 0, ctx := 1 }], threads := [(0, { t0 with ctx := 1 })] }).stopped 1 none = false) := by decide +kernel
/-- A stop of this thread, of a thread that is gone, and of another thread that lives. -/
theorem witness_ContextImages_stopper : (let s (who : Nat × Nat × BitVec 8) : State := (imaged .live [] ctx1).setCtx 1 { (imaged .live [] ctx1).ctx 1 with state := .stopping, stopper := some who }
    ((s (0, 254, 1)).cur = (0, 254) ∧ ctx1.inst = 1 ∧ ((s (0, 254, 1)).ctx 1).state = .stopping) ∧ (s (0, 3, 1)).thread? 0 3 = none ∧
    ((s (0, 254, 2)).thread? 0 254).map (·.inst) = some 1 ∧ ((s (0, 6, 1)).setThread 0 6 t0).thread? 0 6 = some t0 ∧ t0.inst = 1 ∧ (0, 6) ≠ (s (0, 6, 1)).cur) := by decide +kernel
theorem witness_ContextImages_step5 : (imaged .live [] ctx1).step5 1 none = some 0 ∧ (imaged .live [] ctx1).enginesDone 1 = true ∧ (imaged .live [] ctx1).step5 1 (some 3) = some 3 := by decide +kernel
/-- A save that has come to its end: an area that is too small, one that is outside HBM, state that has gone bad, and one that holds the image. -/
def saving (base : Word) (size : BitVec 40) (flaws : List Flaw) : State :=
  let s := (imaged .live [] ctx1).setCtx 1 { (imaged .live [] ctx1).ctx 1 with state := .stopping, saveBase := base, saveSize := size }
  { s with flaws }
def needOf (s : State) : Nat := ((s.imageOf 1).2.flatMap Section.bytes).length
theorem witness_ContextImages_saves : (saving 0x10000000000 8 []).stopped 1 none = true ∧ ((saving 0x10000000000 8 []).threadsOf 1 = []) ∧ 8 < needOf (saving 0x10000000000 8 []) ∧
    needOf (saving 0x10000000000 0x10000 []) ≤ 0x10000 ∧ inHbm 0x10000000000 = true ∧ inHbm 0 = false ∧ inHbm (0x10000000000 + 0x10000) = true ∧
    Flaw.saveWrite 0x10000000008 ∈ (saving 0x10000000000 0x10000 [.saveWrite 0x10000000008]).flaws ∧ Memory.wf (saving 0x10000000000 0x10000 []).mem = true := by decide +kernel
theorem witness_ContextImages_apart : ((saving 0x10000000000 8 []).tiles.map (·.1)).Pairwise (· < ·) ∧ (∀ p ∈ (saving 0x10000000000 8 []).tiles, (p.2.threads.map (·.1)).Pairwise (· < ·)) ∧ (1 : BitVec 6) ≠ ctx1.ctx := by decide
/-- Sections that restore semaphores and registers: what a section of each type says. -/
theorem witness_ContextImages_restored : (let y : Section := ⟨3, 0, leBytes 7 4 ++ List.replicate 1020 0⟩; y.ty = 3 ∧ y.field 0 4 = 7 ∧ (7 : Nat).testBit 31 = false) ∧
    (let y : Section := ⟨9, 0, leBytes 0x42 8 ++ leBytes 9 8⟩; y.ty = 9 ∧ (0x42, 9) ∈ y.entries) ∧ (∃ n m, (n, m) ∈ plainControls ∧ ctxRegister n = true ∧ n ≠ 0xBC ∧ n ≠ 0xBD) ∧
    (∀ d, (t0.reg d).prod = none) ∧ ((imaged .free [] ctx1).ctx 1).arrivals = [] :=
  ⟨by decide, by decide, ⟨0x40, 0xFFFFFFFFFFFFFFFF, by decide⟩, by decide, by decide⟩
theorem witness_ContextImages_fresh : ∀ q r b n k, ctx1.status ≠ .blocked (.ctxStop q r b) n k := nofun
def headOf : List Byte := leBytes 1 2 ++ leBytes 1 2 ++ leBytes 1 4
def restOf : List Byte := leBytes 1 4 ++ leBytes 0 4
theorem field_of_image (h : Section) (e : h.body = headOf ++ (List.replicate 768 0 ++ restOf)) (l : Nat) (hl : l < 384) : h.field (8 + 2 * l) 2 = 0 := by
  have h1 : (headOf ++ (List.replicate 768 (0 : Byte) ++ restOf)).drop (headOf.length + 2 * l) = List.replicate (768 - 2 * l) 0 ++ restOf := by
    rw [List.drop_length_add_append, List.drop_append_of_le_length (by rw [List.length_replicate]; omega), List.drop_replicate]
  unfold Section.field
  rw [e, show (8 : Nat) + 2 * l = headOf.length + 2 * l from rfl, h1, List.take_append_of_le_length (by rw [List.length_replicate]; omega), List.take_replicate,
    show min 2 (768 - 2 * l) = 2 by omega]
  rfl
theorem witness_ContextImages_map (h : Section) (e : h.body = headOf ++ (List.replicate 768 0 ++ restOf)) :
    ∀ p ∈ (imaged .free [] ctx1).headerMap h, p ≠ 0xFFFF → (imaged .free [] ctx1).clusterOn p.toNat = true := by
  intro p hp hne
  have h2 : (List.range 384).map (fun l => BitVec.ofNat 16 (h.field (8 + 2 * l) 2)) = List.replicate 384 0 := by
    rw [List.eq_replicate_iff]
    refine ⟨by simp, fun b hb => ?_⟩
    obtain ⟨l, hl, rfl⟩ := List.mem_map.1 hb
    rw [field_of_image h e l (List.mem_range.1 hl)]
    rfl
  unfold State.headerMap at hp
  simp only [h2] at hp
  rw [if_neg (by decide)] at hp
  obtain rfl := List.eq_of_mem_replicate hp
  decide
theorem witness_ContextImages_load : ∃ h, (imaged .free [] ctx1).goodImage 1 = some (h, []) ∧ h.body = headOf ++ (List.replicate 768 0 ++ restOf) := by
  have h : ((imaged .free [] ctx1).goodImage 1).map (fun x => (x.1.body, x.2.isEmpty)) = some (headOf ++ (List.replicate 768 0 ++ restOf), true) := by decide +kernel
  obtain ⟨⟨a, b⟩, ha, hb⟩ := Option.map_eq_some_iff.1 h
  simp only [Prod.mk.injEq, List.isEmpty_iff] at hb
  exact ⟨a, by rw [ha, hb.2], hb.1⟩
theorem witness_ContextImages_placed (old new : List (BitVec 16)) : ((imaged .free [] ctx1).placement old new []).isSome = true ∧ (imaged .free [] ctx1).pinned 1 old new = false :=
  ⟨rfl, rfl⟩
/-- Device with a port that has a key in its current slots. -/
def keyed (f : Port → Port) : State := (on t0).setPort 2 (f ((Port.reset.setTx false ⟨some 1, 5, false⟩).setRx false ⟨some 2, 6, false⟩))
def aFlit (kind : BitVec 2) : Flit := ⟨0, false, kind, 6, 0, 0⟩
abbrev port2 (f : Port → Port) : Port := (keyed f).port 2
theorem witness_Links : ((port2 id).tx false).key = some 1 ∧ (port2 id).txcur = false ∧ (port2 id).txDown = false ∧ (port2 id).replay = [] ∧ (port2 id).marker = none ∧ (port2 id).out = [] ∧ (port2 id).ctl = [] ∧
    ((port2 id).tx true).key = none ∧ (port2 id).retry.length < 128 ∧ ((port2 id).tx false).counter.toNat < 2 ^ 36 ∧
    (port2 fun q => { q with ctl := [⟨0, false, 6⟩] }).ctl = [⟨0, false, 6⟩] ∧ (port2 fun q => { q with out := [pkt 1 9 .ack] }).out = [] ++ pkt 1 9 .ack :: [] ∧
    (port2 fun q => { q with marker := some (aFlit 1), txDown := true }).marker = some (aFlit 1) ∧ (port2 fun q => { q with marker := some (aFlit 1), txDown := true }).txDown = true ∧
    (128 ≤ (port2 fun q => { q with retry := List.replicate 128 (aFlit 0) }).retry.length) := by decide +kernel
/-- The switch ignored and obeyed, with and without a marker; the warning; a counter that has ended; and the replay that goes on after it. -/
theorem witness_Links_switch : ((port2 id).marker.isSome = true ∨ (port2 id).markerOut = true ∨ ((port2 id).tx (!(port2 id).txcur)).key = none) ∧
    (let q := port2 fun q => q.setTx true ⟨some 3, 0, false⟩
     ¬(q.marker.isSome = true ∨ q.markerOut = true ∨ (q.tx (!q.txcur)).key = none) ∧ (q.tx q.txcur).key = some 1 ∧ (q.tx q.txcur).counter.toNat < 2 ^ 36 ∧ q.txDown = false) ∧
    (let q := port2 fun q => { q.setTx true ⟨some 3, 0, false⟩ with txDown := true }
     ¬(q.marker.isSome = true ∨ q.markerOut = true ∨ (q.tx (!q.txcur)).key = none) ∧ q.txDown = true) ∧
    (let q := port2 fun q => q.setTx false ⟨some 1, 2 ^ 36 - 2 ^ 24, false⟩
     (q.tx q.txcur).counter.toNat = 2 ^ 36 - 2 ^ 24 ∧ (q.tx q.txcur).warned = false) ∧ ¬(((port2 id).tx false).counter.toNat = 2 ^ 36 - 2 ^ 24) ∧
    (let q := port2 fun q => q.setTx false ⟨some 1, 2 ^ 36 - 2 ^ 24 - 1, false⟩
     (q.tx q.txcur).counter.toNat + 1 = 2 ^ 36 - 2 ^ 24 ∧ (q.tx q.txcur).warned = false ∧ (q.tx q.txcur).key = some 1) ∧
    (let q := port2 fun q => q.setTx false ⟨some 1, 2 ^ 36, false⟩
     (q.tx q.txcur).counter.toNat = 2 ^ 36 ∧ q.txDown = false) ∧
    (let q := port2 fun q => { q.setTx false ⟨some 1, 2 ^ 36, true⟩ with txDown := true, replay := [aFlit 1] }
     q.replay = [aFlit 1] ∧ (q.tx q.txcur).counter.toNat = 2 ^ 36) ∧
    (let q := port2 fun q => { q with txDown := true, replay := [aFlit 0] }
     q.replay = [aFlit 0] ∧ q.txDown = true ∧ (q.tx q.txcur).counter.toNat ≠ 2 ^ 36) := by decide +kernel
/-- A counter that has ended before its stop: the switch takes the stop with it. A marker of the cycle that found a key, and one that found none. -/
theorem witness_Links_ended : (let q := port2 fun q => (q.setTx true ⟨some 3, 0, false⟩).setTx false ⟨some 1, 2 ^ 36, false⟩
    ¬(q.marker.isSome = true ∨ q.markerOut = true ∨ (q.tx (!q.txcur)).key = none) ∧ (q.tx q.txcur).counter.toNat = 2 ^ 36 ∧ q.txDown = false) ∧
    (let q := port2 fun q => { q with evNow := (0, 4) }; q.evNow.1 = (on t0).cycle ∧ q.evNow.2.getLsbD 2 = true ∧ (q.rx (!q.rxcur)).key.isSome = false) ∧
    (let s := keyed fun q => { q with evNow := (0, 2), rxDown := true, down := true }
     let q := s.port 2; let b := Tab.get Port.reset s.last.ports 2
     q.evNow.1 = s.cycle ∧ q.evNow.2.getLsbD 1 = true ∧ q.rxDown = true ∧ b.rxDown = false ∧ q.fails = 0 ∧ q.rxcur = false ∧ b.down = false ∧ q.txDown = b.txDown) := by decide +kernel
theorem witness_Links_keys : ((port2 id).txcur = false ∧ ((port2 id).tx false).key.isSome = true) ∧ ¬((port2 id).txcur = true ∧ ((port2 id).tx true).key.isSome = true) ∧
    ((port2 id).rxcur = false ∧ ((port2 id).rx false).key.isSome = true) ∧ ¬((port2 id).rxcur = true ∧ ((port2 id).rx true).key.isSome = true) := by decide +kernel
theorem witness_Links_receive : ((port2 id).rx false).key = some 2 ∧ (port2 id).fails < 8 ∧ (port2 id).rxDown = false ∧ ((on t0).port 2).rx false = KeySlot.empty ∧
    (linkSlot (aFlit 0).hdr = (port2 id).rxcur ∧ (aFlit 0).counter = ((port2 id).rx false).counter) ∧
    ¬(linkSlot ({ aFlit 0 with hdr := 1 } : Flit).hdr = (port2 id).rxcur ∧ (aFlit 0).counter = ((port2 id).rx false).counter) ∧ (port2 id).fails = 0 ∧ (port2 fun q => { q with fails := 1 }).fails ≠ 0 ∧
    linkKind ({ aFlit 0 with hdr := 0 } : Flit).hdr = 0 ∧ linkKind ({ aFlit 0 with hdr := 2 } : Flit).hdr = 1 ∧ linkKind ({ aFlit 0 with hdr := 4 } : Flit).hdr = 2 ∧ linkKind ({ aFlit 0 with hdr := 6 } : Flit).hdr = 3 ∧
    linkSlot ({ aFlit 0 with hdr := 6 } : Flit).hdr = (port2 id).rxcur ∧ ((port2 id).rx (!(port2 id).rxcur)).key = none ∧
    ((port2 fun q => q.setRx true ⟨some 4, 0, false⟩).rx true).key.isSome = true ∧
    8 ≤ (port2 fun q => { q with fails := 8 }).fails ∧ (port2 fun q => { q with fails := 8 }).rxDown = false ∧
    (port2 fun q => { q with retry := [aFlit 0, { aFlit 1 with counter := 7 }] }).retry = [aFlit 0] ++ { aFlit 1 with counter := 7 } :: [] ∧
    (∀ g ∈ [aFlit 0], ¬(g.slot = false ∧ g.counter = 7)) ∧ (∀ g ∈ (port2 id).retry, ¬(g.slot = false ∧ g.counter = 7)) := by decide +kernel
theorem witness_Boot : (State.reset.boot.phase = .rom) ∧ (let s : State := { State.reset with boot := { Boot.reset with phase := .recovery } }; s.boot.phase = .recovery ∧ s.boot.ip = none ∧ s.boot.manifest = []) ∧
    (let s : State := { State.reset with boot := { Boot.reset with phase := .recovery, ip := some 1, manifest := leBytes 0 16 ++ leBytes 64 8 } }
     s.boot.ip ≠ none ∧ s.boot.manifest ≠ [] ∧ (List.replicate 64 (0 : Byte)).length = manifestAt s.boot.manifest 0x10 8) ∧ (List.replicate 256 (0 : Byte)).length = 256 ∧
    (let s : State := { State.reset with boot := { Boot.reset with identity := some 1 } }; s.boot.identity = some 1) ∧ State.reset.boot.identity = none ∧ State.reset.disabled.Nodup := by decide +kernel
theorem witness_Boot_late : ¬(10 * 10 ^ 6 * Config.cyclesPerMicrosecond < State.reset.cycle) ∧
    (let s : State := { State.reset with cycle := 10 * 10 ^ 6 * Config.cyclesPerMicrosecond + 1 }; 10 * 10 ^ 6 * Config.cyclesPerMicrosecond < s.cycle) :=
  ⟨Nat.not_lt_zero _, Nat.lt_succ_self _⟩
theorem witness_Boot_unbootable : ¬Bootable [] [] := fun h => absurd h.1 (by decide)
/-- The cluster of the thread, with tiles 0 to 2 its own. -/
def tiled (a b c : TileTy) : State :=
  let me := some (0, 5, (1 : BitVec 8))
  (on at1).setCluster 0 { (on at1).cluster 0 with acc := [(0, ⟨me, a, [], 0⟩), (1, ⟨me, b, [], 0⟩), (2, ⟨me, c, [], 0⟩)] }
def vadds : Instr := .vadd ⟨0, 1⟩ ⟨1, 2⟩ ⟨2, 63⟩ (.rot 9 3) .none
theorem witness_VectorLanes : vectorOps vadds = some [(⟨0, 1⟩, .none), (⟨1, 2⟩, .rot 9 3), (⟨2, 63⟩, .none)] ∧ Runs (tiled .bf16 .bf16 .bf16) at1 ∧ Full at1 (vectorRegs vadds) ∧
    (∀ o ∈ (vectorOps vadds).getD [], ((tiled .bf16 .bf16 .bf16).accTile o.1.tile).owner = some (0, 5, at1.inst) ∧ 2 ^ segOf o.2 ≤ laneTotal ((tiled .bf16 .bf16 .bf16).vty o.1) ∧
      ((tiled .bf16 .bf16 .bf16).cluster 0).tilePending o.1.tile = false) ∧
    offends vadds (((vectorOps vadds).getD []).map fun o => (o.1.tile, (tiled .bf16 .bf16 .bf16).vty o.1)) = none ∧
    offends vadds (((vectorOps vadds).getD []).map fun o => (o.1.tile, (tiled .bf16 .bf16 .fp32).vty o.1)) = some 2 ∧ ((on at1).accTile 0).owner ≠ some (0, 5, at1.inst) ∧
    ¬(2 ^ segOf (.rot 9 3) ≤ laneTotal .fp32) ∧ (pendingTile.cluster 0).tilePending 3 = true ∧ (Fp.dec32 0x7FC00000).isNan = true ∧ (0x80000000 : BitVec 32) < 0x80000001 := by decide
theorem witness_VectorLanes_result : ∀ ty g d a b, (laneResult vadds ty g d a b).isSome = true := fun _ _ _ _ _ => rfl
theorem witness_VectorLanes_odd : oddRow (tiled .bf16 .fp32 .fp32) (.vcvt .rne ⟨0, 0⟩ ⟨1, 1⟩ .none) = true ∧ oddRow (tiled .bf16 .fp32 .fp32) (.vcvt .rne ⟨0, 0⟩ ⟨1, 2⟩ .none) = false := by decide
theorem witness_VectorConversions : Runs (tiled .fp32 .bf16 .fp32) at1 ∧ Vectorable (tiled .fp32 .bf16 .fp32) at1 (.vcvt .rne ⟨1, 0⟩ ⟨0, 2⟩ .none) ∧
    Vectorable (tiled .fp32 .bf16 .fp32) at1 (.vcvt .rne ⟨0, 62⟩ ⟨1, 0⟩ .none) ∧ Vectorable (tiled .fp32 .bf16 .int32) at1 (.vcvt .rne ⟨2, 1⟩ ⟨0, 1⟩ .none) ∧
    Vectorable (tiled .fp32 .bf16 .int32) at1 (.vqnt .mx4 .dith ⟨1, 0⟩ ⟨0, 2⟩ .none 8) ∧ (127 ≤ 246) :=
  ⟨by decide, ⟨_, rfl, by decide⟩, ⟨_, rfl, by decide⟩, ⟨_, rfl, by decide⟩, ⟨_, rfl, by decide⟩, by decide⟩
/-- The thread in a vector instruction that waits for its turn at the Tailrace, or has it. -/
def inTurn (mine leased : Bool) : Thread := { at1 with status := .blocked (.tail mine) 3 0, instr := some vadds, owed := none, leased }
theorem witness_Turn : Turn (tiled .fp32 .fp32 .fp32) at1 ∧ Turn (tiled .fp32 .fp32 .fp32) (inTurn true false) ∧ (∃ k c, (inTurn false false).status = .blocked (.tail false) k c) ∧
    (∀ g n c, at1.status ≠ .blocked (.tail g) n c) ∧
    (let s := tiled .fp32 .fp32 .fp32
     (s.setCluster 0 { s.cluster 0 with busy := 9 }).tailFree (clusterOf s.cur.1) = false) :=
  ⟨.inr ⟨nofun, by decide⟩, .inl ⟨3, 0, rfl⟩, ⟨3, 0, rfl⟩, nofun, by decide⟩
/-- A quantisation with an innings at its issue, without one, and after an innings of another grant. -/
theorem witness_VectorConversions_scales : (tiled .fp32 .fp32 .fp32).leasedAtIssue at1 = false ∧ at1.inVector = false ∧ (leased none).leasedAtIssue t0 = true ∧
    (∀ l, ((leased none).cluster 0).innings = some l → l.cycle ≤ t0.issued (leased none)) ∧ (inTurn true true).inVector = true ∧
    (tiled .fp32 .fp32 .fp32).leasedAtIssue (inTurn true true) = true ∧ (inTurn true true).issued (leased none) < ({ lease5 with cycle := 5 } : Lease).cycle := by decide
/-- A quantisation that waits for its turn has the registers of its issue. -/
theorem witness_VectorConversions_sampled : (let s := tiled .fp32 .fp32 .fp32
    (inTail s at1 vadds).sampled = some (0, 0, 0, (s.tctx 0 5).mxBase) ∧ (inTail s (inTurn true false) vadds).inVector = true ∧ at1.inVector = false) := by decide
theorem witness_VectorMemory : Runs (tiled .fp32 .fp32 .fp32) at1 ∧ Full at1 [1] ∧ ((tiled .fp32 .fp32 .fp32).accTile 1).owner = some (0, 5, at1.inst) ∧ (at1.val 1 + (0 : BitVec 12).signExtend 64 * 1024).toNat % 1024 = 0 ∧
    gives (tiled .fp32 .fp32 .fp32) at1 .write 0x4000001000 = .inr 0x4000001000 ∧ clusterOf (paTile 0x4000001000) = clusterOf 0 ∧ ((tiled .fp32 .fp32 .fp32).cluster 0).tilePending 1 = false ∧
    (pendingTile.cluster 0).tilePending 3 = true ∧ (fifo [entry 0 none] at1).fifoOf 0 5 ≠ [] ∧
    (tiled .fp32 .fp32 .fp32).fifoOf 0 5 = [] ∧ at1.pois 1 = false ∧ clusterOf (paTile 0x4000800000) ≠ clusterOf 0 ∧ pendingTile.millPresents 0 = some 0 ∧
    (∀ r < 5, (if r = 4 then ((on t0).millPresents 0).isSome else (((on t0).cluster 0).tailFirst r).any fun v => v.cycle < (on t0).cycle) = false) ∧
    (let u := t0.markEmpty 2 .vred; u.inst = 1 ∧ (u.reg 2).prod = some .vred) ∧ ((on t0).cluster 0).vred = [] ∧
    (let s := (on t0).setCluster 0 { (on t0).cluster 0 with vred := [⟨0, 5, 1, 3, 2, 7, false⟩] }; (s.cluster 0).vred = ⟨0, 5, 1, 3, 2, 7, false⟩ :: []) := by decide
/-- A slot of the Tailrace at all banks, and a cycle that is none. -/
theorem witness_VectorMemory_slots : (let s : State := { tiled .fp32 .fp32 .fp32 with cycle := 1 }; s.cycle % 4 = 1 ∧ ∀ j < 16, s.slotUsed (paTile 0x4000001000 * 16 + j) = false) ∧
    (tiled .fp32 .fp32 .fp32).cycle % 4 ≠ 1 ∧ (∃ n c, (inTurn true false).status = .blocked (.tail true) n c) ∧ (∀ g n c, at1.status ≠ .blocked (.tail g) n c) ∧
    (tiled .fp32 .fp32 .fp32).tailFree 0 = true := ⟨by decide, by decide, ⟨3, 0, rfl⟩, nofun, by decide⟩
/-- The Tailrace in a cycle, with a reduction of tile 1 and an instruction of tile 0 behind one another. -/
def atTurns : State :=
  { (on (inTurn false false)).setCluster 0 { (on t0).cluster 0 with vreqs := [.vred ⟨.add, .int32, 1, 0, false, { (on t0).who t0 with tile := 1 }, 2, 0⟩, .turn 0 5 1 2 0] } with cycle := 1 }
theorem witness_VectorMemory_turns : (atTurns.cluster 0).lastServed = 4 ∧ ((atTurns.cluster 0).tailFirst 0).any (fun v => v.cycle < atTurns.cycle) = true ∧ ((atTurns.cluster 0).tailFirst 1).any (fun v => v.cycle < atTurns.cycle) = true ∧
    (atTurns.cluster 0).busy ≤ atTurns.cycle ∧ atTurns.millPresents 0 = none ∧ atTurns.thread? 0 5 = some (inTurn false false) ∧ (inTurn false false).inst = 1 ∧ (inTurn false false).status = .blocked (.tail false) 3 0 ∧
    (∃ pre post, (atTurns.cluster 0).vreqs = pre ++ .turn 0 5 1 2 0 :: post ∧ ∀ u ∈ pre, u.tile % 4 ≠ 0) ∧
    (pendingTile.millPresents 0 = some 0 ∧ (pendingTile.cluster 0).queue[0]?.isSome = true ∧ (pendingTile.cluster 0).vreqs = []) :=
  ⟨by decide, by decide, by decide, by decide, by decide, by decide, by decide, by decide,
    ⟨[.vred ⟨.add, .int32, 1, 0, false, { (on t0).who t0 with tile := 1 }, 2, 0⟩], [], rfl, by decide⟩, by decide⟩
theorem witness_VectorMemory_vred : Vectorable (tiled .int32 .fp32 .fp32) at1 (.vred .add 2 ⟨0, 3⟩ .none) := ⟨_, rfl, by decide⟩
theorem witness_InningsAndTiles : Runs (on t0) t0 ∧ Full t0 [2] ∧ ((on t0).cluster 0).innings = none ∧ ((on t0).cluster 0).grants = [] ∧ (255 + 1 ≤ ((on t0).cluster 0).cmdsNow) ∧
    (((on t0).setCluster 0 { (on t0).cluster 0 with cmdsNow := 7 }).cluster 0).cmdsNow < 7 + 1 ∧ (on t0).innings 0 5 t0 = none ∧ ((leased none).cluster 0).innings = some lease5 ∧
    (leased none).cycle ≤ lease5.cycle + lease5.budget ∧ (lease5.tile = 0 ∧ lease5.slot = 5 ∧ lease5.inst = t0.inst ∧ lease5.ctx = t0.ctx) ∧
    (leased none).innings 0 5 t0 = some lease5 ∧ ((leased (some (aChain 0 1))).cluster 0).chain = some (aChain 0 1) ∧ t0.loops = [] ∧
    (let s : State := { (on t0).setCluster 0 { (on t0).cluster 0 with grants := [lease5] } with cycle := 1 }
     (s.cluster 0).grants = [] ++ lease5 :: [] ∧ ¬((s.ctx lease5.ctx).state.suspended = true ∨ s.cycle ≤ lease5.cycle) ∧ Unlogged s lease5.ctx 10 (siteOf (tileId 0 0) 0)) ∧
    (suspended.ctx lease5.ctx).state.suspended = true ∧ ({ leased none with cycle := 101 } : State).cycle > lease5.cycle + lease5.budget ∧
    (leased none).cycle ≤ lease5.cycle ∧ (lease5.key ≤ ({ lease5 with slot := 6 } : Lease).key ∧ ({ lease5 with slot := 4 } : Lease).key < lease5.key) ∧
    ((leased none).thread? 0 5) = some t0 ∧ t0.inst = lease5.inst ∧ ((t0.markEmpty 2 (.lease 8)).reg 2).prod = some (.lease lease5.n) := by decide
theorem witness_InningsAndTiles_tiles : (((on t0).cluster 0).tileOf 3).owner = none ∧ ((pendingTile.cluster 0).tileOf 3).owner = some (0, 5, t0.inst) ∧ (pendingTile.cluster 0).tilesFree [3] = false ∧
    ((tiled .fp32 .fp32 .fp32).cluster 0).tilesFree [1] = true ∧ (0, 6, (1 : BitVec 8)) ≠ (0, 5, at1.inst) := by decide
/-- The thread with an innings, two tiles of its own and a plane of weights; registers g1 and g2 hold an address and a length. -/
def milled (chain : Option Chain) (queue : List MillQueued) (t : Thread) : State :=
  (on t).setCluster 0 { (on t).cluster 0 with
    innings := some lease5, chain, queue, planes := [(0, ⟨.e4m3, List.replicate 256 [some 1], [], false⟩)], acc := [(0, ⟨some (0, 5, 1), .fp32, [], 0⟩), (1, ⟨some (0, 5, 1), .bf16, [], 0⟩)] }
abbrev mill1 : Thread := (with1 0x4000010000).write 2 128 false
/-- What a range of bytes gives. -/
abbrev spans (s : State) (t : Thread) (k : Access3) (va : Word) (n : Nat) : (BitVec 8 × Word) ⊕ Span := sum (s.span (s.who t) k (n / 65536 + 2) va n).2
theorem witness_MillstoneData_issue : Runs (milled none [] mill1) mill1 ∧ Full mill1 [1, 2] ∧ (milled none [] mill1).innings 0 5 mill1 = some lease5 ∧ (on mill1).innings 0 5 mill1 = none ∧
    (mill1.val 1).toNat % 64 = 0 ∧ (mill1.val 2).toNat % 64 = 0 ∧ 64 ≤ (mill1.val 2).toNat ∧ (mill1.val 2).toNat + 64 * 1022 ≤ 65536 ∧ 65536 < (mill1.val 2).toNat + 64 * 1023 ∧ (63 : Nat) < 64 ∧
    spans (milled none [] mill1) mill1 .read 0x4000010000 128 = .inr [(0x4000010000, 128)] ∧ spans (milled none [] mill1) mill1 .write 0x4000010000 65600 = .inr [(0x4000010000, 65536), (0x4000020000, 64)] ∧
    spans (milled none [] mill1) mill1 .read 0x40001FFFC0 128 = .inl (Cause.prot, 0x4000200000) ∧ Clean mill1 [1, 2] ∧ (bad1 0).pois 1 = true ∧
    ((milled none [] mill1).accTile 0).owner = some (0, 5, mill1.inst) ∧ ((milled none [] mill1).accTile 3).owner ≠ some (0, 5, mill1.inst) ∧
    lease5.cmds - 1 < (aChain 0 9).expect - (aChain 0 9).issued + 1 ∧ (aChain 0 6).expect - (aChain 0 6).issued + 1 ≤ lease5.cmds - 1 := by decide
def command (c : MillCmd) : MillQueued := ⟨c, (on mill1).who mill1, true, []⟩
def queuedMill (c : MillCmd) : State := milled none [command c] mill1
/-- The same in a slot of the Tailrace. -/
def queuedTail (c : MillCmd) : State := { queuedMill c with cycle := 1 }
def span65600 : Span := [(0x4000010000, 65536), (0x4000020000, 64)]
theorem witness_MillstoneData_complete : ((queuedMill (.scld [(0x4000010000, 128)] 1022 4)).millNow 0 0).map (·.cmd) = some (.scld [(0x4000010000, 128)] 1022 4) ∧
    Span.bytes [(0x4000010000, 128)] = 64 * 2 ∧ 1022 + 2 ≤ 1024 ∧ ((queuedMill (.wld .int3 true [(0x4000010000, 12288)] 0 0)).millNow 0 0).map (·.cmd) = some (.wld .int3 true [(0x4000010000, 12288)] 0 0) ∧
    ((queuedTail (.asave 0 span65600 4)).millNow 0 0).map (fun q => (q.cmd, q.started)) = some (.asave 0 span65600 4, true) ∧ span65600.foldl (fun n p => n + p.2) 0 = 65600 ∧
    (∀ q ∈ ((queuedTail (.asave 0 span65600 4)).cluster 0).queue, q.cmd ≠ .grant) ∧ Memory.wf (queuedTail (.asave 0 span65600 4)).mem = true ∧
    ((queuedTail (.aload 0 span65600 4)).millNow 0 0).map (fun q => (q.cmd, q.started)) = some (.aload 0 span65600 4, true) ∧ (on t0).millNow 0 0 = none ∧
    (queuedMill (.asave 0 span65600 4)).millNow 0 0 = none ∧ (queuedTail (.scld [(0x4000010000, 128)] 1022 4)).millNow 0 0 = none := by decide
theorem witness_MillstoneData_plane : (let s := queuedMill (.wld .int3 true [(0x4000010000, 12288)] 0 0)
    s.flaws = [] ∧ Span.bytes [(0x4000010000, 12288)] = 256 * 48 ∧ (∀ q ∈ ([(0x4000010000, 12288)] : Span), q.2 ≠ 0) ∧ ({ s with poison := [0x4000010008] } : State).isPoisoned (Span.at [(0x4000010000, 12288)] 9) = true ∧
    (16 * 0 + 3) / 64 % 1024 = 0 ∧ Tab.get false ([(0, true)] : Tab Bool) 0 = true) := by decide
theorem span_at (j : Nat) : Span.at span65600 j = if j < 65536 then 0x4000010000 + j else if j - 65536 < 64 then 0x4000020000 + (j - 65536) else 0 := rfl
theorem witness_MillstoneData_apart : ∀ j < 65600, ∀ j' < 65600, Span.at span65600 j = Span.at span65600 j' → j = j' := by
  intro j hj j' hj' h; rw [span_at, span_at] at h; split at h <;> split at h <;> (try split at h) <;> (try split at h) <;> omega
/-- The image of a tile of zeros in memory: its version is all that is not zero. -/
def loadable : State := { queuedTail (.aload 0 span65600 4) with mem := [(0x4000010000, 1)] }
theorem leBytes_zero : ∀ n, ∀ b ∈ leBytes 0 n, b = 0
  | 0, b, h => by cases h
  | n + 1, b, h => by
    rcases List.mem_cons.1 h with h | h
    · exact h
    · exact leBytes_zero n b h
theorem getD_zero (l : List Byte) (h : ∀ b ∈ l, b = 0) (k : Nat) : l.getD k 0 = 0 := by
  rw [List.getD_eq_getElem?_getD]
  cases e : l[k]? with
  | none => rfl
  | some b => exact h b (List.mem_of_getElem? e)
theorem image_eq : AccTile.reset.image = 1 :: (List.replicate 63 0 ++ (List.range 64).flatMap fun r => leBytes (AccTile.reset.row r).toNat 1024) := by
  unfold AccTile.image
  rw [show leBytes Config.millstoneVersion 4 ++ leBytes (tileCode AccTile.reset.ty) 4 ++ leBytes AccTile.reset.poison.toNat 8 ++ List.replicate 48 (0 : Byte) =
    1 :: List.replicate 63 0 from rfl, List.cons_append]
theorem image_reset (k : Nat) : AccTile.reset.image.getD (k + 1) 0 = 0 := by
  rw [image_eq, List.getD_cons_succ]
  refine getD_zero _ (fun b hb => ?_) k
  rcases List.mem_append.1 hb with hb | hb
  · exact List.eq_of_mem_replicate hb
  · obtain ⟨r, _, hb⟩ := List.mem_flatMap.1 hb
    have z : (AccTile.reset.row r).toNat = 0 := by simp [AccTile.row, AccTile.reset, Tab.get]
    replace hb : b ∈ leBytes (AccTile.reset.row r).toNat 1024 := hb
    rw [z] at hb
    exact leBytes_zero 1024 b hb
theorem witness_MillstoneData_sound : Sound loadable span65600 65600 ∧ (loadable.millNow 0 0).map (fun q => (q.cmd, q.started)) = some (.aload 0 span65600 4, true) :=
  ⟨⟨rfl, fun _ _ => rfl⟩, by decide⟩
theorem witness_MillstoneData_poisoned : (let s := { loadable with poison := [0x4000010008] }; s.flaws = [] ∧ s.isPoisoned (Span.at span65600 (8 * 1)) = true) ∧
    ((queuedTail (.asave 0 span65600 4)).sem 0 4).setAt ≠ some (queuedTail (.asave 0 span65600 4)).cycle := by decide
theorem witness_MillstoneData_image : ∀ j < 65600, spanByte loadable span65600 j = AccTile.reset.image.getD j 0 := by
  intro j hj
  cases j with
  | zero => rw [image_eq, List.getD_cons_zero]; rfl
  | succ k =>
    have hb (a : Nat) (h : 0x4000010000 < a) : loadable.byte a = 0 := by
      show memGet [(0x4000010000, 1)] a = 0
      simp only [memGet, if_neg (show ¬a = 0x4000010000 by omega)]; split <;> rfl
    rw [image_reset]
    unfold spanByte
    rw [span_at]
    split
    · exact hb _ (by omega)
    · split
      · exact hb _ (by omega)
      · omega
abbrev rows2 : List (Nat × Bool) := (List.range 2).map fun j => (j, false)
theorem witness_Chains : Runs (milled (some (aChain 0 2)) [] mill1) mill1 ∧ Full mill1 [1, 2, 3] ∧ (milled none [] mill1).innings 0 5 mill1 = some lease5 ∧ ((milled none [] mill1).cluster 0).chain = none ∧
    (lease5.cmds < 7 + 2 ∧ 6 + 2 ≤ lease5.cmds) ∧ Clean mill1 [1, 2] ∧ ((milled (some (aChain 0 2)) [] mill1).cluster 0).chain = some (aChain 0 2) ∧ (aChain 0 2).issued ≠ (aChain 0 2).expect ∧
    (aChain 2 2).issued = (aChain 2 2).expect ∧ (aChain 0 2).kind ≠ some true ∧ ((milled none [] mill1).cluster 0).planeFmt false = some .e4m3 ∧ ((milled none [] mill1).cluster 0).planeFmt true = none ∧
    (mill1.val 1).toNat % 64 = 0 ∧ (sum ((milled none [] mill1).rowAddresses ((milled none [] mill1).who mill1) 0x4000010000 64 0x10000 rows2).2) = .inr [(some 0x4000010000, false), (some 0x4000010040, false)] ∧
    ((mill1.val 2).toNat % 2 = 0 ∧ (mill1.val 2).toNat % 64 = 0 ∧ (mill1.val 2).toNat < 2 ^ 48) ∧ (aChain 1 2).issued < (aChain 1 2).expect ∧ (aChain 2 2).expect ≤ (aChain 2 2).issued ∧
    ((milled none [] mill1).cluster 0 |>.tileOf 0).owner = some (0, 5, mill1.inst) ∧ ((milled none [] mill1).cluster 0 |>.tileOf 0).ty = .fp32 ∧ ((milled none [] mill1).cluster 0 |>.tileOf 1).ty ≠ .fp32 ∧
    spans (milled none [] mill1) mill1 .read (mill1.val 1) 2048 = .inr [(0x4000010000, 2048)] := by decide
theorem witness_Chains_rows : (milled none [] mill1).released 0 5 .dev = true ∧ (fifo [entry 0 none] mill1).released 0 5 .dev = false ∧
    (sum ((milled none [] mill1).rowAddresses ((milled none [] mill1).who mill1) 0x5000000000 64 0x10000 rows2).2) = .inl (Cause.prot, 0x5000000000) := by decide
def mmaCmd : MillCmd := .mma 1 .e4m3 false [(some 0x4000010000, false)] 0 1 0 4 false
def cheCmd : MillCmd := .che 1 false 127 0 0 true 0 none 4 (some 7)
def folding : State := (queuedMill cheCmd).setCluster 0 { (queuedMill cheCmd).cluster 0 with caChain := 1 }
theorem witness_Chains_results : (∀ q ∈ ((queuedMill mmaCmd).cluster 0).queue, q.cmd ≠ .grant) ∧ ((queuedMill mmaCmd).millNow 0 0).map (·.cmd) = some mmaCmd ∧
    ((Tab.find ((queuedMill mmaCmd).cluster 0).planes 0).map fun p => p.cols.length) = some 256 ∧ (List.replicate 256 (0 : Int)).length = 256 ∧
    (folding.millNow 0 0).map (fun q => (q.cmd, q.started)) = some (cheCmd, true) ∧ (folding.cluster 0).caChain = 1 ∧
    ((folding.cluster 0).foldRow false 127 0 0 63).length = 256 := by decide +kernel
def plane1 : Plane := ⟨.e4m3, List.replicate 256 (List.replicate 128 (some 1)), [], false⟩
def plane2 : Plane := ⟨.bf16, [], List.replicate 256 (List.replicate 128 0x3F80), false⟩
/-- A cluster with a whole plane and an MMA in its queue. -/
def entering (p : Plane) (c : MillCmd) : State := (queuedMill c).setCluster 0 { (queuedMill c).cluster 0 with planes := [(0, p)] }
def bf16Cmd : MillCmd := .mma 1 .bf16 false [(some 0x4000010000, false)] 0 1 0 4 true
/-- The premises about the rows of a chain, sound and poisoned, in both kinds of chain, and about its fold. -/
theorem witness_Chains_entered : ((entering plane1 mmaCmd).millNow 0 0).map (·.cmd) = some mmaCmd ∧ Tab.find ((entering plane1 mmaCmd).cluster 0).planes 0 = some plane1 ∧ plane1.cols.length = 256 ∧
    (plane1.cols.getD 255 []).length = 128 ∧ AFmt.kPerRow .e4m3 ≤ 64 ∧ (List.replicate 256 false).length = 256 ∧ (entering plane1 mmaCmd).flaws = [] ∧ 0x4000010000 % 8 = 0 ∧
    ((entering plane2 bf16Cmd).millNow 0 0).map (·.cmd) = some bf16Cmd ∧ plane2.bits.length = 256 ∧ (plane2.bits.getD 255 []).length = 128 ∧ bf16Value 0x3F80 = some (2 ^ 133) ∧ bf16Value 0 = some 0 ∧ bf16Value 0x7F80 = none ∧
    ({ entering plane1 mmaCmd with poison := [0x4000010038] } : State).isPoisoned (0x4000010000 + 8 * 7) = true ∧ ((entering plane1 mmaCmd).sem 0 4).setAt ≠ some (entering plane1 mmaCmd).cycle := by decide +kernel
theorem witness_Chains_fold : (Tab.get (List.replicate 256 (0 : Int)) Cluster.reset.ca 5).length = 256 ∧ (Tab.get (List.replicate 256 false) Cluster.reset.caNan 5).length = 256 ∧
    (Tab.get (List.replicate 256 (0 : BitVec 32)) Cluster.reset.caSum 5).length = 256 ∧ isNan 0x7FC00000 = true ∧ isInf 0xFF800000 = true ∧ isNan 0x3F800000 = false ∧ isInf 0x3F800000 = false ∧
    (isFinite 0 = true ∧ magOf 0 = 0) ∧ (isFinite 0x3F800000 = true ∧ magOf 0x3F800000 ≠ 0) := by decide +kernel
/-- Registers for a Flume command: destination, source or pattern, length or descriptor. -/
abbrev flume1 (gb : Word) : Thread := (((t0.write 1 0x4000002000 false).write 2 0x4000001000 false).write 3 gb false)
theorem witness_FlumeCommands : flumeForm (.cpyW false 1 2 3 4 none) = some (.cpy, 1, 2, 3, 4, none, none) ∧ Runs (on (flume1 64)) (flume1 64) ∧ Full (flume1 64) [1, 2, 3] ∧ Clean (flume1 64) [1, 2, 3] ∧
    ((flume1 64).val 1).toNat % 8 = 0 ∧ (0x4000002004 : Word).toNat % 8 ≠ 0 ∧ (0x4000002002 : Word).toNat % 2 = 0 ∧ ((0xFFFFFFF8 : Word).toNat < 2 ^ 32 ∧ 2 ^ 32 ≤ (0x100000000 : Word).toNat) ∧
    (let gb : Word := 0x0004000300000040; 1 ≤ gb.toNat / 2 ^ 48 ∧ gb.toNat / 2 ^ 32 % 2 ^ 16 < gb.toNat / 2 ^ 48) ∧ ¬(1 ≤ (0x0004000400000040 : Word).toNat / 2 ^ 48 ∧ (0x0004000400000040 : Word).toNat / 2 ^ 32 % 2 ^ 16 < (0x0004000400000040 : Word).toNat / 2 ^ 48) ∧
    gives (on (flume1 0x4000003000)) (flume1 0x4000003000) .read 0x4000003000 = .inr 0x4000003000 ∧ (on t0).unitClear 0 5 0x4000003000 = true ∧ (fifo [entry 0 none] t0).unitClear 0 5 0x4000001000 = false ∧
    ((on t0).flume 0).queue.length < 32 ∧ Describes .cpys (leBytes 8 4 ++ leBytes 65536 4 ++ leBytes 1 4 ++ List.replicate 52 0) ∧ ¬Describes .cpys (leBytes 8 4 ++ leBytes 65537 4 ++ leBytes 1 4 ++ List.replicate 52 0) ∧
    Describes .cpysel (leBytes 65536 4 ++ leBytes 1 4 ++ List.replicate 56 0) ∧ ¬Describes .cpysel (List.replicate 64 0) := by
  refine ⟨rfl, ?_, ?_, ?_, ?_, ?_, ?_, ?_, ?_, ?_, ?_, ?_, ?_, ?_, ?_, ?_, ?_, ?_⟩ <;> (try unfold Describes) <;> decide
/-- The descriptor's bank serves its read in the sequencer's slot, and does not in another. -/
theorem witness_FlumeCommands_slots : ServesRead (far 2 (flume1 0x4000003000)) 0x4000003000 ∧ ¬ServesRead (far 0 (flume1 0x4000003000)) 0x4000003000 :=
  ⟨serves_now _ _ _ (.inl ⟨rfl, rfl⟩) (by decide) (by decide), serves_never _ _ _ (by decide)⟩
def aCmd (kind : FKind) : FCmd := ⟨kind, 0x4000002000, 0x4000001000, 64, [], 0, 1, 4, some 5, some 7, false, (on t0).who t0, 0, 0⟩
def aRun (kind : FKind) (packets : List FPacket) (done : Bool) : FRun := ⟨3, aCmd kind, 0, done, none, packets, none, [], []⟩
def aPacket : FPacket := ⟨0, 0x4000002000, [(0x4000002000, List.replicate 64 7)], false, 8, []⟩
def flowing (queue runs : List FRun) : State :=
  { on t0 with flumes := [(0, ⟨queue, runs, [⟨5, 0x4000000000, 0x200000, .mem 0x4000000000 true true true, 0, false, 0⟩]⟩)] }
abbrev reds : FKind := .red .add .int32 false
abbrev seqs : FKind := .red .add .int32 true
theorem witness_FlumeEvents_start : ((flowing [aRun .cpy [] false] []).flume 0).queue = [] ++ aRun .cpy [] false :: [] ∧ (flowing [] []).flumesStop 5 = false ∧ suspended.flumesStop 5 = true ∧ ({ aRun .cpysel [] false with sel := some [0, 3] } : FRun).sel = some [0, 3] ∧
    (flowing [aRun .cpy [] false] []).storesDone (aRun .cpy [] false).cmd.who = true ∧ (aRun .cpy [] false).packets = [] ∧ (aRun .cpy [] false).parts = [] ∧ (aRun .cpy [] false).fault = none ∧ (aRun .cpy [] false).pos < commandBytes (aCmd .cpy) [] ∧
    commandBytes { aCmd .cpysel with desc := leBytes 64 4 } [] ≤ (aRun .cpysel [] false).pos ∧ (∃ r ∈ ((flowing [] [aRun .cpy [] false]).flume 0).runs, r.done = false) ∧
    (sum ((flowing [] []).readBitmap 0 (aCmd .cpysel).who 0x4000001000 1).2) = .inr (List.replicate 8 0) ∧ (sum ((flowing [] []).readBitmap 0 (aCmd .cpysel).who 0x5000000000 1).2) = .inl (Cause.prot, 0x5000000000, false) :=
  ⟨by decide, by decide, by decide, by decide, by decide, by decide, by decide, by decide, by decide, by decide, ⟨aRun .cpy [] false, by decide, rfl⟩, by decide, by decide⟩
theorem witness_FlumeEvents_stores : (let s := flowing [aRun .cpy [] false] []
    (s.setTile 0 { s.tile 0 with fifo := [stored 0 0x4000001000 7 0xFF none] }).storesDone { (aRun .cpy [] false).cmd.who with after := 1 } = false) := by decide
theorem witness_FlumeEvents_read : ((flowing [] [aRun .cpy [] false]).flume 0).runs = [] ++ aRun .cpy [] false :: [] ∧ (aRun .cpy [] false).done = false ∧ (0 : Nat) < commandBytes (aCmd .cpy) [] ∧ 0 < runBytes (aCmd .cpy) ∧
    (runAt (aCmd .cpy) [] 0).1 = some 0x4000001000 ∧ (runAt (aCmd .fill) [] 0).1 = none ∧ (sum ((flowing [] []).flumeAccess 0 (aCmd .cpy).who .write true 0x4000002000).2) = .inr (0x4000002000, 0x4000000000, 0x200000) ∧
    (sum ((flowing [] []).flumeAccess 0 (aCmd .cpy).who .read true 0x5000000000).2) = .inl (Cause.prot, false) ∧ 64 ≤ 0 + 64 ∧ (∀ r ∈ ((flowing [] []).flume 0).runs, r.done = true) ∧
    (aRun .cpy [aPacket] false).packets ≠ [] := by decide
/-- The slots of a Flume at the banks it reads and writes, and other cycles. -/
theorem witness_FlumeEvents_slots : (let s : State := { flowing [aRun .cpysel [] false] [] with cycle := 3 }
    s.cycle % 4 = 3 ∧ (∀ j ∈ banksOf 0x4000001000 64, s.slotUsed j = false) ∧ (∀ j ∈ banksOf 0x4000002000 64, s.slotUsed j = false) ∧
    (sum (s.readBitmap 0 (aCmd .cpysel).who 0x4000001000 1).2) = .inr (List.replicate 8 0) ∧ (aRun .cpysel [] false).sel = none) ∧
    (flowing [] []).cycle % 4 ≠ 3 ∧ banksOf 0x4000001000 64 ≠ [] := by decide
theorem witness_FlumeEvents_land : (((flowing [] [aRun .cpy [aPacket] true]).flume 0).runs.map fun r => r.packets.map fun p => (r, p)).flatten[0]? = some (aRun .cpy [aPacket] true, aPacket) ∧
    reduces (aCmd .cpy) = false ∧ (aRun .cpy [aPacket] true).fault = none ∧ aPacket.writes = [(0x4000002000, List.replicate 64 7)] ∧ List.replicate 64 (7 : Byte) ≠ [] ∧ Memory.wf (flowing [] []).mem = true ∧
    inSram 0x4000002000 = true ∧ (aRun reds [aPacket] true).packets.head? = some aPacket ∧ ((flowing [] []).ctx 5).mode = 0 ∧ Tab.get 0 ((flowing [] []).tile 0).expq (0x4000002000 / 256 * 65536) = (aCmd seqs).q ∧
    ((flowing [] []).tile 0).hold = [] ∧ Tab.get 0 ((flowing [] []).tile 0).expq 1 ≠ ({ aCmd seqs with q := 1 } : FCmd).q ∧ (flowing [] []).mayLand (aRun .cpy [aPacket] true) aPacket = true ∧
    ((flowing [] []).sem 0 5).setAt ≠ some (flowing [] []).cycle ∧ ({ Sem.zero with setAt := some 0 } : Sem).setAt = some (flowing [] []).cycle := by decide
/-- Flume commands of a context that is stopped: a packet that has begun to write lands, the last one read and not begun does not. -/
def stoppedFlow (runs : List FRun) : State := (flowing [] runs).setCtx 5 { (flowing [] []).ctx 5 with state := .stalled }
def aRun64 : FRun := { aRun .cpy [aPacket] true with pos := 64 }
theorem witness_FlumeEvents_stopped : (stoppedFlow [aRun64]).flumesStop 5 = true ∧ (flowing [] [aRun64]).flumesStop 5 = false ∧ aRun64.packets = [aPacket] ∧ aPacket.start + (List.replicate 64 (7 : Byte)).length = aRun64.pos ∧
    (((stoppedFlow [aRun64]).flume 0).runs.map fun r => r.packets.map fun p => (r, p)).flatten[0]? = some (aRun64, aPacket) ∧ (stoppedFlow [aRun64]).mayLand aRun64 aPacket = false ∧
    (let r : FRun := { aRun .cpy [aPacket] true with pos := 128 }; (stoppedFlow [r]).mayLand r aPacket = true) := by decide
def aPart (seq : Bool) : RedPart := ⟨.add, .int32, 0x4000002000, List.replicate 64 1, false, (on t0).who t0, 0, 0, !seq, 3, 0, 8, []⟩
theorem witness_FlumeEvents_apply : (let s : State := { (flowing [] [{ aRun reds [] true with parts := [(8, 1, 0)] }]).setBank 0 [.red (aPart false)] with cycle := 6 }
     s.bank (0 * 16 + 0) = .red (aPart false) :: [] ∧ s.cycle % 8 = 6 ∧ s.slotUsed (0 * 16 + 0) = false ∧ Unlogged s (aPart false).who.ctx 2 (siteOf 0 0) ∧ Memory.wf s.mem = true ∧ s.flaws = [] ∧
     (aPart false).bytes.length % 4 = 0 ∧ ((s.flume 0).runs.find? (·.number == 3)).map (fun r => (r.fault, r.parts.find? (·.1 == 8))) = some (none, some (8, 1, 0)) ∧
     (s.useSlot 0).slotUsed (0 * 16 + 0) = true ∧ ({ s with cycle := 5 } : State).cycle % 8 ≠ 6 ∧ s.bankLive (.red (aPart true)) = true ∧ (aPart true).arr = false) ∧ (on t0).bank (0 * 16 + 0) = [] := by decide
theorem witness_EmptyOperands : operandsOf (.add 3 ⟨1, true⟩ ⟨2, false⟩) = some ([⟨1, true⟩, ⟨2, false⟩], [3], false) ∧ operandsOf .eret = some ([], [], true) ∧ Runs (on (t0.markEmpty 1 .recv)) (t0.markEmpty 1 .recv) ∧
    ((t0.markEmpty 1 .recv).reg 1).prod ≠ none ∧ ((t0.markEmpty 2 .recv).reg 2).prod ≠ none ∧ (on t0).cur.2 < 248 ∧ ¬(onSlot 248 t0).cur.2 < 248 ∧ Firmware (onSlot 248 t0) := by decide
/-- Registers that an instruction has left empty itself: they do not make it wait; another one does. -/
theorem witness_EmptyOperands_own : (let u := (t0.markEmpty 0 .recv).markEmpty 1 (.access 3)
     operandsOf .recv = some ([], payload, false) ∧ Runs (on u) u ∧ (u.reg 0).prod = some .recv ∧ (u.reg 1).prod ≠ none ∧ (u.reg 1).prod ≠ some .recv) ∧
    (let u := t0.markEmpty 2 (.hget h3); operandsOf (.hget 2 ⟨1, false⟩) = some ([⟨1, false⟩], [2], false) ∧ (u.reg 2).prod = some (.hget h3) ∧ handleDev h3 = (on u).fabSelf ∧ handleTile h3 = (on u).cur.1) ∧
    (let u := t0.markEmpty 2 (.access 3); ∀ k, (u.reg 2).prod ≠ some (.hget k)) := ⟨by decide, by decide, fun _ h => nomatch (show some (Producer.access 3) = _ from h)⟩
/-- A next state in which the thread runs on. -/
def runsOn (o : Out) : Bool := match o with
  | .next s => match s.me with
    | some t => decide (t.status = .ready)
    | none => false
  | _ => false
theorem witness_RegisterFrame : writesOnly (.add 3 ⟨1, true⟩ ⟨2, false⟩) = some (some 3) ∧ writesOnly (.std ⟨1, false⟩ ⟨2, false⟩ 0) = some none ∧ Runs (on at1) at1 ∧
    runsOn (exec (.add 3 ⟨1, true⟩ ⟨2, false⟩) (on at1)) = true ∧ runsOn (exec (.std ⟨1, false⟩ ⟨2, false⟩ 0) (on at1)) = true := by decide
def trapInfo (lost : List LostStore) : TrapInfo := ⟨0x0F, 2, 7, 0x4000000100, 0, 0x4000000100, 0x4000000100, false, lost, false⟩
def trapRing (prod cons : Word) : State := (on t0).setCtx 5 { (on t0).ctx 5 with trapRing := 0x4000030004, trapProd := prod, trapCons := cons }
theorem witness_TrapRecord : (trapInfo []).written = false ∧ Memory.wf (trapRing 0 0).mem = true ∧ (trapRing 0 0).populated (((trapRing 0 0).ctx 5).trapRing.toNat % 2 ^ 48 / 32 * 32) = true ∧
    (((trapRing 14 0).ctx 5).trapProd - ((trapRing 14 0).ctx 5).trapCons).toNat + 1 + ([⟨0x4000001000, 1, 2⟩] : List LostStore).length ≤ 2 ^ (((trapRing 0 0).ctx 5).trapRing.toNat % 32) ∧
    2 ^ (((trapRing 0 0).ctx 5).trapRing.toNat % 32) < (((trapRing 16 0).ctx 5).trapProd - ((trapRing 16 0).ctx 5).trapCons).toNat + 1 ∧ (trapInfo [⟨0x4000001000, 1, 2⟩]).lost.length % 2 = 1 ∧
    (0x4000001000 < 2 ^ 48) ∧ ¬(247 : Nat) ≥ 248 ∧ (trapRing 0 0).irq.held.length < 256 ∧ t0.status = .ready ∧ (trapRing 16 0).thread? 0 254 = none ∧
    ((trapRing 0 0).setThread 0 254 t0).thread? 0 254 = some t0 := by decide
theorem witness_TrapRecord_status : ∀ w n k, t0.status ≠ .blocked w n k := nofun
/-- A NOP at the thread's PC. -/
def atPc (word : Nat) : State := { on t0 with mem := memWrite [] 0x4000000100 (leBytes word 4), agenda := [.wheel 0] }
/-- The bytes of a fetch and whether they are poisoned, or the cause and the address. -/
abbrev fetched (s : State) (pc : Pc) : (BitVec 8 × Pc × Nat) ⊕ (List Byte × Bool) := match (s.fetch (s.who t0) t0.born pc).2 with
  | .error e => .inl e
  | .ok x => .inr (x.bytes, x.bad)
/-- What bytes decode to. -/
def reads (bs : List Byte) : Option (Instr × List Byte) := match decode bs with
  | .ok x => some x
  | .error _ => none
theorem witness_StepRunsDecoded : (atPc 0xA0).agenda = .wheel 0 :: [] ∧ (atPc 0xA0).thread? 0 5 = some t0 ∧ t0.held = [] ∧ t0.loopPending = false ∧ firstHeld [Held.chainOpen 3] = some (.chainOpen 3) ∧ t0.blockedIn = none ∧
    fetched (atPc 0xA0) t0.pc = .inr ([0xA0, 0, 0, 0], false) ∧ reads [0xA0, 0, 0, 0] = some (.nop, []) ∧ fetched (atPc 0x001002A0) t0.pc = .inr ([0xA0, 2, 0x10, 0], false) ∧ reads [0xA0, 2, 0x10, 0] = none ∧
    fetched { atPc 0xA0 with poison := [0x4000000100] } t0.pc = .inr ([0xA0, 0, 0, 0], true) ∧ (atPc 0xA0).past = [] ∧ (atPc 0xA0).flaws = [] ∧
    sum ((atPc 0xA0).access ((atPc 0xA0).who t0) .fetch true (t0.pc.zeroExtend 64)).2 = .inr 0x4000000100 ∧
    Instr.wf .nop = true ∧ Instr.size .nop = 4 ∧ memRead (atPc 0xA0).mem 0x4000000100 4 = encode .nop ∧ (∀ u ∈ unitsOf 0x4000000100 4, (atPc 0xA0).poison.contains u = false) := by decide +kernel
/-- Fetches that fault at the first word, and at the second word of an instruction of 8 and of 12 bytes. -/
abbrev wordAt (v : Nat) : State := { on t0 with mem := memWrite [] 0x40001FFFFC (leBytes v 4) }
theorem witness_StepRunsDecoded_faults : fetched (atPc 0xA0) 0x5000000000 = .inl (Cause.prot, 0x5000000000, 4) ∧
    fetched (wordAt 0x12) 0x40001FFFFC = .inl (Cause.prot, 0x4000200000, 8) ∧ fetched (wordAt 0x13) 0x40001FFFFC = .inl (Cause.prot, 0x4000200000, 12) ∧
    (wordAt 0x13).past = [] ∧ (wordAt 0x13).flaws = [] ∧ leNat (memRead (wordAt 0x13).mem 0x40001FFFFC 4) % 4 ≥ 2 := by decide +kernel
/-- A blocked thread goes on with its instruction, and the agenda of a running machine takes the turn of a tile that has a thread, or ends the cycle. -/
theorem witness_StepRunsDecoded_turns : (inTurn false false).blockedIn = some vadds ∧ (inTurn false false).held = [] ∧ (inTurn false false).loopPending = false ∧
    (let s : State := { on t0 with agenda := [] }; s.agenda = [] ∧ s.inflight = [] ∧ s.pending = none ∧ s.nextTile = some 0) ∧ (let s : State := { on t0 with agenda := [], focus := 1 }; s.focus ≠ 0 ∧ s.nextTile = none) ∧
    (∃ w n c, (inTurn false false).status = .blocked w n c) := ⟨rfl, rfl, rfl, by decide, by decide, ⟨.tail false, 3, 0, rfl⟩⟩
theorem witness_StepRunsDecoded_sems : ({ on t0 with agenda := [] } : State).semWork = none := rfl
theorem witness_StepRunsDecoded_status : (∀ x, t0.status ≠ .stopped x) ∧ (∀ n c, t0.status ≠ .blocked .dying n c) ∧ (∀ n c, t0.status ≠ .blocked .bank n c) ∧ ∀ g n c, t0.status ≠ .blocked (.tail g) n c :=
  ⟨nofun, nofun, nofun, nofun⟩
theorem witness_DecodeEncode : (Instr.vadd ⟨0, 0⟩ ⟨1, 0⟩ ⟨2, 0⟩ (.rot 9 63) .none).wf = true ∧ (Instr.li true true 4 0xFFFFFFFF).wf = true ∧ reads [0xA0, 0, 0, 0, 9] = some (.nop, [9]) := by decide
/-- A step that answers a next state. -/
def steps (s : State) : Bool := match step s with
  | .next _ => true
  | _ => false
theorem witness_StepKeepsInvariant : Memory.wf (atPc 0xA0).mem = true ∧ steps (atPc 0xA0) = true ∧ steps State.reset = true := by decide

/-! ### Worked examples of the spec (R287 to R290, R297, R306 to R309, R322, R324): what g4 holds after one instruction -/

/-- g4 after an instruction of a thread with g1, g2 and g7. -/
def g4After (i : Instr) (g1 g2 g4 g7 : Word) : Option Word :=
  match exec i (on ((((t0.write 1 g1 false).write 2 g2 false).write 4 g4 false).write 7 g7 false)) with
  | .next s => s.me.map fun t => t.val 4
  | _ => none
theorem test_add_wraps : g4After (.add 4 ⟨1, false⟩ ⟨2, false⟩) 0x7FFFFFFFFFFFFFFF 1 0 0 = some 0x8000000000000000 := by decide
theorem test_counts : g4After (.clz 4 ⟨1, false⟩) 0xF01000 0 0 0 = some 40 ∧ g4After (.ctz 4 ⟨1, false⟩) 0xF01000 0 0 0 = some 12 ∧
    g4After (.bswap 4 ⟨1, false⟩) 0xF01000 0 0 0 = some 0x0010F00000000000 := by decide +kernel
theorem test_div : g4After (.div 4 ⟨1, false⟩ ⟨2, false⟩) 0xFFFFFFFFFFFFFFF9 2 0 0 = some 0xFFFFFFFFFFFFFFFD ∧ g4After (.divu 4 ⟨1, false⟩ ⟨2, false⟩) 0xFFFFFFFFFFFFFFF9 2 0 0 = some 0x7FFFFFFFFFFFFFFC ∧
    g4After (.div 4 ⟨1, false⟩ ⟨2, false⟩) 0x8000000000000000 0xFFFFFFFFFFFFFFFF 0 0 = some 0x8000000000000000 ∧ g4After (.div 4 ⟨1, false⟩ ⟨2, false⟩) 5 0 0 0 = some 0xFFFFFFFFFFFFFFFF := by decide +kernel
theorem test_rem : g4After (.rem 4 ⟨1, false⟩ ⟨2, false⟩) 0xFFFFFFFFFFFFFFF9 2 0 0 = some 0xFFFFFFFFFFFFFFFF ∧ g4After (.remu 4 ⟨1, false⟩ ⟨2, false⟩) 0xFFFFFFFFFFFFFFF9 2 0 0 = some 1 ∧
    g4After (.rem 4 ⟨1, false⟩ ⟨2, false⟩) 0x8000000000000000 0xFFFFFFFFFFFFFFFF 0 0 = some 0 := by decide +kernel
theorem test_bitfields : g4After (.ext 4 ⟨7, false⟩ 12 7) 0 0 0 0xABCDEF = some 0xBC ∧ g4After (.ins 4 ⟨7, false⟩ 8 3) 0 0 0x12345678 0xABCD = some 0x12345D78 := by decide +kernel
theorem test_set : g4After (.set .lt 4 ⟨1, false⟩ ⟨2, false⟩) 0xFFFFFFFFFFFFFFFF 0 0 0 = some 1 ∧ g4After (.set .ltu 4 ⟨1, false⟩ ⟨2, false⟩) 0xFFFFFFFFFFFFFFFF 0 0 0 = some 0 ∧
    g4After (.seti .ltu 4 ⟨1, false⟩ 100) 0xFFFFFFFFFFFFFFFF 0 0 0 = some 0 ∧ g4After (.seti .eq 4 ⟨1, false⟩ 0x7FF) 0xFFFFFFFFFFFFFFFF 0 0 0 = some 1 := by decide
theorem test_sel : g4After (.sel 4 ⟨7, false⟩ ⟨1, false⟩ ⟨2, false⟩) 11 22 0 0x100 = some 11 := by decide
theorem test_fmul : g4After (.fmul .rne 4 ⟨1, false⟩ ⟨2, false⟩) 0x3F800001 0x3F800001 0 0 = some 0x3F800002 ∧ g4After (.fmul .rup 4 ⟨1, false⟩ ⟨2, false⟩) 0x3F800001 0x3F800001 0 0 = some 0x3F800003 := by decide +kernel
theorem test_fcvt : g4After (.fcvt .f2i .rtz 4 ⟨1, false⟩) 0xC0000001 0 0 0 = some 0xFFFFFFFFFFFFFFFE ∧ g4After (.fcvt .f2i .rdn 4 ⟨1, false⟩) 0xC0000001 0 0 0 = some 0xFFFFFFFFFFFFFFFD ∧
    g4After (.fcvt .f2bf .rne 4 ⟨1, false⟩) 0xC0000001 0 0 0 = some 0xC000 ∧ g4After (.fcvt .f2bf .rdn 4 ⟨1, false⟩) 0xC0000001 0 0 0 = some 0xC001 ∧
    g4After (.fcvt .f2e4 .rne 4 ⟨1, false⟩) 0x43E80000 0 0 0 = some 0x7E ∧ g4After (.fcvt .f2e4 .rne 4 ⟨1, false⟩) 0x3FA40000 0 0 0 = some 0x3A := by decide +kernel
theorem test_li : g4After (.li false false 4 0x9ABCDEF0) 0 0 0 0 = some 0xFFFFFFFF9ABCDEF0 ∧ g4After (.li true false 4 0x12345678) 0 0 0xFFFFFFFF9ABCDEF0 0 = some 0x123456789ABCDEF0 := by decide

end Sys2Proof.Tests
end

section
/-! FETST, and words that no instruction has. A fetch keeps the current thread and leaves every thread as it was; it yields as many bytes as the length field
of its first word asks for; so a first word of 32 bits that the decoder refuses stops the thread with ILLEGAL (R32, R34). FETST itself (R71) comes last. -/

namespace Sys2Proof
open Sys2Proof.Machine

/-! ### Bytes and the length of an instruction (R6, R32) -/

theorem natToBytes_length (k : Nat) : ∀ n, (natToBytes k n).length = k := by
  induction k with
  | zero => intro n; rfl
  | succ k ih => intro n; simp [natToBytes, ih]

theorem natToBytes_take {j k : Nat} (h : j ≤ k) : ∀ n, (natToBytes k n).take j = natToBytes j n := by
  induction j generalizing k with
  | zero => intro n; simp [natToBytes]
  | succ j ih =>
    intro n
    obtain ⟨k, rfl⟩ : ∃ m, k = m + 1 := ⟨k - 1, by omega⟩
    simp [natToBytes, ih (Nat.le_of_succ_le_succ h)]

theorem bytesToNat_natToBytes (k : Nat) : ∀ n, bytesToNat (natToBytes k n) = n % 256 ^ k := by
  induction k with
  | zero => intro n; simp [natToBytes, bytesToNat, Nat.mod_one]
  | succ k ih =>
    intro n
    simp only [natToBytes, bytesToNat, ih, BitVec.toNat_ofNat, Nat.pow_succ', Nat.mod_mul (a := 256), Nat.reducePow]

theorem bytesToNat_lt (bs : List Byte) : bytesToNat bs < 256 ^ bs.length := by
  induction bs with
  | nil => simp [bytesToNat]
  | cons b bs ih =>
    have hb : b.toNat < 256 := b.isLt
    rw [bytesToNat, List.length_cons, Nat.pow_succ']
    omega

theorem bytesToNat_take_one (bs : List Byte) : bytesToNat (bs.take 1) = bytesToNat bs % 256 := by
  cases bs with
  | nil => rfl
  | cons b bs =>
    have hb : b.toNat < 256 := b.isLt
    simp only [List.take_succ_cons, List.take_zero, bytesToNat]
    omega

/-- The length stands in the two lowest bits, so in the first byte. -/
theorem lengthOf_mod {n m : Nat} (h : 4 ∣ m) : lengthOf (n % m) = lengthOf n := by
  simp only [lengthOf, Nat.mod_mod_of_dvd n h]

theorem lengthOf_take_one (bs : List Byte) : lengthOf (bytesToNat (bs.take 1)) = lengthOf (bytesToNat bs) := by
  rw [bytesToNat_take_one, lengthOf_mod (by decide)]

theorem lengthOf_of_mod_four {n : Nat} (h : n % 4 = 1) : lengthOf n = 4 := by simp only [lengthOf, h]

theorem four_dvd_lengthOf (n : Nat) : 4 ∣ lengthOf n ∧ 4 ≤ lengthOf n := by
  simp only [lengthOf]
  split <;> decide

/-! ### Decoding of instructions of one word -/

/-- Decoding the bytes of a one-word instruction is decoding their number. -/
theorem decode_of_length_four {bs : List Byte} (hl : lengthOf (bytesToNat bs) = 4) (hb : 4 ≤ bs.length) :
    decode bs = (decodeNat (bytesToNat (bs.take 4))).map fun i => (i, bs.drop 4) := by
  simp only [decode, lengthOf_take_one, hl, Nat.not_lt.2 hb, if_false]
  cases decodeNat (bytesToNat (bs.take 4)) <;> rfl

theorem decodeTableWord_of_length_four {w : Nat} (hl : lengthOf w = 4) : decodeTableWord 32 w = (decodeNat (w % 2 ^ 32)).toOption := by
  have hn : bytesToNat (natToBytes 12 (w % 2 ^ 32)) = w % 2 ^ 32 := by
    rw [bytesToNat_natToBytes]; omega
  have ht : bytesToNat ((natToBytes 12 (w % 2 ^ 32)).take 4) = w % 2 ^ 32 := by
    rw [natToBytes_take (by decide), bytesToNat_natToBytes]; omega
  have hd := decode_of_length_four (bs := natToBytes 12 (w % 2 ^ 32)) (by rw [hn, lengthOf_mod (by decide), hl])
    (by rw [natToBytes_length]; decide)
  rw [decodeTableWord, hd, ht]
  cases decodeNat (w % 2 ^ 32) <;> rfl

end Sys2Proof

namespace Sys2Proof.Machine

/-! ### What a fetch leaves (R33, R108) -/

/-- The current thread is the same one, and the threads of every tile are as they were. -/
def State.KeepsThreads (s s1 : State) : Prop := s1.cur = s.cur ∧ ∀ k, (s1.tile k).threads = (s.tile k).threads

namespace State.KeepsThreads

theorem refl (s : State) : s.KeepsThreads s := ⟨rfl, fun _ => rfl⟩

theorem trans {s s1 s2 : State} (h : s.KeepsThreads s1) (h' : s1.KeepsThreads s2) : s.KeepsThreads s2 :=
  ⟨h'.1.trans h.1, fun k => (h'.2 k).trans (h.2 k)⟩

theorem of_tiles {s s1 : State} (hc : s1.cur = s.cur) (ht : s1.tiles = s.tiles) : s.KeepsThreads s1 :=
  ⟨hc, fun k => by simp only [State.tile, ht]⟩

theorem setTile {s : State} {k : Nat} {x : Tile} (h : x.threads = (s.tile k).threads) : s.KeepsThreads (s.setTile k x) := by
  refine ⟨rfl, fun j => ?_⟩
  by_cases e : j = k
  · subst e; simp [h]
  · rw [State.tile_setTile_ne _ _ e]

theorem me_eq {s s1 : State} (h : s.KeepsThreads s1) : s1.me = s.me := by
  obtain ⟨hc, ht⟩ := h
  simp only [State.me, State.thread?, hc, ht]

theorem foldl {α : Type} {f : State → α → State} (h : ∀ (s : State) (a : α), s.KeepsThreads (f s a)) (l : List α) :
    ∀ s : State, s.KeepsThreads (l.foldl f s) := by
  induction l with
  | nil => exact refl
  | cons a l ih => exact fun s => (h s a).trans (ih (f s a))

end State.KeepsThreads

theorem State.showFlaw_keepsThreads (s : State) (f : Flaw) : s.KeepsThreads (s.showFlaw f) := by
  cases f with
  | sramCe | sramUe => exact .of_tiles rfl rfl
  | hbmCe | hbmUe =>
    unfold State.showFlaw
    dsimp only
    split
    · exact .refl s
    · exact .of_tiles rfl rfl
  | bridgeLost | stateUe | saveWrite => exact .refl s

theorem State.touch_keepsThreads (s : State) (u : Nat) : s.KeepsThreads (s.touch u) := by
  unfold State.touch
  split
  · exact .refl s
  · exact (State.KeepsThreads.of_tiles rfl rfl).trans (.foldl State.showFlaw_keepsThreads _ _)

theorem State.readBytes_keepsThreads (s : State) (pa n : Nat) : s.KeepsThreads (s.readBytes pa n).1 :=
  .foldl State.touch_keepsThreads _ s

/-- What a walk does at one entry: it reads the entry from memory, unless the walker holds it. -/
theorem State.heldOrRead_keepsThreads {s s1 : State} {held bad : Bool} {bs bs1 : List Byte} {pa n : Nat}
    (h : (if held = true then (s, bs, false) else s.readBytes pa n) = (s1, bs1, bad)) : s.KeepsThreads s1 := by
  split at h
  · cases h; exact .refl s
  · have hr := s.readBytes_keepsThreads pa n
    rwa [h] at hr

theorem State.walk_keepsThreads (s : State) (ctx : BitVec 6) (ws : List WalkEntry) (va level table : Nat) :
    s.KeepsThreads (s.walk ctx ws va level table).1 := by
  fun_induction State.walk s ctx ws va level table with
  | case1 => exact .refl _
  | case2 | case3 | case4 | case5 | case6 => exact State.heldOrRead_keepsThreads ‹_›
  | case7 s table s1 _ _ _ _ _ _ l t _ s2 _ _ hwalk _ _ _ hread ih =>
    rw [hwalk] at ih
    exact (State.heldOrRead_keepsThreads hread).trans ih

theorem State.count1_keepsThreads (s : State) (w : Issuer) (c : Nat) : s.KeepsThreads (s.count1 w c) := .setTile rfl

/-- A translation leaves what its walk leaves: beyond it, it changes no more than what the walker holds. -/
theorem State.translateIn_keepsThreads (s : State) (es : List TlbEntry) (cap cl : Nat) (ctx : BitVec 6) (va : Word) :
    s.KeepsThreads (s.translateIn es cap cl ctx va).1 := by
  have hw := s.walk_keepsThreads ctx (s.walker cl) va.toNat 3 (baseOf (s.ctx ctx).ptroot 12)
  unfold State.translateIn
  split
  · exact .refl s
  split
  · exact .refl s
  split <;> rename_i heq <;> rw [heq] at hw
  · exact hw
  · split <;> refine hw.trans ?_ <;> dsimp only <;> split <;> exact .of_tiles rfl rfl

theorem State.translate_keepsThreads (s : State) (w : Issuer) (va : Word) : s.KeepsThreads (s.translate w va).1 := by
  have hs := s.translateIn_keepsThreads (s.tile w.tile).tlb 512 (clusterOf w.tile) w.ctx va
  unfold State.translate
  split
  rename_i heq
  rw [heq] at hs
  refine hs.trans ?_
  dsimp only
  split
  · exact (State.KeepsThreads.setTile (by rfl)).trans (State.count1_keepsThreads _ _ _)
  · exact .setTile rfl

theorem State.access_fst (s : State) (w : Issuer) (k : Access3) (hbm : Bool) (va : Word) : (s.access w k hbm va).1 = (s.translate w va).1 := by
  unfold State.access
  split <;> rename_i heq <;> rw [heq]
  split <;> rfl

theorem State.fetchWord_keepsThreads (s : State) (w : Issuer) (old : Option Nat) (pc : Pc) : s.KeepsThreads (s.fetchWord w old pc).1 := by
  have ha := s.translate_keepsThreads w (pc.zeroExtend 64)
  rw [← State.access_fst s w .fetch true] at ha
  unfold State.fetchWord
  split <;> rename_i heq <;> rw [heq] at ha
  · exact ha
  · exact ha.trans (State.readBytes_keepsThreads _ _ _)

theorem State.fetchWords_keepsThreads (s : State) (w : Issuer) (old : Option Nat) (pc : Pc) (n : Nat) :
    s.KeepsThreads (s.fetchWords w old pc n).1 := by
  induction n generalizing s pc with
  | zero => exact .refl s
  | succ n ih =>
    have hw := s.fetchWord_keepsThreads w old pc
    unfold State.fetchWords
    split <;> rename_i heq <;> rw [heq] at hw
    · exact hw
    · rename_i s1 _
      have hr := ih s1 (pc + 4)
      split <;> rename_i heq' <;> rw [heq'] at hr <;> exact hw.trans hr

theorem State.fetchAs_keepsThreads (s : State) (w : Issuer) (old : Option Nat) (pc : Pc) : s.KeepsThreads (s.fetchAs w old pc).1 := by
  have hw := s.fetchWords_keepsThreads w old pc 1
  unfold State.fetchAs
  split <;> rename_i heq <;> rw [heq] at hw
  · exact hw
  · rename_i s1 x
    have hr := s1.fetchWords_keepsThreads w old (pc + 4) (lengthOf (bytesToNat (x.bytes.take 1)) / 4 - 1)
    dsimp only
    split <;> rename_i heq' <;> rw [heq'] at hr <;> exact hw.trans hr

theorem State.fetch_keepsThreads (s : State) (w : Issuer) (born : Nat) (pc : Pc) : s.KeepsThreads (s.fetch w born pc).1 := by
  unfold State.fetch
  split
  · exact s.fetchAs_keepsThreads w none pc
  have ho := s.fetchAs_keepsThreads w (some born) pc
  split <;> rename_i heq <;> rw [heq] at ho
  · exact ho
  rename_i s1 x
  have hn := s1.fetchAs_keepsThreads w none pc
  split <;> rename_i heq' <;> rw [heq'] at hn
  · exact ho.trans hn
  split
  · exact ho.trans hn
  split
  · exact (ho.trans hn).trans (.of_tiles rfl rfl)
  · exact ho.trans hn

/-! ### How many bytes a fetch yields (R32) -/

theorem memRead_length (m : List Host.Cell) (n : Nat) : ∀ a, (memRead m a n).length = n := by
  induction n with
  | zero => intro a; rfl
  | succ n ih => intro a; simp [memRead, ih]

theorem State.fetchWord_length {s s1 : State} {w : Issuer} {old : Option Nat} {pc : Pc} {x : Words}
    (h : s.fetchWord w old pc = (s1, .ok x)) : x.bytes.length = 4 := by
  unfold State.fetchWord at h
  split at h
  · cases h
  · cases h
    simp [memRead_length]

theorem State.fetchWords_length {s s1 : State} {w : Issuer} {old : Option Nat} {pc : Pc} {n : Nat} {x : Words}
    (h : s.fetchWords w old pc n = (s1, .ok x)) : x.bytes.length = 4 * n := by
  induction n generalizing s s1 pc x with
  | zero => cases h; rfl
  | succ n ih =>
    unfold State.fetchWords at h
    split at h
    · cases h
    · rename_i hw
      split at h
      · cases h
      · rename_i hr
        cases h
        rw [List.length_append, State.fetchWord_length hw, ih hr]
        omega

/-- The first word's length field says how many bytes the whole instruction has. -/
theorem State.fetchAs_length {s s1 : State} {w : Issuer} {old : Option Nat} {pc : Pc} {x : Words}
    (h : s.fetchAs w old pc = (s1, .ok x)) : x.bytes.length = lengthOf (bytesToNat x.bytes) := by
  unfold State.fetchAs at h
  split at h
  · cases h
  rename_i s2 y hy
  dsimp only at h
  split at h
  · cases h
  rename_i z hz
  cases h
  have hly := State.fetchWords_length hy
  obtain ⟨k, hk⟩ := (four_dvd_lengthOf (bytesToNat (y.bytes.take 1))).1
  have hk4 := (four_dvd_lengthOf (bytesToNat (y.bytes.take 1))).2
  have htake : (y.bytes ++ z.bytes).take 1 = y.bytes.take 1 := List.take_append_of_le_length (by omega)
  rw [← lengthOf_take_one, htake, List.length_append, hly, State.fetchWords_length hz]
  omega

theorem State.fetch_length {s s1 : State} {w : Issuer} {born : Nat} {pc : Pc} {x : Words}
    (h : s.fetch w born pc = (s1, .ok x)) : x.bytes.length = lengthOf (bytesToNat x.bytes) := by
  unfold State.fetch at h
  split at h
  · exact State.fetchAs_length h
  split at h
  · cases h
  rename_i hx
  have hlx := State.fetchAs_length hx
  split at h
  · cases h; exact hlx
  rename_i hy
  have hly := State.fetchAs_length hy
  split at h
  · cases h; exact hly
  split at h
  · simp only [Prod.mk.injEq, Except.ok.injEq] at h
    obtain ⟨-, rfl⟩ := h
    split
    · exact hlx
    · exact hly
  · cases h; exact hlx

/-! ### The issue of a fetched instruction (R33, R34) -/

/-- A thread that nothing stops, and that no instruction or loop test holds, fetches its instruction and runs it. -/
theorem State.issueSlot_fetched {s s1 : State} {tile slot : Nat} {t : Thread} {x : Words} (ht : s.thread? tile slot = some t)
    (hstop : ∀ i, t.status ≠ .stopped i) (hdying : ∀ n c, t.status ≠ .blocked .dying n c) (hheld : t.held = [])
    (hloop : t.loopPending = false) (hin : t.blockedIn = none)
    (hf : ({ s with cur := (tile, slot) } : State).fetch (({ s with cur := (tile, slot) } : State).who t) t.born t.pc = (s1, .ok x)) :
    s.issueSlot tile slot = runBytes s1 t x := by
  have hb : t.boundary = none := by
    simp only [Thread.boundary, hheld, firstHeld]
    split <;> rfl
  have hm : ({ s with cur := (tile, slot) } : State).me = some t := ht
  -- `hstop` and `hdying` exclude the two statuses that end the turn; simp takes them from the context.
  simp only [State.issueSlot, hm, hb, hloop, hin, hf, Bool.false_eq_true, if_false]

/-- Bytes that the decoder refuses stop the current thread with ILLEGAL. -/
theorem runBytes_illegal {s : State} {t u : Thread} {x : Words} {e : Reject} (hm : s.me = some u) (hbad : x.bad = false)
    (hd : decode x.bytes = .error e) :
    runBytes s t x = .next (s.stopFor s.cur.1 s.cur.2 u (u.before x.bytes.length Cause.illegal (firstBits (bytesToNat x.bytes)))) := by
  simp only [runBytes, hbad, hd, fetchTrap, hm, Bool.false_eq_true, if_false]

end Sys2Proof.Machine

namespace Sys2Proof.Spec
open Sys2Proof Sys2Proof.Machine

/-- A one-word number that the decoder refuses is an illegal word: the fetch yields exactly its four bytes and keeps the thread, which then traps. -/
theorem illegalWord_of_decodeNat {w : Nat} {e : Reject} (hl : lengthOf w = 4) (hw : w < 2 ^ 32) (hd : decodeNat w = .error e) : IllegalWord w := by
  constructor
  · rw [decodeTableWord_of_length_four hl, Nat.mod_eq_of_lt hw, hd]; rfl
  · intro s s1 tile slot t x ht hstop hdying hheld hloop hin hf hbad hx
    have hlen : x.bytes.length = 4 := by
      rw [State.fetch_length hf, ← lengthOf_mod (n := bytesToNat x.bytes) (m := 2 ^ 32) (by decide), hx, hl]
    have hval : bytesToNat x.bytes = w := by
      have hlt := bytesToNat_lt x.bytes
      rw [hlen] at hlt
      omega
    have hdec : decode x.bytes = .error e := by
      rw [decode_of_length_four (by rw [hval, hl]) (Nat.le_of_eq hlen.symm), List.take_of_length_le (Nat.le_of_eq hlen), hval, hd]; rfl
    have hkeep := State.fetch_keepsThreads { s with cur := (tile, slot) } (({ s with cur := (tile, slot) } : State).who t) t.born t.pc
    rw [hf] at hkeep
    have hcur : s1.cur = (tile, slot) := hkeep.1
    have hme : s1.me = some t := hkeep.me_eq.trans ht
    refine ⟨t, hme, ?_⟩
    have hfirst : firstBits w = BitVec.ofNat 64 w := by rw [firstBits, if_pos hl, Nat.mod_eq_of_lt hw]
    rw [State.issueSlot_fetched ht hstop hdying hheld hloop hin hf, runBytes_illegal hme hbad hdec, hcur, hval, hfirst]
    rfl

/-! ### FETST (R71) -/

theorem exec_fetst (d a : GReg) (s : State) : exec (.fetst d a) s = execFetst d a s := rfl

/-- With a full gd, FETST completes, whatever ga is: it writes whether ga is full. -/
theorem completes_fetst {s : State} {t : Thread} {d : GReg} (a : GReg) (hr : Runs s t) (hd : Full t [d]) :
    Completes (.fetst d a) s s (t.write d (boolWord (t.reg a).full) false) := by
  show exec (.fetst d a) s = _
  rw [exec_fetst, execFetst, issue_ok (.fetst d a) hr (.inl rfl) hd]
  rfl

theorem encodeNat_fetst (d a : GReg) : encodeNat (.fetst d a) = 89 + 256 * d.toNat + 4096 * a.toNat := by
  have h : encodeNat (.fetst d a) = baseWord 1 0x16 0 d ⟨a, false⟩ noSrc := rfl
  have h0 : (0 : GReg).toNat = 0 := rfl
  simp only [h, baseWord, noSrc, b2n, h0, Bool.false_eq_true, if_false]
  omega

/-- A number of class Y with FETST's opcode is FETST of the registers it names if its other fields are zero, and no instruction otherwise. -/
theorem decodeNat_fetst_opcode {n : Nat} (hc : n % 4 = 1) (hop : fld n 2 6 = 0x16) :
    decodeNat n = if encodeNat (.fetst (gAt n 8) (gAt n 12)) = n then .ok (.fetst (gAt n 8) (gAt n 12)) else .error .reserved := by
  have hraw : rawY n = some (.fetst (gAt n 8) (gAt n 12)) := by simp only [rawY, hop]
  have hwf : (Instr.fetst (gAt n 8) (gAt n 12)).wf = true := rfl
  simp only [decodeNat, hc, hraw, hwf, Bool.not_true, Bool.false_eq_true, if_false, beq_iff_eq]

/-- FETST's word with some value above its two registers, where the base layout has ea at bit 20 (R36): only the value 0 decodes. -/
theorem decodeNat_fetst_above {n e : Nat} {d a : GReg} (hn : n = 89 + 256 * d.toNat + 4096 * a.toNat + 2 ^ 20 * e) :
    decodeNat n = if e = 0 then .ok (.fetst d a) else .error .reserved := by
  have hd := d.isLt
  have ha := a.isLt
  have hgd : gAt n 8 = d := by
    apply BitVec.eq_of_toNat_eq
    simp only [gAt, fld, BitVec.toNat_ofNat]
    omega
  have hga : gAt n 12 = a := by
    apply BitVec.eq_of_toNat_eq
    simp only [gAt, fld, BitVec.toNat_ofNat]
    omega
  have hzero : 89 + 256 * d.toNat + 4096 * a.toNat = n ↔ e = 0 := by omega
  rw [decodeNat_fetst_opcode (by omega) (by rw [fld]; omega), hgd, hga, encodeNat_fetst]
  simp only [hzero]

theorem decodeTableWord_fetst (d a : GReg) : decodeTableWord 32 (encodeNat (.fetst d a)) = some (.fetst d a) := by
  have hn := encodeNat_fetst d a
  have hd := d.isLt
  have ha := a.isLt
  have hdec : decodeNat (encodeNat (.fetst d a)) = .ok (.fetst d a) := decodeNat_fetst_above (e := 0) hn
  rw [decodeTableWord_of_length_four (lengthOf_of_mod_four (by omega)), Nat.mod_eq_of_lt (by omega), hdec]
  rfl

theorem illegalWord_fetst_ea (d a : GReg) : IllegalWord (encodeNat (.fetst d a) + 2 ^ 20) := by
  have hn := encodeNat_fetst d a
  have hd := d.isLt
  have ha := a.isLt
  exact illegalWord_of_decodeNat (lengthOf_of_mod_four (by omega)) (by omega) (decodeNat_fetst_above (d := d) (a := a) (e := 1) (by omega))

/-- Settles O19: FETST's issue checks name gd alone, so with a full gd it completes for every ga; its ea bit is a field that must be zero, so a word that has it
set decodes to no instruction and traps ILLEGAL (R34, R71). -/
theorem testFull : Obligations.TestFull := by
  unfold Obligations.TestFull
  refine ⟨fun s t d a hr hd => ⟨fun hfull => ?_, fun hempty => ?_⟩, fun d a => ⟨decodeTableWord_fetst d a, illegalWord_fetst_ea d a⟩⟩
  · have hb : (t.reg a).full = true := by rw [Reg.full, hfull]; rfl
    have hc := completes_fetst a hr hd
    rwa [hb] at hc
  · have hb : (t.reg a).full = false := by rwa [Reg.full, Option.isNone_eq_false_iff, Option.isSome_iff_ne_none]
    have hc := completes_fetst a hr hd
    rwa [hb] at hc

end Sys2Proof.Spec
end

section
/-! INS (R309): the bits of an inserted field, the wait for an empty destination, and the word of class S (R46) that INS has. -/

namespace Sys2Proof

/-! ### Fields of a number and words of class S -/

/-- The bits above a field do not count in it. -/
theorem fld_mod_two_pow {n k lo w : Nat} (h : lo + w ≤ k) : fld (n % 2 ^ k) lo w = fld n lo w := by
  obtain ⟨j, rfl⟩ : ∃ j, k = lo + j := ⟨k - lo, by omega⟩
  rw [fld, fld, Nat.pow_add, Nat.mod_mul_right_div_self, Nat.mod_mod_of_dvd _ (Nat.pow_dvd_pow 2 (by omega))]

theorem toNat_ofNat_fld (n lo w : Nat) : (BitVec.ofNat w (fld n lo w)).toNat = fld n lo w := by
  rw [BitVec.toNat_ofNat, fld, Nat.mod_mod]

theorem b2n_lt_two (b : Bool) : b2n b < 2 := by cases b <;> decide

theorem b2n_beq_one (b : Bool) : (b2n b == 1) = b := by cases b <;> rfl

theorem lengthOf_of_mod_four_zero {n : Nat} (h : n % 4 = 0) : lengthOf n = 4 := by simp only [lengthOf, h]

/-- A number of class S is the instruction that its fields name, if that is well-formed and has this very word. -/
theorem decodeNat_classS {n : Nat} {i : Instr} (hc : n % 4 = 0) (hraw : rawS n = some i) :
    decodeNat n = if i.wf = false then .error .value else if encodeNat i = n then .ok i else .error .reserved := by
  simp only [decodeNat, hc, hraw, Bool.not_eq_true', beq_iff_eq]

/-! ### The word of INS -/

theorem wf_ins (d : GReg) (a : Src) (pos lm1 : BitVec 6) : (Instr.ins d a pos lm1).wf = decide (pos.toNat + lm1.toNat + 1 ≤ 64) := rfl

theorem encodeNat_ins (d : GReg) (a : Src) (pos lm1 : BitVec 6) : encodeNat (.ins d a pos lm1) =
    4 * 0x0D + 2 ^ 8 * d.toNat + 2 ^ 12 * a.reg.toNat + 2 ^ 16 * b2n a.trap + 2 ^ 17 * pos.toNat + 2 ^ 23 * lm1.toNat := by
  have h : encodeNat (.ins d a pos lm1) = immWord 0x0D d a (pos.toNat + 64 * lm1.toNat) := rfl
  rw [h, immWord]
  omega

theorem encodeNat_ins_lt (d : GReg) (a : Src) (pos lm1 : BitVec 6) : encodeNat (.ins d a pos lm1) < 2 ^ 32 := by
  have hn := encodeNat_ins d a pos lm1
  have ht := b2n_lt_two a.trap
  omega

/-- What the decoder reads from a number whose low byte is that of INS: S opcode 0x0D with the fields of the immediate layout. -/
theorem rawS_ins {n : Nat} (h : fld n 0 8 = 0x34) :
    rawS n = some (.ins (gAt n 8) (srcAt n 12 16) (BitVec.ofNat 6 (fld n 17 6)) (BitVec.ofNat 6 (fld n 23 6))) := by
  have hop : fld n 2 6 = 0x0D := by
    simp only [fld] at h ⊢
    omega
  simp only [rawS, hop]

theorem rawS_encodeNat_ins (d : GReg) (a : Src) (pos lm1 : BitVec 6) : rawS (encodeNat (.ins d a pos lm1)) = some (.ins d a pos lm1) := by
  have hn := encodeNat_ins d a pos lm1
  have ht := b2n_lt_two a.trap
  generalize encodeNat (.ins d a pos lm1) = n at hn
  have hop : fld n 0 8 = 0x34 := by rw [fld]; omega
  have hd : fld n 8 4 = d.toNat := by rw [fld]; omega
  have ha : fld n 12 4 = a.reg.toNat := by rw [fld]; omega
  have he : fld n 16 1 = b2n a.trap := by rw [fld]; omega
  have hpos : fld n 17 6 = pos.toNat := by rw [fld]; omega
  have hlm1 : fld n 23 6 = lm1.toNat := by rw [fld]; omega
  simp only [rawS_ins hop, srcAt, gAt, bitAt, hd, ha, he, hpos, hlm1, BitVec.ofNat_toNat, BitVec.setWidth_eq, b2n_beq_one]

/-- A well-formed INS is what its own word decodes to. -/
theorem decodeTableWord_ins {d : GReg} {a : Src} {pos lm1 : BitVec 6} (hwf : (Instr.ins d a pos lm1).wf = true) :
    decodeTableWord 32 (encodeNat (.ins d a pos lm1)) = some (.ins d a pos lm1) := by
  have hc : encodeNat (.ins d a pos lm1) % 4 = 0 := by
    rw [encodeNat_ins]
    omega
  rw [decodeTableWord_of_length_four (lengthOf_of_mod_four_zero hc), Nat.mod_eq_of_lt (encodeNat_ins_lt d a pos lm1),
    decodeNat_classS hc (rawS_encodeNat_ins d a pos lm1), hwf, if_neg (by decide), if_pos rfl]
  rfl

/-- The decoder refuses INS with a field that ends past bit 63. -/
theorem decodeNat_ins_past_end {n : Nat} (hop : fld n 0 8 = 0x34) (hend : 64 < fld n 17 6 + (fld n 23 6 + 1)) :
    decodeNat n = .error .value := by
  have hc : n % 4 = 0 := by
    rw [fld] at hop
    omega
  rw [decodeNat_classS hc (rawS_ins hop), wf_ins, toNat_ofNat_fld, toNat_ofNat_fld, if_pos (decide_eq_false (by omega))]

end Sys2Proof

namespace Sys2Proof.Machine
open Sys2Proof

/-! ### Bits of an inserted field -/

theorem getLsbD_fieldMask (pos len : Nat) {k : Nat} (hk : k < 64) : (fieldMask pos len).getLsbD k = decide (pos ≤ k ∧ k < pos + len) := by
  rw [fieldMask, BitVec.getLsbD_ofNat, Nat.testBit_mul_two_pow, Nat.testBit_two_pow_sub_one, decide_eq_true hk, Bool.true_and,
    ← Bool.decide_and, decide_eq_decide]
  omega

/-- A bit of the field is a bit of `x`, counted from the field's start; any other bit stays. -/
theorem getLsbD_insertField (old x : Word) (pos len : Nat) {k : Nat} (hk : k < 64) :
    (insertField old x pos len).getLsbD k = if pos ≤ k ∧ k < pos + len then x.getLsbD (k - pos) else old.getLsbD k := by
  simp only [insertField, BitVec.getLsbD_or, BitVec.getLsbD_and, BitVec.getLsbD_not, BitVec.getLsbD_shiftLeft, getLsbD_fieldMask pos len hk]
  split
  · rename_i h
    simp [h, hk, Nat.not_lt.2 h.1]
  · rename_i h
    simp [h, hk]

/-! ### Waiting for a register (R35, R70) -/

theorem Thread.mem_empties {t : Thread} {rs : List GReg} {r : GReg} : r ∈ t.empties rs ↔ r ∈ rs ∧ (t.reg r).prod ≠ none := by
  simp [Thread.empties, Reg.full, Option.isSome_iff_ne_none]

/-- An instruction whose mode allows it and whose trapping sources are full waits for the registers that are empty, if one is. -/
theorem issue_blocks {s : State} {t : Thread} (i : Instr) {priv : Bool} {srcs : List Src} {blocks dests : List GReg} {k : Thread → Out} {r : GReg}
    (hm : s.me = some t) (hp : priv = false ∨ isFirmware s.cur.2 = true) (hf : ∀ r ∈ (srcs.filter (·.trap)).map (·.reg), (t.reg r).prod = none)
    (hr : r ∈ srcs.map (·.reg) ++ blocks ++ dests) (he : (t.reg r).prod ≠ none) :
    issue s i priv srcs blocks dests k = block s t (.regs (t.empties (srcs.map (·.reg) ++ blocks ++ dests))) := by
  have hpriv : (priv && !isFirmware s.cur.2) = false := by rcases hp with h | h <;> simp [h]
  have hmem := Thread.mem_empties.2 ⟨hr, he⟩
  simp only [issue, hm, hpriv, (Thread.empties_nil t _).2 hf, lowest_none.2 rfl, Bool.false_eq_true, if_false]
  split
  · rename_i hnil
    rw [hnil] at hmem
    cases hmem
  · rfl

end Sys2Proof.Machine

namespace Sys2Proof.Spec
open Sys2Proof Sys2Proof.Machine

/-! ### INS (R309) -/

theorem exec_ins (d : GReg) (a : Src) (pos lm1 : BitVec 6) (s : State) : exec (.ins d a pos lm1) s = execIns d a pos lm1 s := rfl

/-- INS of full registers writes gd with the field replaced, poisoned if one of them is. -/
theorem completes_ins {s : State} {t : Thread} {d : GReg} {a : Src} (pos lm1 : BitVec 6) (hr : Runs s t) (hf : Full t [a.reg, d]) :
    Completes (.ins d a pos lm1) s s
      (t.write d (insertField (t.val d) (t.val a.reg) pos.toNat (lm1.toNat + 1)) (t.pois d || t.pois a.reg)) := by
  have hall : ∀ r ∈ [a].map (·.reg) ++ [d] ++ [d], (t.reg r).prod = none := by
    simpa [Full] using hf
  show exec (.ins d a pos lm1) s = _
  rw [exec_ins, execIns, issue_ok (.ins d a pos lm1) hr (.inl rfl) hall]
  rfl

/-- INS waits for an empty gd, and for no other register if ga is full. -/
theorem waits_ins {s : State} {t : Thread} {d : GReg} {a : Src} (pos lm1 : BitVec 6) (hr : Runs s t) (ha : Full t [a.reg])
    (hd : (t.reg d).prod ≠ none) : Waits (.ins d a pos lm1) s s t (.regs (t.empties [a.reg, d, d])) := by
  have htrap : ∀ r ∈ ([a].filter (·.trap)).map (·.reg), (t.reg r).prod = none :=
    fun r h => ha r (List.map_subset _ List.filter_sublist.subset h)
  show exec (.ins d a pos lm1) s = _
  rw [exec_ins, execIns, issue_blocks (.ins d a pos lm1) hr (.inl rfl) htrap (r := d) (by simp) hd]
  rfl

/-- With ga full and gd empty, gd is the only empty register of INS. -/
theorem mem_empties_ins {t : Thread} {d : GReg} {a : Src} (ha : Full t [a.reg]) (hd : (t.reg d).prod ≠ none) (r : GReg) :
    r ∈ t.empties [a.reg, d, d] ↔ r = d := by
  have hga := ha a.reg (List.mem_singleton_self _)
  rw [Thread.mem_empties]
  constructor
  · rintro ⟨hr, he⟩
    have hne : r ≠ a.reg := fun h => he (h ▸ hga)
    simpa [hne] using hr
  · rintro rfl
    exact ⟨by simp, hd⟩

theorem illegalWord_ins_past_end {n : Nat} (hop : fld n 0 8 = 0x34) (hend : 64 < fld n 17 6 + (fld n 23 6 + 1)) : IllegalWord (n % 2 ^ 32) := by
  have hop' : fld (n % 2 ^ 32) 0 8 = 0x34 := by rwa [fld_mod_two_pow (by decide)]
  have hend' : 64 < fld (n % 2 ^ 32) 17 6 + (fld (n % 2 ^ 32) 23 6 + 1) := by rwa [fld_mod_two_pow (by decide), fld_mod_two_pow (by decide)]
  have hc : n % 2 ^ 32 % 4 = 0 := by
    rw [fld] at hop
    omega
  exact illegalWord_of_decodeNat (lengthOf_of_mod_four_zero hc) (Nat.mod_lt n (by decide)) (decodeNat_ins_past_end hop' hend')

/-- Settles O4: the mask of the field picks each bit of the result from ga or from gd; both registers are checked at issue, gd without a field; and a word of
the opcode decodes to INS exactly as it was encoded, or is refused for the end of its field. -/
theorem insertField : Obligations.InsertField := by
  unfold Obligations.InsertField
  refine ⟨fun d a pos lm1 hwf => ⟨encodeNat_ins d a pos lm1, decodeTableWord_ins hwf⟩, fun n hop hend => illegalWord_ins_past_end hop hend,
    fun s t d a pos lm1 hr hf _ => ⟨_, completes_ins pos lm1 hr hf, fun k hk => getLsbD_insertField _ _ _ _ hk⟩,
    fun s t d a pos lm1 hr ha hd => ⟨_, mem_empties_ins ha hd, waits_ins pos lm1 hr ha hd⟩⟩

end Sys2Proof.Spec
end

section
/-! TRAP (R330): its word, the trap that it owes through the end check of a loop (R67, R243), and the one record that a stop writes (R246). -/

namespace Sys2Proof

/-! ### The word of TRAP -/

theorem encodeNat_trap (n : BitVec 15) : encodeNat (.trap n) = 4 * 0x29 + 2 ^ 17 * n.toNat := by
  have h : encodeNat (.trap n) = 4 * 0x29 + 2 ^ 8 * 0 + 2 ^ 12 * 0 + 2 ^ 16 * 0 + 2 ^ 17 * n.toNat := rfl
  omega

theorem rawS_trap {m : Nat} (h : fld m 2 6 = 0x29) : rawS m = some (.trap (BitVec.ofNat 15 (fld m 17 15))) := by
  simp only [rawS, h]

/-- TRAP's word with some value in bits 8 to 16, where the immediate layout has rd, ra and ea (R46): only the value 0 decodes. -/
theorem decodeNat_trap_fields {m r : Nat} {n : BitVec 15} (hm : m = 4 * 0x29 + 2 ^ 8 * r + 2 ^ 17 * n.toNat) (hr : r < 2 ^ 9) :
    decodeNat m = if r = 0 then .ok (.trap n) else .error .reserved := by
  have hop : fld m 2 6 = 0x29 := by rw [fld]; omega
  have himm : BitVec.ofNat 15 (fld m 17 15) = n := by
    apply BitVec.eq_of_toNat_eq
    rw [toNat_ofNat_fld, fld]
    omega
  have hwf : (Instr.trap n).wf = true := rfl
  have hzero : encodeNat (.trap n) = m ↔ r = 0 := by rw [encodeNat_trap]; omega
  rw [decodeNat_classS (by omega) (rawS_trap hop), himm, hwf, if_neg (by decide)]
  simp only [hzero]

theorem decodeTableWord_trap (n : BitVec 15) : decodeTableWord 32 (encodeNat (.trap n)) = some (.trap n) := by
  have hn := encodeNat_trap n
  have hdec : decodeNat (encodeNat (.trap n)) = .ok (.trap n) := decodeNat_trap_fields (r := 0) hn (by decide)
  rw [decodeTableWord_of_length_four (lengthOf_of_mod_four_zero (by omega)), Nat.mod_eq_of_lt (by omega), hdec]
  rfl

end Sys2Proof

namespace Sys2Proof.Machine
open Sys2Proof

/-! ### The end check of a loop (R67) -/

/-- The test of a loop can be made, and says whether the loop makes another trip. -/
def Thread.GoesAgain (t : Thread) (e : LoopEntry) (again : Bool) : Prop :=
  (e.loopn = false ∧ again = decide (e.trips + 1 < e.n)) ∨
  (e.loopn = true ∧ (t.reg e.gc.reg).prod = none ∧ t.pois e.gc.reg = false ∧ again = decide (t.val e.gc.reg ≠ 0))

/-- A LOOPN finds its register empty, or finds it poisoned, or its test can be made, as a LOOP's always can. -/
theorem Thread.goesAgain_or (t : Thread) (e : LoopEntry) :
    (e.loopn = true ∧ (t.reg e.gc.reg).prod ≠ none) ∨ (e.loopn = true ∧ (t.reg e.gc.reg).prod = none ∧ t.pois e.gc.reg = true) ∨
    ∃ again, t.GoesAgain e again := by
  by_cases hl : e.loopn = true
  · by_cases hf : (t.reg e.gc.reg).prod = none
    · by_cases hp : t.pois e.gc.reg = true
      · exact .inr (.inl ⟨hl, hf, hp⟩)
      · exact .inr (.inr ⟨_, .inr ⟨hl, hf, Bool.eq_false_iff.2 hp, rfl⟩⟩)
    · exact .inl ⟨hl, hf⟩
  · exact .inr (.inr ⟨_, .inl ⟨Bool.eq_false_iff.2 hl, rfl⟩⟩)

/-- On an empty register a LOOPN waits, or traps if its field says so. -/
theorem Thread.endCheck_empty {t : Thread} {e : LoopEntry} (r : List LoopEntry) (hl : e.loopn = true) (he : (t.reg e.gc.reg).prod ≠ none) :
    t.endCheck e r = ({ t with loopPending := true }, if e.gc.trap then .empty e else .wait e.gc.reg) := by
  have hf : (t.reg e.gc.reg).full = false := by rwa [Reg.full, Option.isNone_eq_false_iff, Option.isSome_iff_ne_none]
  simp only [Thread.endCheck, hl, hf, Bool.not_false, Bool.and_self, if_true]
  split <;> rfl

theorem Thread.endCheck_poisoned {t : Thread} {e : LoopEntry} (r : List LoopEntry) (hl : e.loopn = true) (hf : (t.reg e.gc.reg).prod = none)
    (hp : t.pois e.gc.reg = true) : t.endCheck e r = ({ t with loopPending := true }, .poisoned e) := by
  have hfull : (t.reg e.gc.reg).full = true := by rw [Reg.full, hf]; rfl
  have hpois : (t.reg e.gc.reg).poison = true := hp
  simp only [Thread.endCheck, hl, hfull, hpois, Bool.not_true, Bool.and_false, Bool.and_self, Bool.false_eq_true, if_false, if_true]

theorem Thread.endCheck_tested {t : Thread} {e : LoopEntry} {again : Bool} (r : List LoopEntry) (h : t.GoesAgain e again) :
    t.endCheck e r =
      if again && (e.trips + 1 == e.max) then
        ({ t with loops := { e with trips := e.trips + 1 } :: r, loopPending := false }, .bound (e.trips + 1) e)
      else if again then ({ t with pc := e.start, loops := { e with trips := e.trips + 1 } :: r, loopPending := false }, .fine)
      else ({ t with loops := r, loopPending := false }, .fine) := by
  rcases h with ⟨hl, rfl⟩ | ⟨hl, hf, hp, rfl⟩
  · simp only [Thread.endCheck, hl, Bool.false_and, Bool.false_eq_true, if_false]
  · have hfull : (t.reg e.gc.reg).full = true := by rw [Reg.full, hf]; rfl
    have hpois : (t.reg e.gc.reg).poison = false := hp
    have hval : ((t.reg e.gc.reg).val != 0) = decide (t.val e.gc.reg ≠ 0) := by
      rw [Bool.eq_iff_iff, bne_iff_ne, decide_eq_true_iff, Thread.val]
    simp only [Thread.endCheck, hl, hfull, hpois, hval, Bool.not_true, Bool.and_false, Bool.false_eq_true, if_false, if_true]

/-- The end check changes where the thread stands and its open loops, and nothing else of it. -/
theorem Thread.endCheck_changes (t : Thread) (e : LoopEntry) (r : List LoopEntry) :
    ∃ pc loops pending, (t.endCheck e r).1 = { t with pc := pc, loops := loops, loopPending := pending } := by
  obtain ⟨hl, he⟩ | ⟨hl, hf, hp⟩ | ⟨again, ha⟩ := t.goesAgain_or e
  · rw [Thread.endCheck_empty r hl he]
    exact ⟨_, _, _, rfl⟩
  · rw [Thread.endCheck_poisoned r hl hf hp]
    exact ⟨_, _, _, rfl⟩
  · rw [Thread.endCheck_tested r ha]
    split
    · exact ⟨_, _, _, rfl⟩
    · split <;> exact ⟨_, _, _, rfl⟩

/-- What the end check decides does not depend on the trap that the thread owes. -/
theorem Thread.endCheck_owed (t : Thread) (o : Option Owed) (e : LoopEntry) (r : List LoopEntry) :
    ({ t with owed := o } : Thread).endCheck e r = ({ (t.endCheck e r).1 with owed := o }, (t.endCheck e r).2) := by
  obtain ⟨hl, he⟩ | ⟨hl, hf, hp⟩ | ⟨again, ha⟩ := t.goesAgain_or e
  · rw [Thread.endCheck_empty r hl he, Thread.endCheck_empty (t := { t with owed := o }) r hl he]
  · rw [Thread.endCheck_poisoned r hl hf hp, Thread.endCheck_poisoned (t := { t with owed := o }) r hl hf hp]
  · rw [Thread.endCheck_tested r ha, Thread.endCheck_tested (t := { t with owed := o }) r ha]
    split
    · rfl
    · split <;> rfl

theorem Thread.advance_straight {t : Thread} {n : Nat} (h : ∀ e r, t.loops = e :: r → t.pc + BitVec.ofNat 48 n ≠ e.endNext) :
    t.advance n = ({ t with pc := t.pc + BitVec.ofNat 48 n }, .fine) := by
  unfold Thread.advance
  dsimp only
  split
  · rfl
  · rename_i e r hl
    rw [if_neg (h e r hl)]

theorem Thread.advance_end {t : Thread} {n : Nat} {e : LoopEntry} {r : List LoopEntry} (hl : t.loops = e :: r)
    (hn : t.pc + BitVec.ofNat 48 n = e.endNext) : t.advance n = ({ t with pc := t.pc + BitVec.ofNat 48 n } : Thread).endCheck e r := by
  simp only [Thread.advance, hl, hn, if_true]

/-- The instruction at PC does not end the innermost loop, or it does. -/
theorem Thread.straight_or_end (t : Thread) (n : Nat) :
    (∀ e r, t.loops = e :: r → t.pc + BitVec.ofNat 48 n ≠ e.endNext) ∨ ∃ e r, t.loops = e :: r ∧ t.pc + BitVec.ofNat 48 n = e.endNext := by
  by_cases h : ∃ e r, t.loops = e :: r ∧ t.pc + BitVec.ofNat 48 n = e.endNext
  · exact .inr h
  · exact .inl fun e r hl hn => h ⟨e, r, hl, hn⟩

theorem Thread.advance_changes (t : Thread) (n : Nat) :
    ∃ pc loops pending, (t.advance n).1 = { t with pc := pc, loops := loops, loopPending := pending } := by
  obtain hs | ⟨e, r, hl, hn⟩ := t.straight_or_end n
  · rw [Thread.advance_straight hs]
    exact ⟨_, _, _, rfl⟩
  · rw [Thread.advance_end hl hn]
    exact Thread.endCheck_changes _ e r

theorem Thread.advance_owed (t : Thread) (o : Option Owed) (n : Nat) :
    ({ t with owed := o } : Thread).advance n = ({ (t.advance n).1 with owed := o }, (t.advance n).2) := by
  obtain hs | ⟨e, r, hl, hn⟩ := t.straight_or_end n
  · rw [Thread.advance_straight hs, Thread.advance_straight (t := { t with owed := o }) hs]
  · rw [Thread.advance_end hl hn, Thread.advance_end (t := { t with owed := o }) hl hn]
    exact Thread.endCheck_owed { t with pc := t.pc + BitVec.ofNat 48 n } o e r

end Sys2Proof.Machine

namespace Sys2Proof.Spec
open Sys2Proof Sys2Proof.Machine

/-- What `EndsAt` asks of the thread that the end check leaves, for each decision of the check. -/
def Decided (ends : Thread → Prop) (bound : Nat → LoopEntry → Thread → Prop) (test : BitVec 8 → LoopEntry → Thread → Prop)
    (waits : GReg → Thread → Prop) (x : Thread) : LoopOut → Prop
  | .fine => ends x
  | .bound k e => bound k e x
  | .wait gc => waits gc x
  | .empty e => test 0x06 e x
  | .poisoned e => test 0x0E e x

section
variable {ends : Thread → Prop} {bound : Nat → LoopEntry → Thread → Prop} {test : BitVec 8 → LoopEntry → Thread → Prop} {waits : GReg → Thread → Prop}

theorem Decided.of_tested {u : Thread} {e : LoopEntry} {r : List LoopEntry} {again : Bool}
    (h : Decided ends bound test waits (u.endCheck e r).1 (u.endCheck e r).2) (ha : u.GoesAgain e again) :
    (again = true → e.trips + 1 ≠ e.max → ends { u with pc := e.start, loops := { e with trips := e.trips + 1 } :: r, loopPending := false }) ∧
    (again = true → e.trips + 1 = e.max → bound (e.trips + 1) e { u with loops := { e with trips := e.trips + 1 } :: r, loopPending := false }) ∧
    (again = false → ends { u with loops := r, loopPending := false }) := by
  rw [Thread.endCheck_tested r ha] at h
  refine ⟨fun h1 hk => ?_, fun h1 hk => ?_, fun h1 => ?_⟩
  · rwa [h1, Bool.true_and, if_neg (by simpa using hk), if_pos rfl] at h
  · rwa [h1, Bool.true_and, if_pos (by simpa using hk)] at h
  · rwa [h1, Bool.false_and, if_neg (by decide), if_neg (by decide)] at h

theorem Decided.of_empty {u : Thread} {e : LoopEntry} {r : List LoopEntry}
    (h : Decided ends bound test waits (u.endCheck e r).1 (u.endCheck e r).2) (hl : e.loopn = true) (he : (u.reg e.gc.reg).prod ≠ none) :
    (e.gc.trap = false → waits e.gc.reg { u with loopPending := true }) ∧ (e.gc.trap = true → test 0x06 e { u with loopPending := true }) := by
  rw [Thread.endCheck_empty r hl he] at h
  refine ⟨fun ht => ?_, fun ht => ?_⟩
  · rwa [ht, if_neg (by decide)] at h
  · rwa [ht, if_pos rfl] at h

theorem Decided.of_poisoned {u : Thread} {e : LoopEntry} {r : List LoopEntry}
    (h : Decided ends bound test waits (u.endCheck e r).1 (u.endCheck e r).2) (hl : e.loopn = true) (hf : (u.reg e.gc.reg).prod = none)
    (hp : u.pois e.gc.reg = true) : test 0x0E e { u with loopPending := true } := by
  rwa [Thread.endCheck_poisoned r hl hf hp] at h

/-- The cases of `EndsAt` are those of the end check. -/
theorem endsAt_of_decided {t : Thread} {n : Nat} (h : Decided ends bound test waits (t.counted.advance n).1 (t.counted.advance n).2) :
    EndsAt t n ends bound test (fun e x => waits e.gc.reg x) := by
  refine ⟨fun hs => ?_, fun e r hl hn => ?_⟩
  · rwa [Thread.advance_straight (t := t.counted) hs] at h
  · rw [Thread.advance_end (t := t.counted) hl hn] at h
    exact ⟨fun hloop => h.of_tested (.inl ⟨hloop, rfl⟩), fun hloopn hf hp => h.of_tested (.inr ⟨hloopn, hf, hp, rfl⟩),
      fun hloopn he => (h.of_empty hloopn he).1, fun hloopn he => (h.of_empty hloopn he).2, fun hloopn hf hp => h.of_poisoned hloopn hf hp⟩

end

end Sys2Proof.Spec

namespace Sys2Proof.Machine

/-! ### What a write of whole units leaves (R113, R252) -/

theorem contains_setDel {l : List Nat} {k q : Nat} (h : q ≠ k) : (setDel l k).contains q = l.contains q := by
  induction l with
  | nil => rfl
  | cons j l ih =>
    unfold setDel
    split
    · rename_i hj
      rw [List.contains_cons, ← hj, beq_false_of_ne h, Bool.false_or]
    split
    · rfl
    · rw [List.contains_cons, List.contains_cons, ih]

theorem contains_foldl_setDel {us : List Nat} {q : Nat} (h : ∀ u ∈ us, q ≠ u) : ∀ l : List Nat, (us.foldl setDel l).contains q = l.contains q := by
  induction us with
  | nil => exact fun _ => rfl
  | cons u us ih =>
    intro l
    rw [List.foldl_cons, ih (fun v hv => h v (List.mem_cons_of_mem u hv)), contains_setDel (h u List.mem_cons_self)]

theorem State.keepPast_poison (s : State) (us : List (Nat × BitVec 8)) : (s.keepPast us).poison = s.poison := by
  unfold State.keepPast
  split <;> rfl

theorem State.notify_poison (s : State) (u : Nat) : (s.notify u).poison = s.poison := by
  unfold State.notify
  split <;> rfl

theorem State.foldl_notify_poison (us : List Nat) : ∀ s : State, (us.foldl State.notify s).poison = s.poison := by
  induction us with
  | nil => exact fun _ => rfl
  | cons u us ih => intro s; rw [List.foldl_cons, ih, State.notify_poison]

/-- A sound write that covers every unit it meets reads none of them, and leaves the poison of every other address as it was. -/
theorem State.writeBytes_poison_of_covers {s : State} {pa : Nat} {bs : List Byte} {q : Nat} (hc : ∀ u ∈ unitsOf pa bs.length, coversUnit pa bs.length u = true)
    (hq : q < pa ∨ pa + bs.length ≤ q) : (s.writeBytes pa bs false).poison.contains q = s.poison.contains q := by
  have hpart : (unitsOf pa bs.length).filter (fun u => !coversUnit pa bs.length u) = [] :=
    List.filter_eq_nil_iff.2 fun u hu => by rw [hc u hu]; decide
  have hne : ∀ u ∈ (unitsOf pa bs.length).filter (coversUnit pa bs.length), q ≠ u := by
    intro u hu
    have hcov := (List.mem_filter.1 hu).2
    have hsize : 0 < unitSize u := by unfold unitSize; split <;> decide
    simp only [coversUnit, Bool.and_eq_true, decide_eq_true_eq] at hcov
    omega
  unfold State.writeBytes
  dsimp only
  rw [State.foldl_notify_poison, hpart]
  dsimp only
  rw [if_neg (by decide), contains_foldl_setDel hne, State.keepPast_poison]
  rfl

theorem inSram_iff (pa : Nat) : inSram pa = true ↔ Config.sramBase ≤ pa ∧ pa < Config.sramBase + 2 ^ 32 := by
  rw [inSram, Bool.and_eq_true, decide_eq_true_iff, decide_eq_true_iff]

/-- A record's place is made of whole units: four of SRAM, or one of HBM. -/
theorem coversUnit_of_record {pa u : Nat} (h : 32 ∣ pa) (hu : u ∈ unitsOf pa 32) : coversUnit pa 32 u = true := by
  obtain ⟨j, rfl⟩ := h
  by_cases hs : inSram (32 * j) = true
  · have hsize : unitSize (32 * j) = 8 := by rw [unitSize, if_pos hs]
    simp only [unitsOf, hsize, show (32 : Nat) ≠ 0 by decide, if_false, List.mem_map, List.mem_range] at hu
    obtain ⟨k, hk, rfl⟩ := hu
    have hs' : inSram ((32 * j / 8 + k) * 8) = true := by
      have hbase : Config.sramBase % 32 = 0 := by decide
      rw [inSram_iff] at hs ⊢
      omega
    simp only [coversUnit, unitSize, hs', if_true, Bool.and_eq_true, decide_eq_true_eq]
    omega
  · have hsize : unitSize (32 * j) = 32 := by rw [unitSize, if_neg hs]
    simp only [unitsOf, hsize, show (32 : Nat) ≠ 0 by decide, if_false, List.mem_map, List.mem_range] at hu
    obtain ⟨k, hk, rfl⟩ := hu
    have hu : (32 * j / 32 + k) * 32 = 32 * j := by omega
    simp only [hu, coversUnit, hsize, Nat.le_refl, decide_true, Bool.and_self]

theorem State.keepPast_keepsThreads (s : State) (us : List (Nat × BitVec 8)) : s.KeepsThreads (s.keepPast us) := by
  unfold State.keepPast
  split
  · exact .refl s
  · exact .of_tiles rfl rfl

theorem State.notify_keepsThreads (s : State) (u : Nat) : s.KeepsThreads (s.notify u) := by
  unfold State.notify
  split
  · exact .of_tiles rfl rfl
  · exact .refl s

theorem State.writeBytes_keepsThreads (s : State) (pa : Nat) (bs : List Byte) (p : Bool) : s.KeepsThreads (s.writeBytes pa bs p) := by
  unfold State.writeBytes
  dsimp only
  refine .trans ?_ (.foldl State.notify_keepsThreads _ _)
  have htouch : s.KeepsThreads (s.touchAll ((unitsOf pa bs.length).filter fun u => !coversUnit pa bs.length u)) := .foldl State.touch_keepsThreads _ s
  exact (htouch.trans (State.keepPast_keepsThreads _ _)).trans (.of_tiles rfl rfl)

/-! ### The record of a trap (R245, R246) -/

theorem leBytes_length (n : Nat) : ∀ v, (leBytes v n).length = n := by
  induction n with
  | zero => exact fun _ => rfl
  | succ n ih => intro v; simp [leBytes, ih]

/-- A trap that lost no stores has one record. -/
theorem trapPieces_of_lost_nil (tile slot : Nat) (t : Thread) {i : TrapInfo} (h : i.lost = []) :
    trapPieces tile slot t i = [leBytes (trapRecord tile slot t i).toNat 32] := by
  rw [trapPieces, h]
  rfl

theorem State.ringPut_keepsThreads (ps : List (List Byte)) : ∀ (s : State) (base size n k : Nat), s.KeepsThreads (s.ringPut base size n k ps) := by
  induction ps with
  | nil => exact fun s _ _ _ _ => .refl s
  | cons p ps ih => exact fun s base size n k => (s.writeBytes_keepsThreads _ p false).trans (ih _ base size n (k + 1))

theorem State.irqPush_keepsThreads (s : State) (kind tile : Nat) (ctx : BitVec 6) (v : Word) : s.KeepsThreads (s.irqPush kind tile ctx v) := by
  unfold State.irqPush
  dsimp only
  split <;> exact .of_tiles rfl rfl

theorem State.irqPush_mem_poison (s : State) (kind tile : Nat) (ctx : BitVec 6) (v : Word) :
    (s.irqPush kind tile ctx v).mem = s.mem ∧ (s.irqPush kind tile ctx v).poison = s.poison := by
  unfold State.irqPush
  dsimp only
  split <;> exact ⟨rfl, rfl⟩

/-- The state once the pieces of a record stand in their ring and its producer count has moved, before anyone is told of it. -/
def State.recorded (s : State) (ctx : BitVec 6) (pieces : List (List Byte)) : State :=
  let c := s.ctx ctx
  let s1 := s.ringPut (baseOf c.trapRing 5) 32 (2 ^ (c.trapRing.toNat % 32)) c.trapProd.toNat pieces
  s1.setCtx ctx { s1.ctx ctx with trapProd := c.trapProd + BitVec.ofNat 64 pieces.length }

theorem State.recorded_keepsThreads (s : State) (ctx : BitVec 6) (ps : List (List Byte)) : s.KeepsThreads (s.recorded ctx ps) :=
  (State.ringPut_keepsThreads ps s _ _ _ _).trans (.of_tiles rfl rfl)

/-- A record is announced by an interrupt, or by the latch of the thread in slot 254. -/
theorem State.putRecord_cases (s : State) (tile : Nat) (ctx : BitVec 6) (firmware : Bool) (ps : List (List Byte)) :
    (firmware = true ∧ ∃ v, s.putRecord tile ctx firmware ps = (s.recorded ctx ps).irqPush 5 tile ctx v) ∨
    (firmware = false ∧ ∃ f : Thread, s.putRecord tile ctx firmware ps = (s.recorded ctx ps).setThread tile 254 f) ∨
    (firmware = false ∧ s.putRecord tile ctx firmware ps = s.recorded ctx ps) := by
  generalize hput : s.putRecord tile ctx firmware ps = s1
  unfold State.putRecord at hput
  dsimp only at hput
  split at hput
  · exact .inl ⟨‹_›, _, hput.symm⟩
  have hf := Bool.eq_false_iff.2 ‹_›
  split at hput
  · exact .inr (.inl ⟨hf, _, hput.symm⟩)
  · exact .inr (.inr ⟨hf, hput.symm⟩)

theorem State.putRecord_mem_poison (s : State) (tile : Nat) (ctx : BitVec 6) (firmware : Bool) (ps : List (List Byte)) :
    (s.putRecord tile ctx firmware ps).mem = (s.recorded ctx ps).mem ∧ (s.putRecord tile ctx firmware ps).poison = (s.recorded ctx ps).poison := by
  obtain ⟨-, v, h⟩ | ⟨-, f, h⟩ | ⟨-, h⟩ := s.putRecord_cases tile ctx firmware ps <;> rw [h]
  · exact State.irqPush_mem_poison _ _ _ _ _
  · exact ⟨rfl, rfl⟩
  · exact ⟨rfl, rfl⟩

/-- The record of the current thread, announced as that of its slot, leaves that thread as it is: slot 254 is a firmware slot itself. -/
theorem State.putRecord_me (s : State) (ctx : BitVec 6) (ps : List (List Byte)) : (s.putRecord s.cur.1 ctx (isFirmware s.cur.2) ps).me = s.me := by
  have hk := s.recorded_keepsThreads ctx ps
  obtain ⟨-, v, h⟩ | ⟨hslot, f, h⟩ | ⟨-, h⟩ := s.putRecord_cases s.cur.1 ctx (isFirmware s.cur.2) ps <;> rw [h]
  · exact (hk.trans (State.irqPush_keepsThreads _ _ _ _ _)).me_eq
  · have hne : s.cur.2 ≠ 254 := fun e => by rw [e] at hslot; exact absurd hslot (by decide)
    rw [← hk.me_eq]
    simp only [State.me, State.setThread_cur, hk.1]
    exact State.thread_setThread_ne _ f (.inr hne)
  · exact hk.me_eq

/-- A trap with one record, in a ring without room for it: the thread stops and nothing else happens. -/
theorem State.stopFor_of_no_room {s : State} {tile slot : Nat} {t : Thread} {i : TrapInfo} (hr : t.status = .ready) (hl : i.lost = [])
    (hroom : s.trapRoom t.ctx 1 = false) : s.stopFor tile slot t i = s.setThread tile slot { t with status := .stopped i, age := 0 } := by
  have hroom' : (s.setThread tile slot { t with status := .stopped i, age := 0 }).trapRoom t.ctx 1 = false := hroom
  simp only [State.stopFor, hr, State.flushTrap, State.thread_setThread, trapPieces_of_lost_nil _ _ _ hl, List.length_singleton, hroom', Bool.and_false,
    Bool.false_eq_true, if_false]

/-- A trap with one record, in a ring that has room for it: the thread stops and the record is written. -/
theorem State.stopFor_of_room {s : State} {tile slot : Nat} {t : Thread} {i : TrapInfo} (hr : t.status = .ready) (hl : i.lost = []) (hw : i.written = false)
    (hroom : s.trapRoom t.ctx 1 = true) : ∃ p : List Byte, p.length = 32 ∧ s.stopFor tile slot t i =
      ((s.setThread tile slot { t with status := .stopped i, age := 0 }).setThread tile slot
        { t with status := .stopped { i with written := true }, age := 0 }).putRecord tile t.ctx (isFirmware slot) [p] := by
  have hroom' : (s.setThread tile slot { t with status := .stopped i, age := 0 }).trapRoom t.ctx 1 = true := hroom
  refine ⟨_, leBytes_length 32 (trapRecord tile slot { t with status := .stopped i, age := 0 } i).toNat, ?_⟩
  simp only [State.stopFor, hr, State.flushTrap, State.thread_setThread, trapPieces_of_lost_nil _ _ _ hl, List.length_singleton, hroom', hw, Bool.not_false,
    Bool.and_self, if_true]

theorem State.blockAt_of_ready {s : State} {tile slot : Nat} {t : Thread} (w : Wait) (hr : t.status = .ready) :
    s.blockAt tile slot t w = (s.setThread tile slot { t with status := .blocked w s.serial s.cycle, age := 0 }).tickSerial := by
  simp only [State.blockAt, hr]

/-- A trap owed is taken once the end check has been made of the thread without it. -/
theorem State.retireAt_owed (s : State) (tile slot : Nat) (t : Thread) (o : Owed) (n : Nat) :
    s.retireAt tile slot { t with owed := some o } n =
      s.afterCheck tile slot { (t.counted.advance n).1 with owed := some o } (t.counted.advance n).2 := by
  have h := Thread.advance_owed t.counted (some o) n
  show s.afterCheck tile slot (({ t.counted with owed := some o } : Thread).advance n).1 (({ t.counted with owed := some o } : Thread).advance n).2 = _
  rw [h]

end Sys2Proof.Machine

namespace Sys2Proof.Spec
open Sys2Proof Sys2Proof.Machine

/-! ### What the stop of a thread leaves (R243, R246) -/

/-- The current thread has some registers, and no byte or poison has changed but those of the next record of a context, if its ring has room for one. -/
structure KeepsButRecord (s s1 : State) (regs : List Reg) (ctx : BitVec 6) : Prop where
  regs : ∃ t1, s1.me = some t1 ∧ t1.regs = regs
  outside : Memory.wf s.mem = true → ∀ q, (q < nextRecordAt s ctx ∨ nextRecordAt s ctx + 32 ≤ q) →
    s1.byte q = s.byte q ∧ s1.poison.contains q = s.poison.contains q
  noRoom : s.trapRoom ctx 1 = false → s1.mem = s.mem ∧ s1.poison = s.poison

theorem KeepsButRecord.of_mem_poison {s s1 : State} {t1 : Thread} {ctx : BitVec 6} (hme : s1.me = some t1) (hm : s1.mem = s.mem)
    (hp : s1.poison = s.poison) : KeepsButRecord s s1 t1.regs ctx :=
  ⟨⟨t1, hme, rfl⟩, fun _ q _ => ⟨by rw [State.byte, State.byte, hm], by rw [hp]⟩, fun _ => ⟨hm, hp⟩⟩

/-- A record of one piece lies where the ring has its next record. -/
theorem recorded_outside {s : State} {ctx : BitVec 6} {p : List Byte} (hp : p.length = 32) (hw : Memory.wf s.mem = true) {q : Nat}
    (hq : q < nextRecordAt s ctx ∨ nextRecordAt s ctx + 32 ≤ q) :
    (s.recorded ctx [p]).byte q = s.byte q ∧ (s.recorded ctx [p]).poison.contains q = s.poison.contains q := by
  have hmem : (s.recorded ctx [p]).mem = (s.writeBytes (nextRecordAt s ctx) p false).mem := rfl
  have hpoison : (s.recorded ctx [p]).poison = (s.writeBytes (nextRecordAt s ctx) p false).poison := rfl
  have halign : 32 ∣ nextRecordAt s ctx := Nat.dvd_add (Nat.dvd_mul_left 32 _) (Nat.dvd_mul_left 32 _)
  constructor
  · rw [State.byte, hmem, State.writeBytes_mem, memGet_memWrite p _ q hw, hp, if_neg (by omega), State.byte]
  · rw [hpoison]
    exact State.writeBytes_poison_of_covers (by rw [hp]; exact fun u => coversUnit_of_record halign) (by rw [hp]; exact hq)

theorem keepsButRecord_putRecord {s : State} {t : Thread} {ctx : BitVec 6} {p : List Byte} (hme : s.me = some t) (hp : p.length = 32)
    (hroom : s.trapRoom ctx 1 = true) : KeepsButRecord s (s.putRecord s.cur.1 ctx (isFirmware s.cur.2) [p]) t.regs ctx := by
  obtain ⟨hmem, hpoison⟩ := s.putRecord_mem_poison s.cur.1 ctx (isFirmware s.cur.2) [p]
  refine ⟨⟨t, (s.putRecord_me ctx [p]).trans hme, rfl⟩, fun hwf q hq => ?_, fun h => by rw [hroom] at h; cases h⟩
  rw [State.byte, hmem, hpoison]
  exact recorded_outside hp hwf hq

theorem keepsButRecord_stopFor {s : State} {t : Thread} {i : TrapInfo} (hr : t.status = .ready) (hl : i.lost = []) (hw : i.written = false) :
    KeepsButRecord s (s.stopFor s.cur.1 s.cur.2 t i) t.regs t.ctx := by
  cases hroom : s.trapRoom t.ctx 1 with
  | false =>
    rw [State.stopFor_of_no_room hr hl hroom]
    exact .of_mem_poison (t1 := { t with status := .stopped i, age := 0 }) (State.thread_setThread _ _ _ _) rfl rfl
  | true =>
    obtain ⟨p, hp, hstop⟩ := State.stopFor_of_room (tile := s.cur.1) (slot := s.cur.2) hr hl hw hroom
    have hput := keepsButRecord_putRecord (t := { t with status := .stopped { i with written := true }, age := 0 }) (ctx := t.ctx)
      (State.thread_setThread (s.setThread s.cur.1 s.cur.2 { t with status := .stopped i, age := 0 }) s.cur.1 s.cur.2 _) hp hroom
    rw [hstop]
    exact ⟨hput.regs, hput.outside, hput.noRoom⟩

theorem keepsButRecord_blockAt {s : State} {t : Thread} (w : Wait) (hr : t.status = .ready) :
    KeepsButRecord s (s.blockAt s.cur.1 s.cur.2 t w) t.regs t.ctx := by
  rw [State.blockAt_of_ready w hr]
  exact .of_mem_poison (t1 := { t with status := .blocked w s.serial s.cycle, age := 0 }) (State.thread_setThread _ _ _ _) rfl rfl

/-- Whatever the end check decides for a thread that owes a trap, the thread stops, with one record, or waits. -/
theorem keepsButRecord_afterCheck {s : State} {x : Thread} (o : Owed) (d : LoopOut) (hr : x.status = .ready) :
    KeepsButRecord s (s.afterCheck s.cur.1 s.cur.2 { x with owed := some o } d) x.regs x.ctx := by
  cases d with
  | fine => exact keepsButRecord_stopFor (t := { x with owed := none }) hr rfl rfl
  | bound k e =>
    exact keepsButRecord_stopFor (t := { x with owed := none, pc := e.start, held := x.held ++ [.loopBound k e.pc e.start e.endNext] }) hr rfl rfl
  | wait gc => exact keepsButRecord_blockAt (t := { x with owed := some o }) _ hr
  | empty e => exact keepsButRecord_stopFor (t := { x with owed := some o }) hr rfl rfl
  | poisoned e => exact keepsButRecord_stopFor (t := { x with owed := some o }) hr rfl rfl

theorem keepsButRecord_retireAt {s : State} {t : Thread} (o : Owed) (n : Nat) :
    KeepsButRecord s (s.retireAt s.cur.1 s.cur.2 { t with owed := some o } n) t.regs t.ctx := by
  obtain ⟨pc, loops, pending, hx⟩ := t.counted.advance_changes n
  rw [State.retireAt_owed, hx]
  exact keepsButRecord_afterCheck (x := { t.counted with pc := pc, loops := loops, loopPending := pending }) o _ rfl

/-! ### TRAP (R330) -/

theorem illegalWord_trap_fields (n : BitVec 15) {r : BitVec 9} (hr : r ≠ 0) : IllegalWord (4 * 0x29 + 2 ^ 8 * r.toNat + 2 ^ 17 * n.toNat) := by
  have hdec := decodeNat_trap_fields (n := n) (r := r.toNat) rfl (by omega)
  rw [if_neg (fun h : r.toNat = 0 => hr (BitVec.eq_of_toNat_eq h))] at hdec
  exact illegalWord_of_decodeNat (lengthOf_of_mod_four_zero (by omega)) (by omega) hdec

theorem exec_trap (n : BitVec 15) (s : State) : exec (.trap n) s = execTrap n s := rfl

/-- TRAP completes in sequence, and owes SOFT with its number and its PC. -/
theorem completes_trap {s : State} {t : Thread} (n : BitVec 15) (hr : Runs s t) :
    Completes (.trap n) s s { t with owed := some ⟨Cause.soft, n.zeroExtend 64, t.pc⟩ } := by
  show exec (.trap n) s = _
  rw [exec_trap, execTrap, issue_ok (.trap n) hr (.inl rfl) (fun _ h => absurd h List.not_mem_nil)]
  rfl

/-- The current thread is stopped for SOFT, of after kind, with a value and the PC of its instruction; it goes on where `x` stands. -/
def SoftStop (s s1 : State) (value : Word) (pc : Pc) (x : Thread) : Prop :=
  ∃ i : TrapInfo, i.cause = 0x12 ∧ i.kind = 1 ∧ i.value = value ∧ i.pc = pc ∧ i.resume = x.pc ∧ i.skip = x.pc ∧
    i.popLoop = false ∧ i.lost = [] ∧ i.written = false ∧ s1 = s.stopFor s.cur.1 s.cur.2 { x with owed := none } i

/-- What each decision of the end check makes of a thread that owes SOFT (R67, R243). -/
theorem decided_soft (s : State) (t : Thread) (value : Word) (n : Nat) :
    let owes (x : Thread) : Thread := { x with owed := some ⟨Cause.soft, value, t.pc⟩ }
    let s1 := s.retireAt s.cur.1 s.cur.2 (owes t) n
    Decided (SoftStop s s1 value t.pc)
      (fun k e x => SoftStop s s1 value t.pc { x with pc := e.start, held := t.held ++ [.loopBound k e.pc e.start e.endNext] })
      (fun cause e x => TestTrap s s1 s.cur.1 s.cur.2 cause e (owes x)) (fun gc x => s1 = s.blockAt s.cur.1 s.cur.2 (owes x) (.loopTest gc))
      (t.counted.advance n).1 (t.counted.advance n).2 := by
  intro owes s1
  have hs1 : s1 = s.afterCheck s.cur.1 s.cur.2 (owes (t.counted.advance n).1) (t.counted.advance n).2 := State.retireAt_owed ..
  have hheld : t.held = (t.counted.advance n).1.held := by
    obtain ⟨pc, loops, pending, hx⟩ := t.counted.advance_changes n
    rw [hx]
    rfl
  rw [hheld]
  generalize (t.counted.advance n).1 = x at hs1
  cases hd : (t.counted.advance n).2 <;> rw [hd] at hs1
  case fine => exact ⟨_, rfl, rfl, rfl, rfl, rfl, rfl, rfl, rfl, rfl, hs1⟩
  case bound k e => exact ⟨_, rfl, rfl, rfl, rfl, rfl, rfl, rfl, rfl, rfl, hs1⟩
  case wait gc => exact hs1
  case empty e => exact ⟨_, rfl, rfl, rfl, rfl, rfl, rfl, hs1⟩
  case poisoned e => exact ⟨_, rfl, rfl, rfl, rfl, rfl, rfl, hs1⟩

/-- Settles O13: TRAP completes in sequence with SOFT owed, and the end check of R67, made of the thread without the debt, decides where it is paid; each
outcome blocks the thread, or stops it with one record, which covers whole units of memory. -/
theorem softTrap : Obligations.SoftTrap := by
  unfold Obligations.SoftTrap
  refine ⟨fun n => ⟨encodeNat_trap n, decodeTableWord_trap n⟩, fun n r hr => illegalWord_trap_fields n hr, fun s t n hr => ?_⟩
  obtain ⟨⟨t1, hme, hregs⟩, houtside, hnoRoom⟩ := keepsButRecord_retireAt (s := s) (t := t) ⟨Cause.soft, n.zeroExtend 64, t.pc⟩ 4
  have hreg (r : GReg) : t1.reg r = t.reg r := by rw [Thread.reg, Thread.reg, hregs]
  exact ⟨_, t1, completes_trap n hr, hme, endsAt_of_decided (decided_soft s t (n.zeroExtend 64) 4),
    fun r => ⟨congrArg Reg.val (hreg r), congrArg Reg.poison (hreg r), congrArg Reg.prod (hreg r)⟩, houtside, hnoRoom⟩

end Sys2Proof.Spec
end
